-- ==== Sys2Proof/Word.lean ====
section
/-! DEFINITION. The word types of the QK7 (R5-R7, R50) and nothing else: every helper that a test could
show wrong stands under Machine/ or in Decode.lean. -/

namespace Sys2Proof

/-- A byte of memory. -/
abbrev Byte := BitVec 8
/-- A scalar register, an address while it is computed, a system register. -/
abbrev W64 := BitVec 64
/-- A halfword address of the code segment (R153) and a b or lc register (R50). -/
abbrev W32 := BitVec 32
/-- A halfword of the index stream (R153). -/
abbrev W16 := BitVec 16
/-- A 16-byte granule (R125, R227). -/
abbrev W128 := BitVec 128
/-- A vector register (R50). -/
abbrev VecW := BitVec 4096
/-- A vector predicate, one bit per byte lane (R50). -/
abbrev MaskW := BitVec 512
/-- An accumulator tile or an operand slot: 16 KiB (R117, R255). -/
abbrev TileW := BitVec 131072
/-- A bundle (R157). -/
abbrev BundleW := BitVec 384

end Sys2Proof
end

