-- ==== Sys2Proof/Machine/Bits.lean ====
section
/-! DEFINITION. Bit fields, extension and byte order (R5, R6, R10): the helpers every other file uses. -/

namespace Sys2Proof

/-- Bits [lo+len-1:lo] of a word, as an unsigned value of width `len` (R5, R10). -/
def bits {w : Nat} (x : BitVec w) (lo len : Nat) : BitVec len := x.extractLsb' lo len

/-- A register-number field read as a number below `n`. -/
def fld {w : Nat} (n : Nat) [NeZero n] (x : BitVec w) : Fin n := Fin.ofNat n x.toNat

/-- A number below `n` written into a field of width `w`. -/
def enc {n : Nat} (w : Nat) (x : Fin n) : BitVec w := BitVec.ofNat w x.val

/-- A register-number field that must name one of `n` registers (R172, R199). -/
def fld? {w : Nat} (n : Nat) [NeZero n] (x : BitVec w) : Option (Fin n) :=
  if x.toNat < n then some (fld n x) else none

/-- One bit as a truth value. -/
def bit1 (b : Bool) : BitVec 1 := if b then 1#1 else 0#1

/-- Byte `i` of a word, little-endian (R6). -/
def byteOf {w : Nat} (x : BitVec w) (i : Nat) : Byte := x.extractLsb' (8 * i) 8

/-- The number whose little-endian bytes are `bs` (R6). -/
def leNat : List Byte → Nat
  | [] => 0
  | b :: bs => b.toNat + 256 * leNat bs

/-- The `n` low bytes of a number, little-endian (R6). -/
def leBytes : Nat → Nat → List Byte
  | 0, _ => []
  | n + 1, x => BitVec.ofNat 8 x :: leBytes n (x / 256)

/-- The word of width `w` whose little-endian bytes are `bs`. -/
def ofLe (w : Nat) (bs : List Byte) : BitVec w := BitVec.ofNat w (leNat bs)

/-- Sign extension from bit `k - 1` of a 64-bit word; `k` of 64 or more copies it (R176). -/
def sextFrom (k : Nat) (x : W64) : W64 :=
  if k = 0 then 0 else ((x.setWidth k).signExtend 64)

/-- Zero extension of the low `k` bits of a 64-bit word (R176). -/
def zextFrom (k : Nat) (x : W64) : W64 := (x.setWidth k).setWidth 64

/-- Field [lo + len - 1 : lo] of a number. -/
def nbits (x lo len : Nat) : Nat := (x >>> lo) % 2 ^ len

/-- Field [lo + len - 1 : lo] of a number replaced by `v`. -/
def nput (x lo len v : Nat) : Nat :=
  (x >>> (lo + len)) <<< (lo + len) + (v % 2 ^ len) <<< lo + x % 2 ^ lo

/-- The signed value of the low `k` bits of a number. -/
def sintOf (k x : Nat) : Int := if x % 2 ^ k < 2 ^ (k - 1) then (x % 2 ^ k : Nat) else (x % 2 ^ k : Nat) - (2 ^ k : Nat)

/-- An integer reduced modulo 2^k (R83). -/
def wrapNat (k : Nat) (x : Int) : Nat := (x % (2 ^ k : Nat)).toNat

/-- The integer clamped to the signed range of `k` bits, as its k-bit pattern (R10, R83). -/
def satS (k : Nat) (x : Int) : Nat :=
  wrapNat k (if x < -(2 ^ (k - 1) : Nat) then -(2 ^ (k - 1) : Nat) else if (2 ^ (k - 1) : Nat) ≤ x then (2 ^ (k - 1) : Nat) - 1 else x)

/-- The integer clamped to the unsigned range of `k` bits (R71). -/
def satU (k : Nat) (x : Int) : Nat :=
  if x < 0 then 0 else if (2 ^ k : Nat) ≤ x then 2 ^ k - 1 else x.toNat

/-- ⌈a ÷ b⌉. -/
def ceilDiv (a b : Nat) : Nat := (a + b - 1) / b

/-- The naturally aligned address at or below `a` for a power-of-two size. -/
def alignDown (a n : Nat) : Nat := a / n * n

end Sys2Proof
end

