-- ==== Sys2Proof/Config.lean ====
section
/-! DEFINITION. What the spec leaves open, as constants with no body: nothing can evaluate them and no
proof can know a value of them, so a statement about them holds for every value (DESIGN CHOICE, assumption log 2). -/

namespace Sys2Proof.Config

/-- A free number: the first argument is the machine's counter `State.fresh`, the second tells apart the
free numbers drawn at one count. Landing cycles (R10, R169), reads in flight (R55), early landings
(R57), retained translations (R99) and device-assigned numbers come from it. -/
opaque freeNat : Nat → Nat → Nat

/-- The byte at an address whose content the spec does not define: the first argument names the storage
(its space and the count at which the content became undefined), the second is the address. R113 (new
grants), R108 (new scratchpad), R105 (the weight store before its first writer), host and remote memory. -/
opaque freeByte : Nat → Nat → Byte

/-- The content of an operand slot at its claim (R117), by the machine's counter and the slot. -/
opaque freeSlot : Nat → Nat → TileW

/-- The correctly rounded value of a special function (R203) where the model's enclosure does not decide
the rounding: by function, format and operand bits (DEDUCED, assumption log 13). -/
opaque freeTranscendental : Nat → Nat → Nat → Nat

/-- The CRC-64 of a flit's bytes (R433): the spec gives no polynomial. -/
opaque crc64 : List Byte → BitVec 64
/-- A key drawn by heartwood or agreed with a base die (R445), by the machine's counter and a number. -/
opaque freeKey : Nat → Nat → BitVec 256
/-- The payload of a message that asks for an access (R433): the spec gives it no layout. -/
opaque freePayload : Nat → BitVec 1856
/-- SHA-384 of a byte string (R443). -/
opaque sha384 : List Byte → BitVec 384
/-- SHA-512 of the two attestation public keys (R448). -/
opaque attestKeysHash : BitVec 512
/-- Whether an Ed25519 signature of a message verifies under a key slot's provisioned key (R442). -/
opaque edVerifies : Nat → List Byte → List Byte → Bool
/-- Whether an ML-DSA-65 signature of a message verifies under a key slot's provisioned key (R442). -/
opaque mlVerifies : Nat → List Byte → List Byte → Bool
/-- The bytes of the bad-frame list that MEAS2 measures (R443): the spec gives the list no layout. -/
opaque badFrameBytes : List (Nat × Nat) → List Byte
/-- The bytes of the state tier's checkpoint area, which the firmware sets (R432). -/
opaque ckptArea : Nat
/-- The Ed25519 signature of a report by the device's attestation key (R448). -/
opaque edSign : List Byte → List Byte
/-- The ML-DSA-65 signature of a report by the device's attestation key (R448). -/
opaque mlSign : List Byte → List Byte

end Sys2Proof.Config
end

