-- ==== Sys2Proof/Syntax.lean ====
section
/-! DEFINITION. The instructions of the QK7: one constructor of `Instr` for each row of
spec/opcode_table.json, and the bundle that holds slot operations (R157-R164). Register numbers and
closed sets of names are types of their own; immediates keep the width of their field. -/

namespace Sys2Proof

/-- s0-s63 (R50). -/
abbrev SReg := Fin 64
/-- p0-p15 (R50). -/
abbrev PReg := Fin 16
/-- b0-b7 (R50). -/
abbrev BReg := Fin 8
/-- lc0-lc3 (R50). -/
abbrev LReg := Fin 4
/-- v0-v31 (R50). -/
abbrev VReg := Fin 32
/-- vp0-vp7 (R50). -/
abbrev VpReg := Fin 8
/-- mp0-mp7 (R50). -/
abbrev MpReg := Fin 8
/-- acc0-acc7 (R50). -/
abbrev AccReg := Fin 8
/-- fb0-fb3 (R50). -/
abbrev FbReg := Fin 4

/-- The element types of the vector slots, in the coding of T (R164, R197). -/
inductive VTy | f32 | bf16 | f16 | f64 | i32 | i16 | i8
  deriving DecidableEq, Repr
/-- Scalar floating-point formats, in the coding of IMM[1:0] (R186). -/
inductive SFmt | f64 | f32 | f16 | bf16
  deriving DecidableEq, Repr
/-- Types of FCVT, in the coding of R189. -/
inductive CvtTy | f64 | f32 | f16 | bf16 | i64 | u64 | i32 | u32
  deriving DecidableEq, Repr
/-- Rounding modes (R77). -/
inductive RMode | rne | rtz | rdn | rup | rna
  deriving DecidableEq, Repr
/-- Integer conditions of CMP (R180). -/
inductive ICond | eq | ne | lt | ge
  deriving DecidableEq, Repr
/-- Conditions of FCMP and VCMP (R188, R206). -/
inductive FCond | eq | ne | lt | le | gt | ge | un | ord
  deriving DecidableEq, Repr
/-- Access sizes (R222). -/
inductive MSize | b | h | w | d
  deriving DecidableEq, Repr
/-- Scopes (R130). -/
inductive Scope | grove | package | domain | system
  deriving DecidableEq, Repr
/-- Orderings of an atomic (R129). -/
inductive Ordering4 | rlx | acq | rel | ar
  deriving DecidableEq, Repr
/-- Operations of RED (R236), which are also the read-modify-write operations of R235. -/
inductive RedOp | add | min | max | minn | maxn | and | or | xor | fadd
  deriving DecidableEq, Repr
/-- Qualifiers of a full-empty load (R114). -/
inductive FeLoad | w | c
  deriving DecidableEq, Repr
/-- Qualifiers of a full-empty store (R114). -/
inductive FeStore | f | e | wf
  deriving DecidableEq, Repr
/-- Operations of RSIG (R244) and of a SIGNAL packet (R406). -/
inductive SigOp | store | add | umax
  deriving DecidableEq, Repr
/-- Comparisons of a WAITSIG packet (R406). -/
inductive WaitOp | geu | eq | ne
  deriving DecidableEq, Repr
/-- VSHUF patterns (R214). -/
inductive Shuf | ziplo | ziphi | unzeven | unzodd
  deriving DecidableEq, Repr
/-- MACCADD types (R271). -/
inductive AccTy | f32 | f64 | i32
  deriving DecidableEq, Repr
/-- MCVTACC modes (R271). -/
inductive AccCvt | f32OfI32 | i32OfF32 | bf16 | f16
  deriving DecidableEq, Repr

/-- The second operand of a scalar instruction: s[B], or the sign-extended immediate (R171). -/
inductive Src2
  | reg (b : SReg)
  | imm (v : BitVec 34)
  deriving DecidableEq, Repr
/-- A lane index or amount: a register, or an immediate (R213, R214). -/
inductive Idx
  | reg (x : SReg)
  | imm (v : BitVec 9)
  deriving DecidableEq, Repr
/-- A shift amount of a vector shift: a register of amounts, or an immediate (R205). -/
inductive VAmt
  | reg (b : VReg)
  | imm (v : BitVec 6)
  deriving DecidableEq, Repr
/-- The guard of a vector operation: vp[g], zeroing when z (R198). -/
structure Guard where
  g : VpReg
  z : Bool
  deriving DecidableEq, Repr
/-- The memory operand of a vector load or store: base register, DISP in 16-byte units, LAND (R226). -/
structure VMem where
  base : SReg
  disp : BitVec 13
  land : BitVec 10
  deriving DecidableEq, Repr
/-- The operand of a scalar atomic (R234): ordering, scope, size, displacement and landing. -/
structure AtomOp where
  ord : Ordering4
  scope : Scope
  size : MSize
  disp : BitVec 22
  land : BitVec 10
  deriving DecidableEq, Repr
/-- The flags every copy operation has: yield-wait and the job tag (R242). -/
structure CFlags where
  yw : Bool
  tag : Fin 64
  deriving DecidableEq, Repr
/-- The flags of an MMA: transpose B, transpose A, start (R264). -/
structure MmaFlags where
  tb : Bool
  ta : Bool
  start : Bool
  deriving DecidableEq, Repr
/-- The condition of a header operation: p[cp] XOR cn (R160). -/
structure HCond where
  cp : PReg
  cn : Bool
  deriving DecidableEq, Repr

/-- The header of a packet but for OPC (R400). -/
structure PktHdr where
  seq : BitVec 32
  cpl : Bool
  barr : Bool
  tag : BitVec 16
  deriving DecidableEq, Repr

/-- The subjects of an event: the numbers of its core, context, grove, job, granule, queue, frame or port, as
each event's meaning says, and one truth value. -/
structure Args where
  a : Nat
  b : Nat
  c : Nat
  d : Nat
  f : Bool
  deriving DecidableEq, Repr

/-- The instructions. Slot operations first, in the order of R165, then the header operations of R160 and
R30, then the events, packets, register writes, requests and services of opcode_table.json. -/
inductive Instr
  -- Slot S: scalar (07)
  | nop
  | add (d a : SReg) (y : Src2) | sub (d a : SReg) (y : Src2) | mul (d a : SReg) (y : Src2)
  | mulh (d a : SReg) (y : Src2) | mulhn (d a : SReg) (y : Src2) | div (d a : SReg) (y : Src2)
  | divn (d a : SReg) (y : Src2) | rem (d a : SReg) (y : Src2) | remn (d a : SReg) (y : Src2)
  | and (d a : SReg) (y : Src2) | or (d a : SReg) (y : Src2) | xor (d a : SReg) (y : Src2)
  | andn (d a : SReg) (y : Src2) | shl (d a : SReg) (y : Src2) | shr (d a : SReg) (y : Src2)
  | sar (d a : SReg) (y : Src2) | rol (d a : SReg) (y : Src2) | min (d a : SReg) (y : Src2)
  | max (d a : SReg) (y : Src2) | minn (d a : SReg) (y : Src2) | maxn (d a : SReg) (y : Src2)
  | clz (d a : SReg) | ctz (d a : SReg) | popc (d a : SReg)
  | sext (d a : SReg) (w : Fin 64) | zext (d a : SReg) (w : Fin 64)
  | sel (d a b : SReg) (neg : Bool) (p : PReg)
  | movi (d : SReg) (v : BitVec 34) | movhi (d : SReg) (v : BitVec 30)
  | bfx (d a : SReg) (pos : BitVec 6) (len : BitVec 7) | bfi (d a : SReg) (pos : BitVec 6) (len : BitVec 7)
  | cmp (c : ICond) (n : Bool) (d : PReg) (a : SReg) (y : Src2)
  | pand (d a b : PReg) (nb na : Bool) | por (d a b : PReg) (nb na : Bool) | pxor (d a b : PReg) (nb na : Bool)
  | pnot (d a : PReg) | pmov (d a : PReg)
  | bta (d : BReg) (t : BitVec 32)
  | btrWrite (d : BReg) (a : SReg) (off : BitVec 34) | btrRead (d : SReg) (a : BReg)
  | loopWrite (d : LReg) (y : Src2) | loopRead (d : SReg) (a : LReg)
  | rdpc (d : SReg) (off : BitVec 34)
  | fadd (f : SFmt) (d a b : SReg) | fsub (f : SFmt) (d a b : SReg) | fmul (f : SFmt) (d a b : SReg)
  | ffma (f : SFmt) (d a b c : SReg) | fdiv (f : SFmt) (d a b : SReg) | fsqrt (f : SFmt) (d a : SReg)
  | fmin (f : SFmt) (d a b : SReg) | fmax (f : SFmt) (d a b : SReg)
  | fcmp (c : FCond) (f : SFmt) (d : PReg) (a b : SReg)
  | fcvt (d a : SReg) (m : RMode) (src dst : CvtTy)
  -- Slot S: memory, atomics, synchronisation (09)
  | ld (sz : MSize) (n : Bool) (d a : SReg) (disp : BitVec 24) (land : BitVec 10)
  | st (sz : MSize) (b a : SReg) (disp : BitVec 24)
  | ldfe (q : FeLoad) (sz : MSize) (n : Bool) (d a : SReg) (disp : BitVec 24) (land : BitVec 10)
  | stfe (q : FeStore) (sz : MSize) (b a : SReg) (disp : BitVec 24)
  | ldg (sz : MSize) (n : Bool) (d a b : SReg) (disp : BitVec 24) (land : BitVec 10)
  | fence (sc : Scope)
  | pref (l2 : Bool) (a : SReg) (disp : BitVec 24)
  | aadd (d a b : SReg) (o : AtomOp) | amin (d a b : SReg) (o : AtomOp) | amax (d a b : SReg) (o : AtomOp)
  | aminn (d a b : SReg) (o : AtomOp) | amaxn (d a b : SReg) (o : AtomOp) | aand (d a b : SReg) (o : AtomOp)
  | aor (d a b : SReg) (o : AtomOp) | axor (d a b : SReg) (o : AtomOp) | axchg (d a b : SReg) (o : AtomOp)
  | acas (d a b : SReg) (o : AtomOp) | afadd (d a b : SReg) (o : AtomOp)
  | red (op : RedOp) (a b : SReg) (o : AtomOp)
  | arrive (sc : Scope) (d a : SReg) (disp : BitVec 22) (land : BitVec 10)
  | waitb (sc : Scope) (d a b : SReg) (disp : BitVec 22) (land : BitVec 10)
  | waitbTry (sc : Scope) (d a b : SReg) (disp : BitVec 22) (land : BitVec 10)
  | binit (sc : Scope) (a b : SReg) (disp : BitVec 22)
  -- Slot S: tasks, watches, generations, handles, system (11)
  | spawn (d a : SReg) (land : BitVec 10) | spawnk (d a b : SReg) (land : BitVec 10)
  | tabort (code : BitVec 15) | tstat (d a : SReg) (land : BitVec 10)
  | watch (d a : SReg) (disp : BitVec 24) (land : BitVec 10)
  | unwatch (d a : SReg) (land : BitVec 10) | wstat (d a : SReg) (land : BitVec 10)
  | snap (d : SReg) (land : BitVec 10) | gdrop (d a : SReg) (land : BitVec 10)
  | groll (d a b : SReg) (land : BitVec 10) | ckpt (d a b : SReg) (land : BitVec 10)
  | gstat (d a : SReg) (land : BitVec 10)
  | hnew (d a : SReg) (land : BitVec 10) | hfree (d a : SReg) (land : BitVec 10)
  | hfork (d a : SReg) (land : BitVec 10) | havg (d a b : SReg) (n : Fin 8) (land : BitVec 10)
  | hsnap (d a : SReg) (land : BitVec 10) | hroll (d a b : SReg) (land : BitVec 10)
  | hmig (d a b : SReg) (land : BitVec 10) | hpin (d a : SReg) (land : BitVec 10)
  | hunpin (d a : SReg) (land : BitVec 10) | hstat (d a : SReg) (land : BitVec 10)
  | pgready (d a b : SReg) (land : BitVec 10)
  | rdsys (d : SReg) (num : BitVec 12) | wrsys (a : SReg) (num : BitVec 12)
  | trap (code : BitVec 15) | svc (d a : SReg) (service : BitVec 16) (land : BitVec 10)
  | phase (n : Fin 16) | halt
  -- Slots V0 and V1 (08)
  | vnop
  | vadd (t : VTy) (d a b : VReg) (g : Guard) | vsub (t : VTy) (d a b : VReg) (g : Guard)
  | vmul (t : VTy) (d a b : VReg) (g : Guard)
  | vfma (t : VTy) (d a b c : VReg) (g : Guard) | vfms (t : VTy) (d a b c : VReg) (g : Guard)
  | vfnma (t : VTy) (d a b c : VReg) (g : Guard)
  | vmin (t : VTy) (n : Bool) (d a b : VReg) (g : Guard) | vmax (t : VTy) (n : Bool) (d a b : VReg) (g : Guard)
  | vabs (t : VTy) (d a : VReg) (g : Guard) | vneg (t : VTy) (d a : VReg) (g : Guard)
  | vaddsat (t : VTy) (n : Bool) (d a b : VReg) (g : Guard)
  | vsubsat (t : VTy) (n : Bool) (d a b : VReg) (g : Guard)
  | vmulh (t : VTy) (n : Bool) (d a b : VReg) (g : Guard)
  | vrcp (t : VTy) (d a : VReg) (g : Guard) | vrsq (t : VTy) (d a : VReg) (g : Guard)
  | vexp2 (t : VTy) (d a : VReg) (g : Guard) | vlog2 (t : VTy) (d a : VReg) (g : Guard)
  | vtanh (t : VTy) (d a : VReg) (g : Guard) | vsigm (t : VTy) (d a : VReg) (g : Guard)
  | vsqrt (t : VTy) (d a : VReg) (g : Guard) | vdiv (t : VTy) (d a b : VReg) (g : Guard)
  | vand (t : VTy) (d a b : VReg) (g : Guard) | vor (t : VTy) (d a b : VReg) (g : Guard)
  | vxor (t : VTy) (d a b : VReg) (g : Guard) | vnot (t : VTy) (d a : VReg) (g : Guard)
  | vshl (t : VTy) (d a : VReg) (y : VAmt) (g : Guard) | vshr (t : VTy) (d a : VReg) (y : VAmt) (g : Guard)
  | vsar (t : VTy) (d a : VReg) (y : VAmt) (g : Guard)
  | vcmp (c : FCond) (t : VTy) (n : Bool) (d : VpReg) (a b : VReg) (g : Guard)
  | vsel (t : VTy) (d a b : VReg) (sel : VpReg) (g : Guard)
  | vpand (d a b : VpReg) (nb na : Bool) | vpor (d a b : VpReg) (nb na : Bool) | vpnot (d a : VpReg)
  | vany (t : VTy) (d : PReg) (a g : VpReg) | vall (t : VTy) (d : PReg) (a g : VpReg)
  | vpcnt (t : VTy) (d : SReg) (a g : VpReg)
  | vcvt (dst src : VTy) (n sat : Bool) (m : RMode) (part : Fin 8) (d a : VReg) (g : Guard)
  | vqnt (dst src : VTy) (part : Fin 8) (d a b c : VReg) (g : Guard)
  | vdqnt (dst src : VTy) (part : Fin 8) (d a b c : VReg) (g : Guard)
  | vmov (t : VTy) (d a : VReg) (g : Guard) | vbcast (t : VTy) (d : VReg) (x : SReg) (g : Guard)
  | vextr (t : VTy) (n : Bool) (d : SReg) (a : VReg) (i : Idx) | vinsr (t : VTy) (d : VReg) (x : SReg) (i : Idx)
  | vperm (t : VTy) (d a b c : VReg) (g : Guard) | vshuf (t : VTy) (p : Shuf) (d a b : VReg) (g : Guard)
  | vrot (t : VTy) (d a : VReg) (i : Idx) (g : Guard) | viota (t : VTy) (d : VReg) (x : SReg) (g : Guard)
  | vrsum (t : VTy) (n : Bool) (d a : VReg) (g : VpReg) | vrmax (t : VTy) (n : Bool) (d a : VReg) (g : VpReg)
  | vrmin (t : VTy) (n : Bool) (d a : VReg) (g : VpReg) | vargmax (t : VTy) (n : Bool) (d a : VReg) (g : VpReg)
  | vscan (t : VTy) (d a : VReg) (g : VpReg) | vtopk (t : VTy) (n : Bool) (k : BitVec 4) (d c a : VReg) (g : VpReg)
  | vdot (t : VTy) (n : Bool) (d a b : VReg) (g : VpReg)
  -- Slots V0 and V1: memory (09) and accumulator transfers (08)
  | vld (t : VTy) (d : VReg) (m : VMem) (g : Guard) | vst (t : VTy) (a : VReg) (m : VMem) (g : VpReg)
  | vldfe (q : FeLoad) (t : VTy) (d : VReg) (m : VMem) (g : Guard)
  | vstfe (q : FeStore) (t : VTy) (a : VReg) (m : VMem) (g : VpReg)
  | vldw (t : VTy) (d : VReg) (win : Fin 4) (m : VMem) (g : Guard)
  | vlds (t : VTy) (d : VReg) (c : Fin 32) (m : VMem) (g : Guard)
  | vsts (t : VTy) (a : VReg) (c : Fin 32) (m : VMem) (g : VpReg)
  | vldx (t : VTy) (d b : VReg) (m : VMem) (g : Guard)
  | vfromacc (t : VTy) (d : VReg) (a : AccReg) (rp : BitVec 5) (g : Guard)
  | vtoacc (t : VTy) (d : AccReg) (a : VReg) (rp : BitVec 5) (g : Guard)
  -- Slot M (10)
  | mnop
  | msetShapeImm (p : MpReg) (w : BitVec 24) | msetTableImm (p : MpReg) (w : BitVec 24)
  | msetShapeReg (p : MpReg) (x : SReg) | msetTableReg (p : MpReg) (x : SReg)
  | mclaim (mask : BitVec 16) | mrelease (mask : BitVec 16) | mwait (mask : BitVec 8)
  | mzero (d : AccReg)
  | mmaBf16 (d : AccReg) (pa pb : MpReg) (f : MmaFlags) | mmaF16 (d : AccReg) (pa pb : MpReg) (f : MmaFlags)
  | mmaF32 (d : AccReg) (pa pb : MpReg) (f : MmaFlags) | mmaF64 (d : AccReg) (pa pb : MpReg) (f : MmaFlags)
  | mmaI8 (d : AccReg) (pa pb : MpReg) (f : MmaFlags)
  | mmawI4 (d : AccReg) (pa pb : MpReg) (f : MmaFlags) | mmawE2m1 (d : AccReg) (pa pb : MpReg) (f : MmaFlags)
  | mgrpI4i8 (d : AccReg) (pa pb : MpReg) (f : MmaFlags) (g : Fin 8)
  | mgrpI8 (d : AccReg) (pa pb : MpReg) (f : MmaFlags) (g : Fin 8)
  | mscac (d : AccReg) (src : AccReg) (pa pb : MpReg) (g : Fin 8)
  | mtrn (d src : AccReg) (w64 : Bool) | maccadd (t : AccTy) (d src : AccReg) | mcvtacc (m : AccCvt) (d src : AccReg)
  | fwbind (fb : FbReg) (h : SReg) (tile : Fin 64)
  | fwread (fb : FbReg) (d : AccReg) (row : Fin 64) (x : VReg)
  | fwfade (fb : FbReg) (x : VReg)
  | fwwrite (hebb : Bool) (fb : FbReg) (x : VReg)
  | fwstep (hebb post : Bool) (fb : FbReg) (d : AccReg) (row : Fin 64) (x : VReg)
  | fwchunk (hebb post : Bool) (fb : FbReg) (d : AccReg) (pk pv pq : MpReg) (n : Fin 64) (noread : Bool)
  | fwunbind (fb : FbReg) | fwwait (mask : BitVec 4)
  -- Slots C0 and C1 (09)
  | cnop
  | cpy (sf : Bool) (c : CFlags) (a b l : SReg) | cpy2d (sf : Bool) (c : CFlags) (a : SReg)
  | gather (sf : Bool) (c : CFlags) (a : SReg) | scatter (c : CFlags) (a : SReg)
  | osfill (c : CFlags) (slot : Fin 16) (b l : SReg) | wsfill (c : CFlags) (slot : Fin 16) (b : SReg)
  | wswrite (c : CFlags) (a b l : SReg)
  | wopen (c : CFlags) (k : Fin 4) (a : SReg) | wadv (c : CFlags) (k : Fin 4) (a : SReg) | wclose (c : CFlags) (k : Fin 4)
  | rput (c : CFlags) (a b l : SReg) | rget (sf : Bool) (c : CFlags) (a b l : SReg)
  | rsig (c : CFlags) (sc : Scope) (op : SigOp) (a b : SReg)
  | mcast (c : CFlags) (slot : Fin 16) (b l : SReg)
  | spin (c : CFlags) (a : SReg) | spout (c : CFlags) (a : SReg)
  | cwait (c : CFlags) | cflush (c : CFlags) (a b : SReg) | cinv (c : CFlags) (a b : SReg)
  -- Header (07)
  | jt (c : HCond) (t : BReg) | call (c : HCond) (t : BReg) | ret (c : HCond)
  | loop (c : HCond) (l : LReg) (t : BReg) | endTask | yieldRun
  -- Packets
  | nopPacket (h : PktHdr)
  | launch (h : PktHdr) (img rec : W64) (nrec : BitVec 20) (lblk deadline sig : W64)
  | signal (h : PktHdr) (addr val : W64) (sc : Scope) (op : SigOp)
  | waitsig (h : PktHdr) (addr val : W64) (sc : Scope) (op : WaitOp)
  | wrenq (h : PktHdr) (src dst : W64) (len : BitVec 17) (tq : BitVec 10) (tailVal : W64)
  | preempt (h : PktHdr) (n : BitVec 20) | restore (h : PktHdr) (n : BitVec 20) | endinst (h : PktHdr) (n : BitVec 20)
  -- Register writes of the host
  | tail (q : Nat) (v : W64) | cplhead (q : Nat) (v : W64)
  | queueEnable (q : Nat) | queueDisable (q : Nat) | queueSkip (q : Nat) | queueUnfreeze (q : Nat)
  | ifsel (v : W64) | registerWrite (off : Nat) (v : W64)
  -- Accesses from outside, reset
  | hostMemAccess (write : Bool) (pa : Nat) (data : List Byte)
  | pendingLineEvict (d : Nat) (line : Nat) | dcExtentRelease (base len : Nat)
  | remoteAccess (chip : Nat) (write : Bool) (pa : Nat) (data : List Byte)
  | deviceReset (linkFails storeFails : Bool) (heart sap : List Byte)
  | flitReceive (port : Nat) (head : BitVec 128) (payload : BitVec 1856) (crc : BitVec 64) | linkTrain (port : Nat) (lo hi : Nat)
  -- Events of the task unit and of contexts; their subjects stand in `State.ev`
  | taskRecordAccept | taskDispatch | taskCommit | gangResume | preemption
  | loadDataArrive | landingDeadline | requestAnswer | fullEmptyTimeout | waitbTimeout | svcTimeout | hangDetect
  | walkComplete | wsWindowEnd | phaseDrainEnd | storePerform | atomicPerform | shootAccept | rateWindowStart
  | jobGranuleWrite | jobComplete | jobPageFault | jobDataError | jobFootprintFault
  | matrixOpStart | matrixOpComplete | fwOpStart | fwOpComplete
  | directoryAnswer | roomReserved | moveComplete
  | snapCutComplete | poolCopyDone | heldWriteRelease | ckptGranuleWrite | ckptDrainComplete
  -- Events of the front end
  | packetFetch | packetStart | packetComplete | instanceEndOfLife
  | launchAdmit | waitsigPoll | frontEndWriteFault | budgetExceed
  -- Requests of R418 and R449, whose operand words stand in `State.req`, and the services of R447
  | root | shoot | shootComplete | pgreg | pgunreg | gpool | gpoolShrinkComplete | ckreg | exportReq | rwin | retire
  | grovecfg | telem | power | hang | fabreq | attest | mext
  -- Memory controllers, links, boot, power
  | frameRetire | retireCopyDone | parityAlert | channelRetrainDone | linkRekey | linkTagFail
  | portRetrainTimeout | pathLossTimeout | combineIntervalExpire | sapwoodReload | telemWrite
  | powerAverageCheck | junction95c | junction105c | junction115c | clockStepUp
  | lockstepCompare | portRetrainStart | cxlSnoop | keySlotProvision | keySlotRevoke
  deriving DecidableEq, Repr

/-- The classes of slot (R14, R164). -/
inductive Slot | s | v0 | v1 | m | c0 | c1
  deriving DecidableEq, Repr

/-- A slot operation of a bundle with its squash bit (R158). -/
structure SlotOp where
  op : Instr
  squash : Bool
  deriving DecidableEq, Repr

/-- A decoded bundle: the header operation (none for NEXT), the header's other bits, and the operations of
the slots whose VAL bit is set (R157-R160). -/
structure Bundle where
  seq : Option Instr
  yld : Bool
  sfp : Bool
  gap : Fin 16
  s : Option SlotOp
  v0 : Option SlotOp
  v1 : Option SlotOp
  m : Option SlotOp
  c0 : Option SlotOp
  c1 : Option SlotOp
  deriving DecidableEq, Repr

end Sys2Proof
end

