-- ==== Sys2Proof/WellFormed.lean ====
section
/-! DEFINITION. The checks an instruction's operands must pass beyond the widths of their fields: the
illegal-bundle causes of R166 that a slot operation raises by itself. -/

namespace Sys2Proof

/-- Causes of the illegal-bundle trap, with the codes of R166. -/
inductive Illegal
  /-- 0x0001: an unassigned encoding. -/
  | unassigned
  /-- 0x0002: a non-zero reserved or unused field. -/
  | unused
  /-- 0x0003: an unimplemented combination of matrix fields. -/
  | unimplemented
  /-- 0x0004: squash on an operation that R163 does not allow. -/
  | squash
  /-- 0x0005: a transfer in a delay position. -/
  | delay
  /-- 0x0006: two writers of one register. -/
  | twoWriters
  deriving DecidableEq, Repr

/-- The code of a cause (R166). -/
def Illegal.code : Illegal → Nat
  | .unassigned => 1 | .unused => 2 | .unimplemented => 3 | .squash => 4 | .delay => 5 | .twoWriters => 6

/-- Lane width in bytes (R197). -/
def VTy.bytes : VTy → Nat
  | .f32 => 4 | .bf16 => 2 | .f16 => 2 | .f64 => 8 | .i32 => 4 | .i16 => 2 | .i8 => 1
/-- Lane count (R197). -/
def VTy.lanes (t : VTy) : Nat := 512 / t.bytes
/-- Floating-point types. -/
def VTy.isFloat : VTy → Bool
  | .f32 | .bf16 | .f16 | .f64 => true
  | .i32 | .i16 | .i8 => false
/-- Integer types of FCVT (R189). -/
def CvtTy.isInt : CvtTy → Bool
  | .i64 | .u64 | .i32 | .u32 => true
  | .f64 | .f32 | .f16 | .bf16 => false
/-- Bytes of a scalar access (R222). -/
def MSize.bytes : MSize → Nat
  | .b => 1 | .h => 2 | .w => 4 | .d => 8
/-- The types of the special functions (R199). -/
def VTy.special : VTy → Bool
  | .f32 | .bf16 | .f16 => true
  | _ => false
/-- The types of an accumulator transfer (R199). -/
def VTy.accType : VTy → Bool
  | .f64 | .f32 | .i32 => true
  | _ => false

/-- A register block of `m` from `a` stays within s63 (R242, R285). -/
def blockOk (a : SReg) (m : Nat) : Bool := a.val + m ≤ 64

/-- `none` if `ok`, else the cause. -/
def need (ok : Bool) (c : Illegal) : Option Illegal := if ok then none else some c

/-- A landing field of an operation that must land (R220, R282). -/
def needLand (land : BitVec 10) : Option Illegal := need (land ≠ 0) .unassigned

/-- The landing rule of an atomic: LAND if D is not s0, else zero (R234). -/
def atomLand (d : SReg) (o : AtomOp) : Option Illegal :=
  if d = 0 then need (o.land = 0) .unused else needLand o.land

/-- The size rule of a load: N with size d is an unused field (R222). -/
def loadRule (sz : MSize) (n : Bool) (land : BitVec 10) : Option Illegal :=
  (needLand land).or (need (!(n && sz = .d)) .unused)

/-- N belongs to integer types only where R199 says so; VCMP, VCVT and VEXTR name N for every type and
ignore it on floats (DEDUCED, assumption log 15). -/
def intN (t : VTy) (n : Bool) : Option Illegal := need (!(n && t.isFloat)) .unused

/-- An immediate lane index below the lane count (R213, R214). -/
def idxOk (t : VTy) : Idx → Bool
  | .reg _ => true
  | .imm v => v.toNat < t.lanes

/-- The conversion factor between two lane widths (R210). -/
def partsOf (a b : VTy) : Nat := Nat.max a.bytes b.bytes / Nat.min a.bytes b.bytes

/-- The illegal-bundle cause an operation's operands raise by themselves, lowest code first (R166); `none`
for a well-formed operation. -/
def Instr.illegal : Instr → Option Illegal
  | .bfx _ _ pos len | .bfi _ _ pos len =>
      need (1 ≤ len.toNat && len.toNat ≤ 64 && pos.toNat + len.toNat ≤ 64) .unassigned
  | .cmp c n _ _ _ => need (!(n && (c = .eq || c = .ne))) .unassigned
  | .fcvt _ _ _ s d => need (!(s.isInt && d.isInt)) .unassigned
  | .ld sz n _ _ _ l | .ldfe _ sz n _ _ _ l | .ldg sz n _ _ _ _ l => loadRule sz n l
  | .aadd d _ _ o | .amin d _ _ o | .amax d _ _ o | .aminn d _ _ o | .amaxn d _ _ o | .aand d _ _ o
  | .aor d _ _ o | .axor d _ _ o | .axchg d _ _ o | .acas d _ _ o => atomLand d o
  | .afadd d _ _ o => (need (o.size = .w || o.size = .d) .unassigned).or (atomLand d o)
  | .red op _ _ o =>
      ((need (o.ord = .rlx || o.ord = .rel) .unassigned).or
        (need (!(op = .fadd) || o.size = .w || o.size = .d) .unassigned)).or (need (o.land = 0) .unused)
  | .arrive _ _ _ _ l | .waitb _ _ _ _ _ l | .waitbTry _ _ _ _ _ l => needLand l
  | .spawn _ a l | .spawnk _ a _ l => (needLand l).or (need (blockOk a 4) .unassigned)
  | .groll _ _ b l => (needLand l).or (need (blockOk b 2) .unassigned)
  | .havg _ a _ n l => (needLand l).or (need (blockOk a (n.val + 1)) .unassigned)
  | .tstat _ _ l | .watch _ _ _ l | .unwatch _ _ l | .wstat _ _ l | .snap _ l | .gdrop _ _ l | .ckpt _ _ _ l
  | .gstat _ _ l | .hnew _ _ l | .hfree _ _ l | .hfork _ _ l | .hsnap _ _ l | .hroll _ _ _ l | .hmig _ _ _ l
  | .hpin _ _ l | .hunpin _ _ l | .hstat _ _ l | .pgready _ _ _ l | .svc _ _ _ l => needLand l
  | .vmin t n _ _ _ _ | .vmax t n _ _ _ _ => intN t n
  | .vaddsat t _ _ _ _ _ | .vsubsat t _ _ _ _ _ | .vmulh t _ _ _ _ _ => need (!t.isFloat) .unassigned
  | .vrcp t _ _ _ | .vrsq t _ _ _ | .vexp2 t _ _ _ | .vlog2 t _ _ _ | .vtanh t _ _ _ | .vsigm t _ _ _ =>
      need t.special .unassigned
  | .vsqrt t _ _ _ | .vdiv t _ _ _ _ => need t.isFloat .unassigned
  | .vshl t _ _ _ _ | .vshr t _ _ _ _ | .vsar t _ _ _ _ => need (!t.isFloat) .unassigned
  | .vcmp c t n _ _ _ _ =>
      if t.isFloat then none
      else need (!((n && (c = .eq || c = .ne)) || c = .un || c = .ord)) .unassigned
  | .vcvt dst src _ sat m part _ _ _ =>
      (need (part.val < partsOf dst src) .unassigned).or
        ((need (!(sat && (dst.isFloat || src.isFloat))) .unused).or
          (need (!(!dst.isFloat && !src.isFloat && m ≠ .rne)) .unused))
  | .vqnt dst src part _ _ _ _ _ =>
      (need ((dst = .i16 || dst = .i8) && src.isFloat) .unassigned).or (need (part.val < partsOf dst src) .unassigned)
  | .vdqnt dst src part _ _ _ _ _ =>
      (need ((src = .i16 || src = .i8) && dst.isFloat) .unassigned).or (need (part.val < partsOf dst src) .unassigned)
  | .vextr t _ _ _ i | .vinsr t _ _ i | .vrot t _ _ i _ => need (idxOk t i) .unassigned
  | .vperm t _ _ _ c _ => need (t = .i8 || c = 0) .unused
  | .viota t _ _ _ => need (!t.isFloat) .unassigned
  | .vrsum t n _ _ _ | .vrmax t n _ _ _ | .vrmin t n _ _ _ | .vargmax t n _ _ _ | .vdot t n _ _ _ _ => intN t n
  | .vtopk t n k _ _ _ _ => (need (1 ≤ k.toNat && k.toNat ≤ 8) .unassigned).or (intN t n)
  | .vld _ _ m _ | .vldfe _ _ _ m _ | .vldw _ _ _ m _ | .vlds _ _ _ m _ => needLand m.land
  | .vst _ _ m _ | .vstfe _ _ _ m _ | .vsts _ _ _ m _ => need (m.land = 0) .unused
  | .vldx t _ _ m _ => (need (t ≠ .i8) .unassigned).or (needLand m.land)
  | .vfromacc t _ _ rp _ | .vtoacc t _ _ rp _ =>
      need (t.accType && (t ≠ .f64 || rp.toNat < 16)) .unassigned
  | .msetShapeImm _ w => need (bits w 20 2 = 0) .unused
  | .mclaim k | .mrelease k => need (k ≠ 0) .unassigned
  | .mmaI8 _ _ _ f => need (!f.ta && !f.tb) .unimplemented
  | .mmawI4 _ _ _ f | .mmawE2m1 _ _ _ f => need (!f.tb) .unimplemented
  | .mgrpI4i8 _ _ _ f _ | .mgrpI8 _ _ _ f _ => need (!f.ta && !f.tb && f.start) .unimplemented
  | .mscac d s _ _ _ => need (d ≠ s) .unimplemented
  | .fwchunk _ post _ d _ _ _ _ noread =>
      (need (!(noread && d ≠ 0)) .unused).or (need (!(noread && post)) .unimplemented)
  | .cpy2d _ _ a | .gather _ _ a | .scatter _ a => need (blockOk a 6) .unassigned
  | .wopen _ _ a => need (blockOk a 7) .unassigned
  | _ => none

/-- A well-formed instruction: its operands raise no illegal-bundle cause. -/
def Instr.wf (i : Instr) : Bool := i.illegal.isNone

end Sys2Proof
end

