-- ==== Sys2Proof/Decode.lean ====
section
/-! DEFINITION. The decoder of bundles, packets and request blocks, total on any bits, and after it the
encoder, both written from the encoding tables of 06 to 11 and 19. A slot decodes in two steps: the fields that
its opcode uses are read into an instruction (no instruction: an unassigned encoding), and the instruction's own
encoding is compared with the slot (a difference: a non-zero reserved or unused field). -/

namespace Sys2Proof

/-! ## Slot formats (R164) -/

/-- The fields of slot S. -/
structure SF where
  op : BitVec 8
  d : BitVec 6
  a : BitVec 6
  b : BitVec 6
  q : BitVec 4
  imm : BitVec 34
  deriving DecidableEq, Repr
/-- The fields of slots V0 and V1. -/
structure VF where
  op : BitVec 8
  t : BitVec 3
  d : BitVec 5
  a : BitVec 5
  b : BitVec 5
  c : BitVec 5
  g : BitVec 3
  z : BitVec 1
  imm : BitVec 29
  deriving DecidableEq, Repr
/-- The fields of slot M. -/
structure MF where
  op : BitVec 8
  d : BitVec 3
  pa : BitVec 3
  pb : BitVec 3
  pc : BitVec 3
  f : BitVec 4
  imm : BitVec 24
  deriving DecidableEq, Repr
/-- The fields of slots C0 and C1. -/
structure CF where
  op : BitVec 8
  sa : BitVec 6
  sb : BitVec 6
  sc : BitVec 6
  yw : BitVec 1
  sf : BitVec 1
  scope : BitVec 2
  tag : BitVec 6
  imm : BitVec 12
  deriving DecidableEq, Repr

/-- Slot S by its fields (R164). -/
def SF.ofWord (w : BitVec 64) : SF :=
  ⟨bits w 56 8, bits w 50 6, bits w 44 6, bits w 38 6, bits w 34 4, bits w 0 34⟩
/-- The bits of slot S (R164). -/
def SF.toWord (f : SF) : BitVec 64 := f.op ++ f.d ++ f.a ++ f.b ++ f.q ++ f.imm
/-- A vector slot by its fields (R164). -/
def VF.ofWord (w : BitVec 64) : VF :=
  ⟨bits w 56 8, bits w 53 3, bits w 48 5, bits w 43 5, bits w 38 5, bits w 33 5, bits w 30 3, bits w 29 1, bits w 0 29⟩
/-- The bits of a vector slot (R164). -/
def VF.toWord (f : VF) : BitVec 64 := f.op ++ f.t ++ f.d ++ f.a ++ f.b ++ f.c ++ f.g ++ f.z ++ f.imm
/-- Slot M by its fields (R164). -/
def MF.ofWord (w : BitVec 48) : MF :=
  ⟨bits w 40 8, bits w 37 3, bits w 34 3, bits w 31 3, bits w 28 3, bits w 24 4, bits w 0 24⟩
/-- The bits of slot M (R164). -/
def MF.toWord (f : MF) : BitVec 48 := f.op ++ f.d ++ f.pa ++ f.pb ++ f.pc ++ f.f ++ f.imm
/-- A copy slot by its fields (R164). -/
def CF.ofWord (w : BitVec 48) : CF :=
  ⟨bits w 40 8, bits w 34 6, bits w 28 6, bits w 22 6, bits w 21 1, bits w 20 1, bits w 18 2, bits w 12 6, bits w 0 12⟩
/-- The bits of a copy slot (R164). -/
def CF.toWord (f : CF) : BitVec 48 :=
  f.op ++ f.sa ++ f.sb ++ f.sc ++ f.yw ++ f.sf ++ f.scope ++ f.tag ++ f.imm

/-! ## Codes of the closed sets -/

/-- T of R164. -/
def VTy.code : VTy → BitVec 3
  | .f32 => 0 | .bf16 => 1 | .f16 => 2 | .f64 => 3 | .i32 => 4 | .i16 => 5 | .i8 => 6
/-- T of R164; 111 is unassigned. -/
def VTy.ofCode (x : BitVec 3) : Option VTy :=
  match x.toNat with
  | 0 => some .f32 | 1 => some .bf16 | 2 => some .f16 | 3 => some .f64 | 4 => some .i32 | 5 => some .i16
  | 6 => some .i8 | _ => none
/-- IMM[1:0] of R186. -/
def SFmt.code : SFmt → BitVec 2
  | .f64 => 0 | .f32 => 1 | .f16 => 2 | .bf16 => 3
/-- IMM[1:0] of R186. -/
def SFmt.ofCode (x : BitVec 2) : SFmt :=
  match x.toNat with
  | 0 => .f64 | 1 => .f32 | 2 => .f16 | _ => .bf16
/-- Type codes of R189. -/
def CvtTy.code : CvtTy → BitVec 3
  | .f64 => 0 | .f32 => 1 | .f16 => 2 | .bf16 => 3 | .i64 => 4 | .u64 => 5 | .i32 => 6 | .u32 => 7
/-- Type codes of R189. -/
def CvtTy.ofCode (x : BitVec 3) : CvtTy :=
  match x.toNat with
  | 0 => .f64 | 1 => .f32 | 2 => .f16 | 3 => .bf16 | 4 => .i64 | 5 => .u64 | 6 => .i32 | _ => .u32
/-- Rounding codes of R77. -/
def RMode.code : RMode → BitVec 3
  | .rne => 0 | .rtz => 1 | .rdn => 2 | .rup => 3 | .rna => 4
/-- Rounding codes of R77; 5 to 7 are unassigned. -/
def RMode.ofCode (x : BitVec 3) : Option RMode :=
  match x.toNat with
  | 0 => some .rne | 1 => some .rtz | 2 => some .rdn | 3 => some .rup | 4 => some .rna | _ => none
/-- Q[2:1] of R180. -/
def ICond.code : ICond → BitVec 2
  | .eq => 0 | .ne => 1 | .lt => 2 | .ge => 3
/-- Q[2:1] of R180. -/
def ICond.ofCode (x : BitVec 2) : ICond :=
  match x.toNat with
  | 0 => .eq | 1 => .ne | 2 => .lt | _ => .ge
/-- Conditions of R188. -/
def FCond.code : FCond → BitVec 3
  | .eq => 0 | .ne => 1 | .lt => 2 | .le => 3 | .gt => 4 | .ge => 5 | .un => 6 | .ord => 7
/-- Conditions of R188. -/
def FCond.ofCode (x : BitVec 3) : FCond :=
  match x.toNat with
  | 0 => .eq | 1 => .ne | 2 => .lt | 3 => .le | 4 => .gt | 5 => .ge | 6 => .un | _ => .ord
/-- SIZE of R222. -/
def MSize.code : MSize → BitVec 2
  | .b => 0 | .h => 1 | .w => 2 | .d => 3
/-- SIZE of R222. -/
def MSize.ofCode (x : BitVec 2) : MSize :=
  match x.toNat with
  | 0 => .b | 1 => .h | 2 => .w | _ => .d
/-- Scopes of R130. -/
def Scope.code : Scope → BitVec 2
  | .grove => 0 | .package => 1 | .domain => 2 | .system => 3
/-- Scopes of R130. -/
def Scope.ofCode (x : BitVec 2) : Scope :=
  match x.toNat with
  | 0 => .grove | 1 => .package | 2 => .domain | _ => .system
/-- Orderings of R129, Q[3:2] of R234. -/
def Ordering4.code : Ordering4 → BitVec 2
  | .rlx => 0 | .acq => 1 | .rel => 2 | .ar => 3
/-- Orderings of R129. -/
def Ordering4.ofCode (x : BitVec 2) : Ordering4 :=
  match x.toNat with
  | 0 => .rlx | 1 => .acq | 2 => .rel | _ => .ar
/-- Operations of R236. -/
def RedOp.code : RedOp → BitVec 6
  | .add => 0 | .min => 1 | .max => 2 | .minn => 3 | .maxn => 4 | .and => 5 | .or => 6 | .xor => 7 | .fadd => 8
/-- Operations of R236; the rest are unassigned. -/
def RedOp.ofCode (x : BitVec 6) : Option RedOp :=
  match x.toNat with
  | 0 => some .add | 1 => some .min | 2 => some .max | 3 => some .minn | 4 => some .maxn | 5 => some .and
  | 6 => some .or | 7 => some .xor | 8 => some .fadd | _ => none
/-- Qualifiers .w and .c (R222, R226). -/
def FeLoad.code : FeLoad → Nat
  | .w => 0 | .c => 1
/-- Qualifiers .w and .c. -/
def FeLoad.ofCode : Nat → Option FeLoad
  | 0 => some .w | 1 => some .c | _ => none
/-- Qualifiers .f, .e and .wf (R222, R226). -/
def FeStore.code : FeStore → Nat
  | .f => 0 | .e => 1 | .wf => 2
/-- Qualifiers .f, .e and .wf. -/
def FeStore.ofCode : Nat → Option FeStore
  | 0 => some .f | 1 => some .e | 2 => some .wf | _ => none
/-- Signal operations (R244). -/
def SigOp.code : SigOp → Nat
  | .store => 0 | .add => 1 | .umax => 2
/-- Signal operations; 3 is unassigned. -/
def SigOp.ofCode : Nat → Option SigOp
  | 0 => some .store | 1 => some .add | 2 => some .umax | _ => none
/-- Patterns of VSHUF (R214). -/
def Shuf.code : Shuf → BitVec 3
  | .ziplo => 0 | .ziphi => 1 | .unzeven => 2 | .unzodd => 3
/-- Patterns of VSHUF; 4 to 7 are unassigned. -/
def Shuf.ofCode (x : BitVec 3) : Option Shuf :=
  match x.toNat with
  | 0 => some .ziplo | 1 => some .ziphi | 2 => some .unzeven | 3 => some .unzodd | _ => none
/-- Types of MACCADD (R271). -/
def AccTy.code : AccTy → BitVec 2
  | .f32 => 0 | .f64 => 1 | .i32 => 2
/-- Types of MACCADD; 3 is unassigned. -/
def AccTy.ofCode (x : BitVec 2) : Option AccTy :=
  match x.toNat with
  | 0 => some .f32 | 1 => some .f64 | 2 => some .i32 | _ => none
/-- Modes of MCVTACC (R271). -/
def AccCvt.code : AccCvt → BitVec 2
  | .f32OfI32 => 0 | .i32OfF32 => 1 | .bf16 => 2 | .f16 => 3
/-- Modes of MCVTACC. -/
def AccCvt.ofCode (x : BitVec 2) : AccCvt :=
  match x.toNat with
  | 0 => .f32OfI32 | 1 => .i32OfF32 | 2 => .bf16 | _ => .f16

/-- Bit `i` of a field. -/
def tst {w : Nat} (x : BitVec w) (i : Nat) : Bool := x.getLsbD i

/-! ## Slot S: from fields to an instruction -/

/-- D as a scalar register. -/
def SF.sd (f : SF) : SReg := fld 64 f.d
/-- A as a scalar register. -/
def SF.sa (f : SF) : SReg := fld 64 f.a
/-- B as a scalar register. -/
def SF.sb (f : SF) : SReg := fld 64 f.b
/-- LAND of a memory form. -/
def SF.land (f : SF) : BitVec 10 := bits f.imm 24 10
/-- DISP of a memory form. -/
def SF.disp (f : SF) : BitVec 24 := bits f.imm 0 24
/-- The second operand (R171). -/
def SF.src2 (f : SF) : Src2 := if tst f.q 3 then .imm f.imm else .reg f.sb
/-- SIZE of a scalar memory form (R222). -/
def SF.size (f : SF) : MSize := MSize.ofCode (bits f.q 1 2)
/-- The scope of a synchronisation form, Q[1:0]. -/
def SF.scope (f : SF) : Scope := Scope.ofCode (bits f.q 0 2)
/-- The float format of a scalar instruction (R186). -/
def SF.fmt (f : SF) : SFmt := SFmt.ofCode (bits f.imm 0 2)
/-- The operand of an atomic (R234). -/
def SF.atom (f : SF) : AtomOp :=
  { ord := Ordering4.ofCode (bits f.q 2 2), scope := f.scope, size := MSize.ofCode (bits f.imm 22 2),
    disp := bits f.imm 0 22, land := f.land }

/-- A binary integer instruction. -/
def SF.bin (f : SF) (k : SReg → SReg → Src2 → Instr) : Option Instr := some (k f.sd f.sa f.src2)
/-- A scalar float instruction of two operands. -/
def SF.fp2 (f : SF) (k : SFmt → SReg → SReg → SReg → Instr) : Option Instr := some (k f.fmt f.sd f.sa f.sb)
/-- A predicate instruction of two operands (R172). -/
def SF.pred2 (f : SF) (k : PReg → PReg → PReg → Bool → Bool → Instr) : Option Instr := do
  let d ← fld? 16 f.d
  let a ← fld? 16 f.a
  let b ← fld? 16 f.b
  return k d a b (tst f.q 2) (tst f.q 1)
/-- A request of a destination and one source (R285). -/
def SF.req1 (f : SF) (k : SReg → SReg → BitVec 10 → Instr) : Option Instr := some (k f.sd f.sa f.land)
/-- A request of a destination and two sources (R285). -/
def SF.req2 (f : SF) (k : SReg → SReg → SReg → BitVec 10 → Instr) : Option Instr := some (k f.sd f.sa f.sb f.land)
/-- An atomic (R234). -/
def SF.atomic (f : SF) (k : SReg → SReg → SReg → AtomOp → Instr) : Option Instr := some (k f.sd f.sa f.sb f.atom)

/-- The instruction that the fields of slot S name; `none` for an unassigned encoding (R165, R171, R172,
R222, R232-R234, R240, R285). -/
def candS (f : SF) : Option Instr :=
  match f.op.toNat with
  | 0x00 => some .nop
  | 0x01 => f.bin .add | 0x02 => f.bin .sub | 0x03 => f.bin .mul | 0x04 => f.bin .mulh | 0x05 => f.bin .mulhn
  | 0x06 => f.bin .div | 0x07 => f.bin .divn | 0x08 => f.bin .rem | 0x09 => f.bin .remn
  | 0x0A => f.bin .and | 0x0B => f.bin .or | 0x0C => f.bin .xor | 0x0D => f.bin .andn
  | 0x0E => f.bin .shl | 0x0F => f.bin .shr | 0x10 => f.bin .sar | 0x11 => f.bin .rol
  | 0x12 => f.bin .min | 0x13 => f.bin .max | 0x14 => f.bin .minn | 0x15 => f.bin .maxn
  | 0x16 => some (.clz f.sd f.sa) | 0x17 => some (.ctz f.sd f.sa) | 0x18 => some (.popc f.sd f.sa)
  | 0x19 => some (.sext f.sd f.sa (fld 64 (bits f.imm 0 6))) | 0x1A => some (.zext f.sd f.sa (fld 64 (bits f.imm 0 6)))
  | 0x1B => some (.sel f.sd f.sa f.sb (tst f.imm 4) (fld 16 (bits f.imm 0 4)))
  | 0x1C => some (.movi f.sd f.imm) | 0x1D => some (.movhi f.sd (bits f.imm 0 30))
  | 0x1E => some (.bfx f.sd f.sa (bits f.imm 0 6) (bits f.imm 6 7))
  | 0x1F => some (.bfi f.sd f.sa (bits f.imm 0 6) (bits f.imm 6 7))
  | 0x20 => (fld? 16 f.d).map fun d => .cmp (ICond.ofCode (bits f.q 1 2)) (tst f.q 0) d f.sa f.src2
  | 0x21 => f.pred2 .pand | 0x22 => f.pred2 .por | 0x23 => f.pred2 .pxor
  | 0x24 => (fld? 16 f.d).bind fun d => (fld? 16 f.a).map fun a => .pnot d a
  | 0x25 => (fld? 16 f.d).bind fun d => (fld? 16 f.a).map fun a => .pmov d a
  | 0x28 => (fld? 8 f.d).map fun d => .bta d (bits f.imm 0 32)
  | 0x29 =>
    match (bits f.q 1 2).toNat with
    | 0 => (fld? 8 f.d).map fun d => .btrWrite d f.sa f.imm
    | 1 => (fld? 8 f.a).map fun a => .btrRead f.sd a
    | _ => none
  | 0x2B =>
    match (bits f.q 1 2).toNat with
    | 0 => (fld? 4 f.d).map fun d => .loopWrite d (if tst f.q 3 then .imm f.imm else .reg f.sa)
    | 1 => (fld? 4 f.a).map fun a => .loopRead f.sd a
    | _ => none
  | 0x2C => some (.rdpc f.sd f.imm)
  | 0x30 => f.fp2 .fadd | 0x31 => f.fp2 .fsub | 0x32 => f.fp2 .fmul
  | 0x33 => some (.ffma f.fmt f.sd f.sa f.sb (fld 64 (bits f.imm 2 6)))
  | 0x34 => f.fp2 .fdiv | 0x35 => some (.fsqrt f.fmt f.sd f.sa) | 0x36 => f.fp2 .fmin | 0x37 => f.fp2 .fmax
  | 0x38 => (fld? 16 f.d).map fun d => .fcmp (FCond.ofCode (bits f.imm 2 3)) f.fmt d f.sa f.sb
  | 0x39 => (RMode.ofCode (bits f.imm 6 3)).map fun m =>
      .fcvt f.sd f.sa m (CvtTy.ofCode (bits f.imm 3 3)) (CvtTy.ofCode (bits f.imm 0 3))
  | 0x40 => some (.ld f.size (tst f.q 0) f.sd f.sa f.disp f.land)
  | 0x41 => some (.st f.size f.sb f.sa f.disp)
  | 0x42 => some (.ldfe (if tst f.q 3 then .c else .w) f.size (tst f.q 0) f.sd f.sa f.disp f.land)
  | 0x43 => (FeStore.ofCode f.d.toNat).map fun q => .stfe q f.size f.sb f.sa f.disp
  | 0x44 => some (.ldg f.size (tst f.q 0) f.sd f.sa f.sb f.disp f.land)
  | 0x45 => some (.fence f.scope)
  | 0x46 => if (bits f.q 0 2).toNat < 2 then some (.pref (tst f.q 0) f.sa f.disp) else none
  | 0x48 => f.atomic .aadd | 0x49 => f.atomic .amin | 0x4A => f.atomic .amax | 0x4B => f.atomic .aminn
  | 0x4C => f.atomic .amaxn | 0x4D => f.atomic .aand | 0x4E => f.atomic .aor | 0x4F => f.atomic .axor
  | 0x50 => f.atomic .axchg | 0x51 => f.atomic .acas | 0x52 => f.atomic .afadd
  | 0x53 => (RedOp.ofCode f.d).map fun o => .red o f.sa f.sb f.atom
  | 0x58 => some (.arrive f.scope f.sd f.sa (bits f.imm 0 22) f.land)
  | 0x59 => some (if tst f.q 2 then .waitbTry f.scope f.sd f.sa f.sb (bits f.imm 0 22) f.land
      else .waitb f.scope f.sd f.sa f.sb (bits f.imm 0 22) f.land)
  | 0x5A => some (.binit f.scope f.sa f.sb (bits f.imm 0 22))
  | 0x60 => f.req1 .spawn | 0x61 => f.req2 .spawnk | 0x62 => some (.tabort (bits f.imm 0 15)) | 0x63 => f.req1 .tstat
  | 0x68 => some (.watch f.sd f.sa f.disp f.land) | 0x69 => f.req1 .unwatch | 0x6A => f.req1 .wstat
  | 0x70 => some (.snap f.sd f.land) | 0x71 => f.req1 .gdrop | 0x72 => f.req2 .groll | 0x73 => f.req2 .ckpt
  | 0x74 => f.req1 .gstat
  | 0x78 => f.req1 .hnew | 0x79 => f.req1 .hfree | 0x7A => f.req1 .hfork
  | 0x7B => some (.havg f.sd f.sa f.sb (fld 8 (bits f.imm 0 3)) f.land)
  | 0x7C => f.req1 .hsnap | 0x7D => f.req2 .hroll | 0x7E => f.req2 .hmig | 0x7F => f.req1 .hpin
  | 0x80 => f.req1 .hunpin | 0x81 => f.req1 .hstat | 0x82 => f.req2 .pgready
  | 0x88 => some (.rdsys f.sd (bits f.imm 0 12)) | 0x89 => some (.wrsys f.sa (bits f.imm 0 12))
  | 0x8A => some (.trap (bits f.imm 0 15)) | 0x8B => some (.svc f.sd f.sa (bits f.imm 0 16) f.land)
  | 0x8C => some (.phase (fld 16 (bits f.imm 0 4))) | 0x8D => some .halt
  | _ => none

/-! ## Slots V0 and V1 -/

/-- D as a vector register. -/
def VF.vd (f : VF) : VReg := fld 32 f.d
/-- A as a vector register. -/
def VF.va (f : VF) : VReg := fld 32 f.a
/-- B as a vector register. -/
def VF.vb (f : VF) : VReg := fld 32 f.b
/-- C as a vector register. -/
def VF.vc (f : VF) : VReg := fld 32 f.c
/-- G as a predicate register. -/
def VF.vg (f : VF) : VpReg := fld 8 f.g
/-- The guard. -/
def VF.gz (f : VF) : Guard := ⟨f.vg, tst f.z 0⟩
/-- The memory operand (R226). -/
def VF.mem (f : VF) : VMem := ⟨fld 64 (bits f.imm 13 6), bits f.imm 0 13, bits f.imm 19 10⟩
/-- The s register in IMM[18:13]. -/
def VF.sx (f : VF) : SReg := fld 64 (bits f.imm 13 6)
/-- A lane index or amount (R213, R214). -/
def VF.idx (f : VF) : Idx := if tst f.imm 12 then .imm (bits f.imm 3 9) else .reg (fld 64 (bits f.imm 19 6))
/-- A shift amount (R205). -/
def VF.amt (f : VF) : VAmt := if tst f.imm 1 then .imm (bits f.imm 2 6) else .reg f.vb
/-- N. -/
def VF.n (f : VF) : Bool := tst f.imm 0

/-- A lane-wise instruction of one source. -/
def VF.un (f : VF) (k : VTy → VReg → VReg → Guard → Instr) : Option Instr :=
  (VTy.ofCode f.t).map fun t => k t f.vd f.va f.gz
/-- A lane-wise instruction of two sources. -/
def VF.bi (f : VF) (k : VTy → VReg → VReg → VReg → Guard → Instr) : Option Instr :=
  (VTy.ofCode f.t).map fun t => k t f.vd f.va f.vb f.gz
/-- A lane-wise instruction of three sources. -/
def VF.tri (f : VF) (k : VTy → VReg → VReg → VReg → VReg → Guard → Instr) : Option Instr :=
  (VTy.ofCode f.t).map fun t => k t f.vd f.va f.vb f.vc f.gz
/-- A lane-wise instruction of two sources and N. -/
def VF.biN (f : VF) (k : VTy → Bool → VReg → VReg → VReg → Guard → Instr) : Option Instr :=
  (VTy.ofCode f.t).map fun t => k t f.n f.vd f.va f.vb f.gz
/-- A vector shift. -/
def VF.sh (f : VF) (k : VTy → VReg → VReg → VAmt → Guard → Instr) : Option Instr :=
  (VTy.ofCode f.t).map fun t => k t f.vd f.va f.amt f.gz
/-- A reduction with N. -/
def VF.redN (f : VF) (k : VTy → Bool → VReg → VReg → VpReg → Instr) : Option Instr :=
  (VTy.ofCode f.t).map fun t => k t f.n f.vd f.va f.vg

/-- The instruction that the fields of a vector slot name; `none` for an unassigned encoding (R165, R199, R226). -/
def candV (f : VF) : Option Instr :=
  match f.op.toNat with
  | 0x00 => if f.t = 0 then some .vnop else none
  | 0x01 => f.bi .vadd | 0x02 => f.bi .vsub | 0x03 => f.bi .vmul
  | 0x04 => f.tri .vfma | 0x05 => f.tri .vfms | 0x06 => f.tri .vfnma
  | 0x07 => f.biN .vmin | 0x08 => f.biN .vmax | 0x09 => f.un .vabs | 0x0A => f.un .vneg
  | 0x0B => f.biN .vaddsat | 0x0C => f.biN .vsubsat | 0x0D => f.biN .vmulh
  | 0x10 => f.un .vrcp | 0x11 => f.un .vrsq | 0x12 => f.un .vexp2 | 0x13 => f.un .vlog2
  | 0x14 => f.un .vtanh | 0x15 => f.un .vsigm | 0x16 => f.un .vsqrt | 0x17 => f.bi .vdiv
  | 0x18 => f.bi .vand | 0x19 => f.bi .vor | 0x1A => f.bi .vxor | 0x1B => f.un .vnot
  | 0x1C => f.sh .vshl | 0x1D => f.sh .vshr | 0x1E => f.sh .vsar
  | 0x20 => (VTy.ofCode f.t).bind fun t => (fld? 8 f.d).map fun d =>
      .vcmp (FCond.ofCode (bits f.imm 1 3)) t f.n d f.va f.vb f.gz
  | 0x21 => (VTy.ofCode f.t).map fun t => .vsel t f.vd f.va f.vb (fld 8 (bits f.imm 1 3)) f.gz
  | 0x22 => if f.t = 0 then (fld? 8 f.d).bind fun d => (fld? 8 f.a).bind fun a => (fld? 8 f.b).map fun b =>
      .vpand d a b (tst f.imm 2) (tst f.imm 1) else none
  | 0x23 => if f.t = 0 then (fld? 8 f.d).bind fun d => (fld? 8 f.a).bind fun a => (fld? 8 f.b).map fun b =>
      .vpor d a b (tst f.imm 2) (tst f.imm 1) else none
  | 0x24 => if f.t = 0 then (fld? 8 f.d).bind fun d => (fld? 8 f.a).map fun a => .vpnot d a else none
  | 0x25 => (VTy.ofCode f.t).bind fun t => (fld? 16 f.d).bind fun d => (fld? 8 f.a).map fun a => .vany t d a f.vg
  | 0x26 => (VTy.ofCode f.t).bind fun t => (fld? 16 f.d).bind fun d => (fld? 8 f.a).map fun a => .vall t d a f.vg
  | 0x27 => (VTy.ofCode f.t).bind fun t => (fld? 8 f.a).map fun a => .vpcnt t f.sx a f.vg
  | 0x28 => (VTy.ofCode f.t).bind fun dst => (VTy.ofCode (bits f.imm 1 3)).bind fun src =>
      (RMode.ofCode (bits f.imm 4 3)).map fun m =>
        .vcvt dst src f.n (tst f.imm 7) m (fld 8 (bits f.imm 8 3)) f.vd f.va f.gz
  | 0x29 => (VTy.ofCode f.t).bind fun dst => (VTy.ofCode (bits f.imm 1 3)).map fun src =>
      .vqnt dst src (fld 8 (bits f.imm 8 3)) f.vd f.va f.vb f.vc f.gz
  | 0x2A => (VTy.ofCode f.t).bind fun dst => (VTy.ofCode (bits f.imm 1 3)).map fun src =>
      .vdqnt dst src (fld 8 (bits f.imm 8 3)) f.vd f.va f.vb f.vc f.gz
  | 0x30 => f.un .vmov
  | 0x31 => (VTy.ofCode f.t).map fun t => .vbcast t f.vd f.sx f.gz
  | 0x32 => (VTy.ofCode f.t).map fun t => .vextr t f.n f.sx f.va f.idx
  | 0x33 => (VTy.ofCode f.t).map fun t => .vinsr t f.vd f.sx f.idx
  | 0x34 => f.tri .vperm
  | 0x35 => (VTy.ofCode f.t).bind fun t => (Shuf.ofCode (bits f.imm 1 3)).map fun p => .vshuf t p f.vd f.va f.vb f.gz
  | 0x36 => (VTy.ofCode f.t).map fun t => .vrot t f.vd f.va f.idx f.gz
  | 0x37 => (VTy.ofCode f.t).map fun t => .viota t f.vd f.sx f.gz
  | 0x38 => f.redN .vrsum | 0x39 => f.redN .vrmax | 0x3A => f.redN .vrmin | 0x3B => f.redN .vargmax
  | 0x3C => (VTy.ofCode f.t).map fun t => .vscan t f.vd f.va f.vg
  | 0x3D => (VTy.ofCode f.t).map fun t => .vtopk t f.n (bits f.imm 1 4) f.vd f.vc f.va f.vg
  | 0x3E => (VTy.ofCode f.t).map fun t => .vdot t f.n f.vd f.va f.vb f.vg
  | 0x40 => (VTy.ofCode f.t).map fun t => .vld t f.vd f.mem f.gz
  | 0x41 => (VTy.ofCode f.t).map fun t => .vst t f.va f.mem f.vg
  | 0x42 => (VTy.ofCode f.t).bind fun t => (FeLoad.ofCode f.c.toNat).map fun q => .vldfe q t f.vd f.mem f.gz
  | 0x43 => (VTy.ofCode f.t).bind fun t => (FeStore.ofCode f.c.toNat).map fun q => .vstfe q t f.va f.mem f.vg
  | 0x44 => (VTy.ofCode f.t).bind fun t => (fld? 4 f.b).map fun k => .vldw t f.vd k f.mem f.gz
  | 0x45 => (VTy.ofCode f.t).map fun t => .vlds t f.vd (fld 32 f.c) f.mem f.gz
  | 0x46 => (VTy.ofCode f.t).map fun t => .vsts t f.va (fld 32 f.c) f.mem f.vg
  | 0x47 => (VTy.ofCode f.t).map fun t => .vldx t f.vd f.vb f.mem f.gz
  | 0x48 => (VTy.ofCode f.t).bind fun t => (fld? 8 f.a).map fun a => .vfromacc t f.vd a (bits f.imm 1 5) f.gz
  | 0x49 => (VTy.ofCode f.t).bind fun t => (fld? 8 f.d).map fun d => .vtoacc t d f.va (bits f.imm 1 5) f.gz
  | _ => none

/-! ## Slot M -/

/-- PA. -/
def MF.mpa (f : MF) : MpReg := fld 8 f.pa
/-- PB. -/
def MF.mpb (f : MF) : MpReg := fld 8 f.pb
/-- D as a tile. -/
def MF.acc (f : MF) : AccReg := fld 8 f.d
/-- The source tile in IMM[2:0]. -/
def MF.src (f : MF) : AccReg := fld 8 (bits f.imm 0 3)
/-- TB, TA and START (R264). -/
def MF.flags (f : MF) : MmaFlags := ⟨tst f.f 2, tst f.f 1, tst f.f 0⟩
/-- The binding in F[1:0]. -/
def MF.fb (f : MF) : FbReg := fld 4 (bits f.f 0 2)

/-- An MMA or MMAW. -/
def MF.mma (f : MF) (k : AccReg → MpReg → MpReg → MmaFlags → Instr) : Option Instr :=
  some (k f.acc f.mpa f.mpb f.flags)

/-- The instruction that the fields of slot M name; `none` for an unassigned encoding (R165, R257, R264). -/
def candM (f : MF) : Option Instr :=
  match f.op.toNat with
  | 0x00 => some .mnop
  | 0x01 =>
    match (bits f.f 0 2).toNat with
    | 0 => some (.msetShapeImm f.mpa f.imm)
    | 1 => some (.msetTableImm f.mpa f.imm)
    | 2 => some (.msetShapeReg f.mpa (fld 64 (bits f.imm 0 6)))
    | _ => some (.msetTableReg f.mpa (fld 64 (bits f.imm 0 6)))
  | 0x02 => some (.mclaim (bits f.imm 0 16)) | 0x03 => some (.mrelease (bits f.imm 0 16))
  | 0x04 => some (.mwait (bits f.imm 0 8)) | 0x05 => some (.mzero f.acc)
  | 0x10 => f.mma .mmaBf16 | 0x11 => f.mma .mmaF16 | 0x12 => f.mma .mmaF32 | 0x13 => f.mma .mmaF64
  | 0x14 => f.mma .mmaI8 | 0x15 => f.mma .mmawI4 | 0x16 => f.mma .mmawE2m1
  | 0x17 => some (.mgrpI4i8 f.acc f.mpa f.mpb f.flags (fld 8 (bits f.imm 0 3)))
  | 0x18 => some (.mgrpI8 f.acc f.mpa f.mpb f.flags (fld 8 (bits f.imm 0 3)))
  | 0x19 => some (.mscac f.acc f.src f.mpa f.mpb (fld 8 (bits f.imm 3 3)))
  | 0x1A => some (.mtrn f.acc f.src (tst f.imm 3))
  | 0x1B => (AccTy.ofCode (bits f.imm 3 2)).map fun t => .maccadd t f.acc f.src
  | 0x1C => some (.mcvtacc (AccCvt.ofCode (bits f.imm 3 2)) f.acc f.src)
  | 0x20 => some (.fwbind f.fb (fld 64 (bits f.imm 0 6)) (fld 64 (bits f.imm 6 6)))
  | 0x21 => some (.fwread f.fb f.acc (fld 64 (bits f.imm 5 6)) (fld 32 (bits f.imm 0 5)))
  | 0x22 => some (.fwfade f.fb (fld 32 (bits f.imm 0 5)))
  | 0x23 => some (.fwwrite (tst f.f 3) f.fb (fld 32 (bits f.imm 0 5)))
  | 0x24 => some (.fwstep (tst f.f 3) (tst f.f 2) f.fb f.acc (fld 64 (bits f.imm 5 6)) (fld 32 (bits f.imm 0 5)))
  | 0x25 => some (.fwchunk (tst f.f 3) (tst f.f 2) f.fb f.acc f.mpa f.mpb (fld 8 f.pc) (fld 64 (bits f.imm 0 6))
      (tst f.imm 6))
  | 0x26 => some (.fwunbind f.fb) | 0x27 => some (.fwwait (bits f.imm 0 4))
  | _ => none

/-- The hebb and post flags that R265 calls unimplemented on FWREAD, FWFADE and FWWRITE. -/
def MF.fwFlags (f : MF) : BitVec 4 :=
  match f.op.toNat with
  | 0x21 | 0x22 => f.f &&& 0xC
  | 0x23 => f.f &&& 0x4
  | _ => 0

/-! ## Slots C0 and C1 -/

/-- YW and TAG. -/
def CF.flags (f : CF) : CFlags := ⟨tst f.yw 0, fld 64 f.tag⟩
/-- SA. -/
def CF.ra (f : CF) : SReg := fld 64 f.sa
/-- SB. -/
def CF.rb (f : CF) : SReg := fld 64 f.sb
/-- SC. -/
def CF.rc (f : CF) : SReg := fld 64 f.sc
/-- SF. -/
def CF.full (f : CF) : Bool := tst f.sf 0
/-- An operand slot in IMM[3:0]. -/
def CF.slot (f : CF) : Fin 16 := fld 16 (bits f.imm 0 4)
/-- A window in IMM[1:0]. -/
def CF.win (f : CF) : Fin 4 := fld 4 (bits f.imm 0 2)

/-- The instruction that the fields of a copy slot name; `none` for an unassigned encoding (R165, R244). -/
def candC (f : CF) : Option Instr :=
  match f.op.toNat with
  | 0x00 => some .cnop
  | 0x01 => some (.cpy f.full f.flags f.ra f.rb f.rc)
  | 0x02 => some (.cpy2d f.full f.flags f.ra)
  | 0x03 => some (.gather f.full f.flags f.ra)
  | 0x04 => some (.scatter f.flags f.ra)
  | 0x05 => some (.osfill f.flags f.slot f.rb f.rc)
  | 0x06 => some (.wsfill f.flags f.slot f.rb)
  | 0x07 => some (.wswrite f.flags f.ra f.rb f.rc)
  | 0x08 => some (.wopen f.flags f.win f.ra)
  | 0x09 => some (.wadv f.flags f.win f.ra)
  | 0x0A => some (.wclose f.flags f.win)
  | 0x0B => some (.rput f.flags f.ra f.rb f.rc)
  | 0x0C => some (.rget f.full f.flags f.ra f.rb f.rc)
  | 0x0D => (SigOp.ofCode (bits f.imm 0 2).toNat).map fun o => .rsig f.flags (Scope.ofCode f.scope) o f.ra f.rb
  | 0x0E => some (.mcast f.flags f.slot f.rb f.rc)
  | 0x0F => some (.spin f.flags f.ra)
  | 0x10 => some (.spout f.flags f.ra)
  | 0x11 => some (.cwait f.flags)
  | 0x12 => some (.cflush f.flags f.ra f.rb)
  | 0x13 => some (.cinv f.flags f.ra f.rb)
  | _ => none

/-! ## The encoder of slot operations -/

/-- Fields of a binary integer instruction (R171). -/
def encBin (op : BitVec 8) (d a : SReg) : Src2 → SF
  | .reg b => ⟨op, enc 6 d, enc 6 a, enc 6 b, 0, 0⟩
  | .imm v => ⟨op, enc 6 d, enc 6 a, 0, 8, v⟩
/-- Fields of an instruction of destination and one source. -/
def enc2 (op : BitVec 8) (d a : SReg) (imm : BitVec 34) : SF := ⟨op, enc 6 d, enc 6 a, 0, 0, imm⟩
/-- Fields of an instruction of destination and two sources. -/
def enc3 (op : BitVec 8) (d a b : SReg) (imm : BitVec 34) : SF := ⟨op, enc 6 d, enc 6 a, enc 6 b, 0, imm⟩
/-- LAND with zeros below it. -/
def landImm (l : BitVec 10) : BitVec 34 := l ++ (0 : BitVec 24)
/-- A float format in IMM[1:0]. -/
def fmtImm (f : SFmt) : BitVec 34 := (0 : BitVec 32) ++ f.code
/-- Fields of a predicate instruction of two sources. -/
def encPred (op : BitVec 8) (d a b : PReg) (nb na : Bool) : SF :=
  ⟨op, enc 6 d, enc 6 a, enc 6 b, (0 : BitVec 1) ++ bit1 nb ++ bit1 na ++ (0 : BitVec 1), 0⟩
/-- Q of a scalar memory form (R222). -/
def memQ (hi : Bool) (sz : MSize) (n : Bool) : BitVec 4 := bit1 hi ++ sz.code ++ bit1 n
/-- Fields of an atomic (R234). -/
def encAtom (op : BitVec 8) (d : BitVec 6) (a b : SReg) (o : AtomOp) : SF :=
  ⟨op, d, enc 6 a, enc 6 b, o.ord.code ++ o.scope.code, o.land ++ o.size.code ++ o.disp⟩
/-- IMM of a barrier instruction (R240). -/
def barImm (land : BitVec 10) (disp : BitVec 22) : BitVec 34 := land ++ (0 : BitVec 2) ++ disp

/-- The fields of a scalar-slot operation; `none` for an operation of another class. -/
def encS : Instr → Option SF
  | .nop => some ⟨0, 0, 0, 0, 0, 0⟩
  | .add d a y => some (encBin 0x01 d a y) | .sub d a y => some (encBin 0x02 d a y)
  | .mul d a y => some (encBin 0x03 d a y) | .mulh d a y => some (encBin 0x04 d a y)
  | .mulhn d a y => some (encBin 0x05 d a y) | .div d a y => some (encBin 0x06 d a y)
  | .divn d a y => some (encBin 0x07 d a y) | .rem d a y => some (encBin 0x08 d a y)
  | .remn d a y => some (encBin 0x09 d a y) | .and d a y => some (encBin 0x0A d a y)
  | .or d a y => some (encBin 0x0B d a y) | .xor d a y => some (encBin 0x0C d a y)
  | .andn d a y => some (encBin 0x0D d a y) | .shl d a y => some (encBin 0x0E d a y)
  | .shr d a y => some (encBin 0x0F d a y) | .sar d a y => some (encBin 0x10 d a y)
  | .rol d a y => some (encBin 0x11 d a y) | .min d a y => some (encBin 0x12 d a y)
  | .max d a y => some (encBin 0x13 d a y) | .minn d a y => some (encBin 0x14 d a y)
  | .maxn d a y => some (encBin 0x15 d a y)
  | .clz d a => some (enc2 0x16 d a 0) | .ctz d a => some (enc2 0x17 d a 0) | .popc d a => some (enc2 0x18 d a 0)
  | .sext d a w => some (enc2 0x19 d a ((0 : BitVec 28) ++ enc 6 w))
  | .zext d a w => some (enc2 0x1A d a ((0 : BitVec 28) ++ enc 6 w))
  | .sel d a b neg p => some (enc3 0x1B d a b ((0 : BitVec 29) ++ bit1 neg ++ enc 4 p))
  | .movi d v => some (enc2 0x1C d 0 v)
  | .movhi d v => some (enc2 0x1D d 0 ((0 : BitVec 4) ++ v))
  | .bfx d a pos len => some (enc2 0x1E d a ((0 : BitVec 21) ++ len ++ pos))
  | .bfi d a pos len => some (enc2 0x1F d a ((0 : BitVec 21) ++ len ++ pos))
  | .cmp c n d a y =>
    match y with
    | .reg b => some ⟨0x20, enc 6 d, enc 6 a, enc 6 b, (0 : BitVec 1) ++ c.code ++ bit1 n, 0⟩
    | .imm v => some ⟨0x20, enc 6 d, enc 6 a, 0, (1 : BitVec 1) ++ c.code ++ bit1 n, v⟩
  | .pand d a b nb na => some (encPred 0x21 d a b nb na) | .por d a b nb na => some (encPred 0x22 d a b nb na)
  | .pxor d a b nb na => some (encPred 0x23 d a b nb na)
  | .pnot d a => some ⟨0x24, enc 6 d, enc 6 a, 0, 0, 0⟩ | .pmov d a => some ⟨0x25, enc 6 d, enc 6 a, 0, 0, 0⟩
  | .bta d t => some ⟨0x28, enc 6 d, 0, 0, 0, (0 : BitVec 2) ++ t⟩
  | .btrWrite d a off => some ⟨0x29, enc 6 d, enc 6 a, 0, 0, off⟩
  | .btrRead d a => some ⟨0x29, enc 6 d, enc 6 a, 0, 2, 0⟩
  | .loopWrite d y =>
    match y with
    | .reg a => some ⟨0x2B, enc 6 d, enc 6 a, 0, 0, 0⟩
    | .imm v => some ⟨0x2B, enc 6 d, 0, 0, 8, v⟩
  | .loopRead d a => some ⟨0x2B, enc 6 d, enc 6 a, 0, 2, 0⟩
  | .rdpc d off => some (enc2 0x2C d 0 off)
  | .fadd f d a b => some (enc3 0x30 d a b (fmtImm f)) | .fsub f d a b => some (enc3 0x31 d a b (fmtImm f))
  | .fmul f d a b => some (enc3 0x32 d a b (fmtImm f))
  | .ffma f d a b c => some (enc3 0x33 d a b ((0 : BitVec 26) ++ enc 6 c ++ f.code))
  | .fdiv f d a b => some (enc3 0x34 d a b (fmtImm f)) | .fsqrt f d a => some (enc2 0x35 d a (fmtImm f))
  | .fmin f d a b => some (enc3 0x36 d a b (fmtImm f)) | .fmax f d a b => some (enc3 0x37 d a b (fmtImm f))
  | .fcmp c f d a b => some ⟨0x38, enc 6 d, enc 6 a, enc 6 b, 0, (0 : BitVec 29) ++ c.code ++ f.code⟩
  | .fcvt d a m s t => some (enc2 0x39 d a ((0 : BitVec 25) ++ m.code ++ s.code ++ t.code))
  | .ld sz n d a disp land => some ⟨0x40, enc 6 d, enc 6 a, 0, memQ false sz n, land ++ disp⟩
  | .st sz b a disp => some ⟨0x41, 0, enc 6 a, enc 6 b, memQ false sz false, (0 : BitVec 10) ++ disp⟩
  | .ldfe q sz n d a disp land => some ⟨0x42, enc 6 d, enc 6 a, 0, memQ (q = .c) sz n, land ++ disp⟩
  | .stfe q sz b a disp =>
      some ⟨0x43, BitVec.ofNat 6 q.code, enc 6 a, enc 6 b, memQ false sz false, (0 : BitVec 10) ++ disp⟩
  | .ldg sz n d a b disp land => some ⟨0x44, enc 6 d, enc 6 a, enc 6 b, memQ false sz n, land ++ disp⟩
  | .fence sc => some ⟨0x45, 0, 0, 0, (0 : BitVec 2) ++ sc.code, 0⟩
  | .pref l2 a disp => some ⟨0x46, 0, enc 6 a, 0, (0 : BitVec 3) ++ bit1 l2, (0 : BitVec 10) ++ disp⟩
  | .aadd d a b o => some (encAtom 0x48 (enc 6 d) a b o) | .amin d a b o => some (encAtom 0x49 (enc 6 d) a b o)
  | .amax d a b o => some (encAtom 0x4A (enc 6 d) a b o) | .aminn d a b o => some (encAtom 0x4B (enc 6 d) a b o)
  | .amaxn d a b o => some (encAtom 0x4C (enc 6 d) a b o) | .aand d a b o => some (encAtom 0x4D (enc 6 d) a b o)
  | .aor d a b o => some (encAtom 0x4E (enc 6 d) a b o) | .axor d a b o => some (encAtom 0x4F (enc 6 d) a b o)
  | .axchg d a b o => some (encAtom 0x50 (enc 6 d) a b o) | .acas d a b o => some (encAtom 0x51 (enc 6 d) a b o)
  | .afadd d a b o => some (encAtom 0x52 (enc 6 d) a b o)
  | .red op a b o => some (encAtom 0x53 op.code a b o)
  | .arrive sc d a disp land => some ⟨0x58, enc 6 d, enc 6 a, 0, (0 : BitVec 2) ++ sc.code, barImm land disp⟩
  | .waitb sc d a b disp land => some ⟨0x59, enc 6 d, enc 6 a, enc 6 b, (0 : BitVec 2) ++ sc.code, barImm land disp⟩
  | .waitbTry sc d a b disp land =>
      some ⟨0x59, enc 6 d, enc 6 a, enc 6 b, (1 : BitVec 2) ++ sc.code, barImm land disp⟩
  | .binit sc a b disp => some ⟨0x5A, 0, enc 6 a, enc 6 b, (0 : BitVec 2) ++ sc.code, barImm 0 disp⟩
  | .spawn d a l => some (enc2 0x60 d a (landImm l)) | .spawnk d a b l => some (enc3 0x61 d a b (landImm l))
  | .tabort c => some (enc2 0x62 0 0 ((0 : BitVec 19) ++ c)) | .tstat d a l => some (enc2 0x63 d a (landImm l))
  | .watch d a disp l => some (enc2 0x68 d a (l ++ disp))
  | .unwatch d a l => some (enc2 0x69 d a (landImm l)) | .wstat d a l => some (enc2 0x6A d a (landImm l))
  | .snap d l => some (enc2 0x70 d 0 (landImm l)) | .gdrop d a l => some (enc2 0x71 d a (landImm l))
  | .groll d a b l => some (enc3 0x72 d a b (landImm l)) | .ckpt d a b l => some (enc3 0x73 d a b (landImm l))
  | .gstat d a l => some (enc2 0x74 d a (landImm l))
  | .hnew d a l => some (enc2 0x78 d a (landImm l)) | .hfree d a l => some (enc2 0x79 d a (landImm l))
  | .hfork d a l => some (enc2 0x7A d a (landImm l))
  | .havg d a b n l => some (enc3 0x7B d a b (l ++ (0 : BitVec 21) ++ enc 3 n))
  | .hsnap d a l => some (enc2 0x7C d a (landImm l)) | .hroll d a b l => some (enc3 0x7D d a b (landImm l))
  | .hmig d a b l => some (enc3 0x7E d a b (landImm l)) | .hpin d a l => some (enc2 0x7F d a (landImm l))
  | .hunpin d a l => some (enc2 0x80 d a (landImm l)) | .hstat d a l => some (enc2 0x81 d a (landImm l))
  | .pgready d a b l => some (enc3 0x82 d a b (landImm l))
  | .rdsys d n => some (enc2 0x88 d 0 ((0 : BitVec 22) ++ n)) | .wrsys a n => some (enc2 0x89 0 a ((0 : BitVec 22) ++ n))
  | .trap c => some (enc2 0x8A 0 0 ((0 : BitVec 19) ++ c))
  | .svc d a s l => some (enc2 0x8B d a (l ++ (0 : BitVec 8) ++ s))
  | .phase n => some (enc2 0x8C 0 0 ((0 : BitVec 30) ++ enc 4 n)) | .halt => some (enc2 0x8D 0 0 0)
  | _ => none

/-- Fields of a guarded instruction. -/
def encG (op : BitVec 8) (t : VTy) (d a b c : VReg) (g : Guard) (imm : BitVec 29) : VF :=
  ⟨op, t.code, enc 5 d, enc 5 a, enc 5 b, enc 5 c, enc 3 g.g, bit1 g.z, imm⟩
/-- N in IMM[0]. -/
def nImm (n : Bool) : BitVec 29 := (0 : BitVec 28) ++ bit1 n
/-- The s register in IMM[18:13]. -/
def sxImm (x : SReg) : BitVec 29 := (0 : BitVec 10) ++ enc 6 x ++ (0 : BitVec 13)
/-- IMM of an instruction with a lane index and an s register. -/
def idxImm (i : Idx) (x : SReg) (n : Bool) : BitVec 29 :=
  match i with
  | .reg r => (0 : BitVec 4) ++ enc 6 r ++ enc 6 x ++ (0 : BitVec 12) ++ bit1 n
  | .imm v => (0 : BitVec 10) ++ enc 6 x ++ (1 : BitVec 1) ++ v ++ (0 : BitVec 2) ++ bit1 n
/-- IMM of a vector memory form. -/
def memImm (m : VMem) : BitVec 29 := m.land ++ enc 6 m.base ++ m.disp
/-- Fields of a vector shift. -/
def encSh (op : BitVec 8) (t : VTy) (d a : VReg) (g : Guard) : VAmt → VF
  | .reg b => encG op t d a b 0 g 0
  | .imm v => encG op t d a 0 0 g ((0 : BitVec 21) ++ v ++ (1 : BitVec 1) ++ (0 : BitVec 1))
/-- Fields of a vector-predicate operation. -/
def encVp (op : BitVec 8) (d a b : VpReg) (nb na : Bool) : VF :=
  ⟨op, 0, enc 5 d, enc 5 a, enc 5 b, 0, 0, 0, (0 : BitVec 26) ++ bit1 nb ++ bit1 na ++ (0 : BitVec 1)⟩
/-- A guard that has no zeroing. -/
def gOnly (g : VpReg) : Guard := ⟨g, false⟩

/-- The fields of a vector-slot operation; `none` for an operation of another class. -/
def encV : Instr → Option VF
  | .vnop => some ⟨0, 0, 0, 0, 0, 0, 0, 0, 0⟩
  | .vadd t d a b g => some (encG 0x01 t d a b 0 g 0) | .vsub t d a b g => some (encG 0x02 t d a b 0 g 0)
  | .vmul t d a b g => some (encG 0x03 t d a b 0 g 0)
  | .vfma t d a b c g => some (encG 0x04 t d a b c g 0) | .vfms t d a b c g => some (encG 0x05 t d a b c g 0)
  | .vfnma t d a b c g => some (encG 0x06 t d a b c g 0)
  | .vmin t n d a b g => some (encG 0x07 t d a b 0 g (nImm n)) | .vmax t n d a b g => some (encG 0x08 t d a b 0 g (nImm n))
  | .vabs t d a g => some (encG 0x09 t d a 0 0 g 0) | .vneg t d a g => some (encG 0x0A t d a 0 0 g 0)
  | .vaddsat t n d a b g => some (encG 0x0B t d a b 0 g (nImm n))
  | .vsubsat t n d a b g => some (encG 0x0C t d a b 0 g (nImm n))
  | .vmulh t n d a b g => some (encG 0x0D t d a b 0 g (nImm n))
  | .vrcp t d a g => some (encG 0x10 t d a 0 0 g 0) | .vrsq t d a g => some (encG 0x11 t d a 0 0 g 0)
  | .vexp2 t d a g => some (encG 0x12 t d a 0 0 g 0) | .vlog2 t d a g => some (encG 0x13 t d a 0 0 g 0)
  | .vtanh t d a g => some (encG 0x14 t d a 0 0 g 0) | .vsigm t d a g => some (encG 0x15 t d a 0 0 g 0)
  | .vsqrt t d a g => some (encG 0x16 t d a 0 0 g 0) | .vdiv t d a b g => some (encG 0x17 t d a b 0 g 0)
  | .vand t d a b g => some (encG 0x18 t d a b 0 g 0) | .vor t d a b g => some (encG 0x19 t d a b 0 g 0)
  | .vxor t d a b g => some (encG 0x1A t d a b 0 g 0) | .vnot t d a g => some (encG 0x1B t d a 0 0 g 0)
  | .vshl t d a y g => some (encSh 0x1C t d a g y) | .vshr t d a y g => some (encSh 0x1D t d a g y)
  | .vsar t d a y g => some (encSh 0x1E t d a g y)
  | .vcmp c t n d a b g =>
      some ⟨0x20, t.code, enc 5 d, enc 5 a, enc 5 b, 0, enc 3 g.g, bit1 g.z, (0 : BitVec 25) ++ c.code ++ bit1 n⟩
  | .vsel t d a b s g => some (encG 0x21 t d a b 0 g ((0 : BitVec 25) ++ enc 3 s ++ (0 : BitVec 1)))
  | .vpand d a b nb na => some (encVp 0x22 d a b nb na) | .vpor d a b nb na => some (encVp 0x23 d a b nb na)
  | .vpnot d a => some (encVp 0x24 d a 0 false false)
  | .vany t d a g => some ⟨0x25, t.code, enc 5 d, enc 5 a, 0, 0, enc 3 g, 0, 0⟩
  | .vall t d a g => some ⟨0x26, t.code, enc 5 d, enc 5 a, 0, 0, enc 3 g, 0, 0⟩
  | .vpcnt t d a g => some ⟨0x27, t.code, 0, enc 5 a, 0, 0, enc 3 g, 0, sxImm d⟩
  | .vcvt dst src n sat m part d a g => some (encG 0x28 dst d a 0 0 g
      ((0 : BitVec 18) ++ enc 3 part ++ bit1 sat ++ m.code ++ src.code ++ bit1 n))
  | .vqnt dst src part d a b c g =>
      some (encG 0x29 dst d a b c g ((0 : BitVec 18) ++ enc 3 part ++ (0 : BitVec 4) ++ src.code ++ (0 : BitVec 1)))
  | .vdqnt dst src part d a b c g =>
      some (encG 0x2A dst d a b c g ((0 : BitVec 18) ++ enc 3 part ++ (0 : BitVec 4) ++ src.code ++ (0 : BitVec 1)))
  | .vmov t d a g => some (encG 0x30 t d a 0 0 g 0) | .vbcast t d x g => some (encG 0x31 t d 0 0 0 g (sxImm x))
  | .vextr t n d a i => some (encG 0x32 t 0 a 0 0 (gOnly 0) (idxImm i d n))
  | .vinsr t d x i => some (encG 0x33 t d 0 0 0 (gOnly 0) (idxImm i x false))
  | .vperm t d a b c g => some (encG 0x34 t d a b c g 0)
  | .vshuf t p d a b g => some (encG 0x35 t d a b 0 g ((0 : BitVec 25) ++ p.code ++ (0 : BitVec 1)))
  | .vrot t d a i g => some (encG 0x36 t d a 0 0 g (idxImm i 0 false))
  | .viota t d x g => some (encG 0x37 t d 0 0 0 g (sxImm x))
  | .vrsum t n d a g => some (encG 0x38 t d a 0 0 (gOnly g) (nImm n))
  | .vrmax t n d a g => some (encG 0x39 t d a 0 0 (gOnly g) (nImm n))
  | .vrmin t n d a g => some (encG 0x3A t d a 0 0 (gOnly g) (nImm n))
  | .vargmax t n d a g => some (encG 0x3B t d a 0 0 (gOnly g) (nImm n))
  | .vscan t d a g => some (encG 0x3C t d a 0 0 (gOnly g) 0)
  | .vtopk t n k d c a g => some (encG 0x3D t d a 0 c (gOnly g) ((0 : BitVec 24) ++ k ++ bit1 n))
  | .vdot t n d a b g => some (encG 0x3E t d a b 0 (gOnly g) (nImm n))
  | .vld t d m g => some (encG 0x40 t d 0 0 0 g (memImm m))
  | .vst t a m g => some (encG 0x41 t 0 a 0 0 (gOnly g) (memImm m))
  | .vldfe q t d m g => some { encG 0x42 t d 0 0 0 g (memImm m) with c := BitVec.ofNat 5 q.code }
  | .vstfe q t a m g => some { encG 0x43 t 0 a 0 0 (gOnly g) (memImm m) with c := BitVec.ofNat 5 q.code }
  | .vldw t d k m g => some { encG 0x44 t d 0 0 0 g (memImm m) with b := enc 5 k }
  | .vlds t d c m g => some { encG 0x45 t d 0 0 0 g (memImm m) with c := enc 5 c }
  | .vsts t a c m g => some { encG 0x46 t 0 a 0 0 (gOnly g) (memImm m) with c := enc 5 c }
  | .vldx t d b m g => some (encG 0x47 t d 0 b 0 g (memImm m))
  | .vfromacc t d a rp g =>
      some ⟨0x48, t.code, enc 5 d, enc 5 a, 0, 0, enc 3 g.g, bit1 g.z, (0 : BitVec 23) ++ rp ++ (0 : BitVec 1)⟩
  | .vtoacc t d a rp g =>
      some ⟨0x49, t.code, enc 5 d, enc 5 a, 0, 0, enc 3 g.g, bit1 g.z, (0 : BitVec 23) ++ rp ++ (0 : BitVec 1)⟩
  | _ => none

/-- F of an MMA (R264). -/
def mmaF (f : MmaFlags) : BitVec 4 := (0 : BitVec 1) ++ bit1 f.tb ++ bit1 f.ta ++ bit1 f.start
/-- Fields of an MMA, MMAW or MGRP. -/
def encMma (op : BitVec 8) (d : AccReg) (pa pb : MpReg) (f : MmaFlags) (imm : BitVec 24) : MF :=
  ⟨op, enc 3 d, enc 3 pa, enc 3 pb, 0, mmaF f, imm⟩
/-- F of a fast-weight operation. -/
def fwF (hebb post : Bool) (fb : FbReg) : BitVec 4 := bit1 hebb ++ bit1 post ++ enc 2 fb

/-- The fields of a matrix-slot operation; `none` for an operation of another class. -/
def encM : Instr → Option MF
  | .mnop => some ⟨0, 0, 0, 0, 0, 0, 0⟩
  | .msetShapeImm p w => some ⟨0x01, 0, enc 3 p, 0, 0, 0, w⟩
  | .msetTableImm p w => some ⟨0x01, 0, enc 3 p, 0, 0, 1, w⟩
  | .msetShapeReg p x => some ⟨0x01, 0, enc 3 p, 0, 0, 2, (0 : BitVec 18) ++ enc 6 x⟩
  | .msetTableReg p x => some ⟨0x01, 0, enc 3 p, 0, 0, 3, (0 : BitVec 18) ++ enc 6 x⟩
  | .mclaim k => some ⟨0x02, 0, 0, 0, 0, 0, (0 : BitVec 8) ++ k⟩
  | .mrelease k => some ⟨0x03, 0, 0, 0, 0, 0, (0 : BitVec 8) ++ k⟩
  | .mwait k => some ⟨0x04, 0, 0, 0, 0, 0, (0 : BitVec 16) ++ k⟩
  | .mzero d => some ⟨0x05, enc 3 d, 0, 0, 0, 0, 0⟩
  | .mmaBf16 d pa pb f => some (encMma 0x10 d pa pb f 0) | .mmaF16 d pa pb f => some (encMma 0x11 d pa pb f 0)
  | .mmaF32 d pa pb f => some (encMma 0x12 d pa pb f 0) | .mmaF64 d pa pb f => some (encMma 0x13 d pa pb f 0)
  | .mmaI8 d pa pb f => some (encMma 0x14 d pa pb f 0) | .mmawI4 d pa pb f => some (encMma 0x15 d pa pb f 0)
  | .mmawE2m1 d pa pb f => some (encMma 0x16 d pa pb f 0)
  | .mgrpI4i8 d pa pb f g => some (encMma 0x17 d pa pb f ((0 : BitVec 21) ++ enc 3 g))
  | .mgrpI8 d pa pb f g => some (encMma 0x18 d pa pb f ((0 : BitVec 21) ++ enc 3 g))
  | .mscac d s pa pb g => some ⟨0x19, enc 3 d, enc 3 pa, enc 3 pb, 0, 0, (0 : BitVec 18) ++ enc 3 g ++ enc 3 s⟩
  | .mtrn d s w => some ⟨0x1A, enc 3 d, 0, 0, 0, 0, (0 : BitVec 20) ++ bit1 w ++ enc 3 s⟩
  | .maccadd t d s => some ⟨0x1B, enc 3 d, 0, 0, 0, 0, (0 : BitVec 19) ++ t.code ++ enc 3 s⟩
  | .mcvtacc m d s => some ⟨0x1C, enc 3 d, 0, 0, 0, 0, (0 : BitVec 19) ++ m.code ++ enc 3 s⟩
  | .fwbind fb h t => some ⟨0x20, 0, 0, 0, 0, fwF false false fb, (0 : BitVec 12) ++ enc 6 t ++ enc 6 h⟩
  | .fwread fb d row x => some ⟨0x21, enc 3 d, 0, 0, 0, fwF false false fb, (0 : BitVec 13) ++ enc 6 row ++ enc 5 x⟩
  | .fwfade fb x => some ⟨0x22, 0, 0, 0, 0, fwF false false fb, (0 : BitVec 19) ++ enc 5 x⟩
  | .fwwrite h fb x => some ⟨0x23, 0, 0, 0, 0, fwF h false fb, (0 : BitVec 19) ++ enc 5 x⟩
  | .fwstep h p fb d row x => some ⟨0x24, enc 3 d, 0, 0, 0, fwF h p fb, (0 : BitVec 13) ++ enc 6 row ++ enc 5 x⟩
  | .fwchunk h p fb d pk pv pq n noread =>
      some ⟨0x25, enc 3 d, enc 3 pk, enc 3 pv, enc 3 pq, fwF h p fb, (0 : BitVec 17) ++ bit1 noread ++ enc 6 n⟩
  | .fwunbind fb => some ⟨0x26, 0, 0, 0, 0, fwF false false fb, 0⟩
  | .fwwait k => some ⟨0x27, 0, 0, 0, 0, 0, (0 : BitVec 20) ++ k⟩
  | _ => none

/-- Fields of a copy operation. -/
def encCpy (op : BitVec 8) (c : CFlags) (a b l : SReg) (sf : Bool) (scope : BitVec 2) (imm : BitVec 12) : CF :=
  ⟨op, enc 6 a, enc 6 b, enc 6 l, bit1 c.yw, bit1 sf, scope, enc 6 c.tag, imm⟩
/-- An operand slot in IMM[3:0]. -/
def slotImm (n : Fin 16) : BitVec 12 := (0 : BitVec 8) ++ enc 4 n
/-- A window in IMM[1:0]. -/
def winImm (k : Fin 4) : BitVec 12 := (0 : BitVec 10) ++ enc 2 k

/-- The fields of a copy-slot operation; `none` for an operation of another class. -/
def encC : Instr → Option CF
  | .cnop => some ⟨0, 0, 0, 0, 0, 0, 0, 0, 0⟩
  | .cpy sf c a b l => some (encCpy 0x01 c a b l sf 0 0)
  | .cpy2d sf c a => some (encCpy 0x02 c a 0 0 sf 0 0)
  | .gather sf c a => some (encCpy 0x03 c a 0 0 sf 0 0)
  | .scatter c a => some (encCpy 0x04 c a 0 0 false 0 0)
  | .osfill c n b l => some (encCpy 0x05 c 0 b l false 0 (slotImm n))
  | .wsfill c n b => some (encCpy 0x06 c 0 b 0 false 0 (slotImm n))
  | .wswrite c a b l => some (encCpy 0x07 c a b l false 0 0)
  | .wopen c k a => some (encCpy 0x08 c a 0 0 false 0 (winImm k))
  | .wadv c k a => some (encCpy 0x09 c a 0 0 false 0 (winImm k))
  | .wclose c k => some (encCpy 0x0A c 0 0 0 false 0 (winImm k))
  | .rput c a b l => some (encCpy 0x0B c a b l false 0 0)
  | .rget sf c a b l => some (encCpy 0x0C c a b l sf 0 0)
  | .rsig c sc o a b => some (encCpy 0x0D c a b 0 false sc.code ((0 : BitVec 10) ++ BitVec.ofNat 2 o.code))
  | .mcast c n b l => some (encCpy 0x0E c 0 b l false 0 (slotImm n))
  | .spin c a => some (encCpy 0x0F c a 0 0 false 0 0)
  | .spout c a => some (encCpy 0x10 c a 0 0 false 0 0)
  | .cwait c => some (encCpy 0x11 c 0 0 0 false 0 0)
  | .cflush c a b => some (encCpy 0x12 c a b 0 false 0 0)
  | .cinv c a b => some (encCpy 0x13 c a b 0 false 0 0)
  | _ => none

/-! ## A slot decoded -/

/-- The instruction of a slot from its candidate and the test that its fields are the ones the candidate
encodes to, with the lowest cause of R166. -/
def settle (cand : Option Instr) (same : Instr → Bool) : Except Illegal Instr :=
  match cand with
  | none => .error .unassigned
  | some i =>
    match i.illegal with
    | some .unassigned => .error .unassigned
    | some c => if same i then .error c else .error .unused
    | none => if same i then .ok i else .error .unused

/-- Slot S decoded from its fields. -/
def decodeS (f : SF) : Except Illegal Instr := settle (candS f) fun i => decide (encS i = some f)
/-- A vector slot decoded from its fields. -/
def decodeV (f : VF) : Except Illegal Instr := settle (candV f) fun i => decide (encV i = some f)
/-- Slot M decoded from its fields; a hebb or post flag that R264 gives no meaning is cause 3 (R265). -/
def decodeM (f : MF) : Except Illegal Instr :=
  if f.fwFlags = 0 then settle (candM f) fun i => decide (encM i = some f)
  else
    match settle (candM f) fun i => decide (encM i = some { f with f := f.f ^^^ f.fwFlags }) with
    | .ok _ => .error .unimplemented
    | .error e => .error e
/-- A copy slot decoded from its fields. -/
def decodeC (f : CF) : Except Illegal Instr := settle (candC f) fun i => decide (encC i = some f)

/-- Whether squash is allowed on an operation (R163). -/
def squashOk : Instr → Bool
  | .ld .. | .ldg .. | .pref .. | .rdsys .. | .vld .. | .vlds .. | .vldx .. | .vfromacc .. | .mnop | .cnop => true
  | i =>
    match encS i, encV i with
    | some f, _ => f.op.toNat ≤ 0x39
    | none, some f => f.op.toNat ≤ 0x3E
    | none, none => false

/-- Whether an operation carries the yield-wait flag (R242). -/
def yieldWait (i : Instr) : Bool := match encC i with | some f => f.yw = 1 | none => false

/-! ## Writers (R166 code 6) -/

/-- A register that a bundle can write. -/
inductive Dest
  | s (r : SReg) | p (r : PReg) | b (r : BReg) | lc (r : LReg) | v (r : VReg) | vp (r : VpReg)
  | acc (r : AccReg) | mp (r : MpReg)
  deriving DecidableEq, Repr

/-- The registers an operation writes, s0, p0 and vp0 left out (R51, R166). -/
def Instr.dests (i : Instr) : List Dest :=
  (match i with
  | .add d _ _ | .sub d _ _ | .mul d _ _ | .mulh d _ _ | .mulhn d _ _ | .div d _ _ | .divn d _ _ | .rem d _ _
  | .remn d _ _ | .and d _ _ | .or d _ _ | .xor d _ _ | .andn d _ _ | .shl d _ _ | .shr d _ _ | .sar d _ _
  | .rol d _ _ | .min d _ _ | .max d _ _ | .minn d _ _ | .maxn d _ _ => [Dest.s d]
  | .clz d _ | .ctz d _ | .popc d _ | .sext d _ _ | .zext d _ _ | .sel d _ _ _ _ | .movi d _ | .movhi d _
  | .bfx d _ _ _ | .bfi d _ _ _ | .btrRead d _ | .loopRead d _ | .rdpc d _ => [.s d]
  | .cmp _ _ d _ _ | .pand d _ _ _ _ | .por d _ _ _ _ | .pxor d _ _ _ _ | .pnot d _ | .pmov d _
  | .fcmp _ _ d _ _ | .vany _ d _ _ | .vall _ d _ _ => [.p d]
  | .bta d _ | .btrWrite d _ _ => [.b d]
  | .loopWrite d _ | .loop _ d _ => [.lc d]
  | .call _ _ => [.s 63]
  | .fadd _ d _ _ | .fsub _ d _ _ | .fmul _ d _ _ | .ffma _ d _ _ _ | .fdiv _ d _ _ | .fsqrt _ d _
  | .fmin _ d _ _ | .fmax _ d _ _ | .fcvt d _ _ _ _ => [.s d]
  | .ld _ _ d _ _ _ | .ldfe _ _ _ d _ _ _ | .ldg _ _ d _ _ _ _ => [.s d]
  | .aadd d _ _ _ | .amin d _ _ _ | .amax d _ _ _ | .aminn d _ _ _ | .amaxn d _ _ _ | .aand d _ _ _
  | .aor d _ _ _ | .axor d _ _ _ | .axchg d _ _ _ | .acas d _ _ _ | .afadd d _ _ _ => [.s d]
  | .arrive _ d _ _ _ | .waitb _ d _ _ _ _ | .waitbTry _ d _ _ _ _ => [.s d]
  | .spawn d _ _ | .spawnk d _ _ _ | .tstat d _ _ | .watch d _ _ _ | .unwatch d _ _ | .wstat d _ _ | .snap d _
  | .gdrop d _ _ | .groll d _ _ _ | .ckpt d _ _ _ | .gstat d _ _ | .hnew d _ _ | .hfree d _ _ | .hfork d _ _
  | .havg d _ _ _ _ | .hsnap d _ _ | .hroll d _ _ _ | .hmig d _ _ _ | .hpin d _ _ | .hunpin d _ _ | .hstat d _ _
  | .pgready d _ _ _ | .rdsys d _ | .svc d _ _ _ => [.s d]
  | .vadd _ d _ _ _ | .vsub _ d _ _ _ | .vmul _ d _ _ _ | .vfma _ d _ _ _ _ | .vfms _ d _ _ _ _
  | .vfnma _ d _ _ _ _ | .vmin _ _ d _ _ _ | .vmax _ _ d _ _ _ | .vabs _ d _ _ | .vneg _ d _ _
  | .vaddsat _ _ d _ _ _ | .vsubsat _ _ d _ _ _ | .vmulh _ _ d _ _ _ | .vrcp _ d _ _ | .vrsq _ d _ _
  | .vexp2 _ d _ _ | .vlog2 _ d _ _ | .vtanh _ d _ _ | .vsigm _ d _ _ | .vsqrt _ d _ _ | .vdiv _ d _ _ _
  | .vand _ d _ _ _ | .vor _ d _ _ _ | .vxor _ d _ _ _ | .vnot _ d _ _ | .vshl _ d _ _ _ | .vshr _ d _ _ _
  | .vsar _ d _ _ _ | .vsel _ d _ _ _ _ | .vcvt _ _ _ _ _ _ d _ _ | .vqnt _ _ _ d _ _ _ _
  | .vdqnt _ _ _ d _ _ _ _ | .vmov _ d _ _ | .vbcast _ d _ _ | .vinsr _ d _ _ | .vperm _ d _ _ _ _
  | .vshuf _ _ d _ _ _ | .vrot _ d _ _ _ | .viota _ d _ _ | .vrsum _ _ d _ _ | .vrmax _ _ d _ _
  | .vrmin _ _ d _ _ | .vargmax _ _ d _ _ | .vscan _ d _ _ | .vdot _ _ d _ _ _ | .vld _ d _ _
  | .vldfe _ _ d _ _ | .vldw _ d _ _ _ | .vlds _ d _ _ _ | .vldx _ d _ _ _ | .vfromacc _ d _ _ _ => [.v d]
  | .vtopk _ _ _ d c _ _ => [.v d, .v c]
  | .vcmp _ _ _ d _ _ _ | .vpand d _ _ _ _ | .vpor d _ _ _ _ | .vpnot d _ => [.vp d]
  | .vpcnt _ d _ _ | .vextr _ _ d _ _ => [.s d]
  | .vtoacc _ d _ _ _ | .mzero d | .mmaBf16 d _ _ _ | .mmaF16 d _ _ _ | .mmaF32 d _ _ _ | .mmaF64 d _ _ _
  | .mmaI8 d _ _ _ | .mmawI4 d _ _ _ | .mmawE2m1 d _ _ _ | .mgrpI4i8 d _ _ _ _ | .mgrpI8 d _ _ _ _
  | .mscac d _ _ _ _ | .mtrn d _ _ | .maccadd _ d _ | .mcvtacc _ d _ | .fwread _ d _ _
  | .fwstep _ _ _ d _ _ => [.acc d]
  | .fwchunk _ _ _ d _ _ _ _ noread => if noread then [] else [.acc d]
  | .msetShapeImm p _ | .msetTableImm p _ | .msetShapeReg p _ | .msetTableReg p _ => [.mp p]
  | _ => []).filter fun d => d ≠ Dest.s 0 && d ≠ Dest.p 0 && d ≠ Dest.vp 0

/-- Whether a list names one register twice. -/
def hasTwice : List Dest → Bool
  | [] => false
  | d :: ds => ds.contains d || hasTwice ds

/-! ## The bundle -/

/-- Header operations that transfer: JT, CALL, RET, LOOP. -/
def Instr.isTransfer : Instr → Bool
  | .jt .. | .call .. | .ret .. | .loop .. => true
  | _ => false

/-- The fields of a header (R158). -/
structure HF where
  seq : BitVec 4
  cp : BitVec 4
  cn : BitVec 1
  bt : BitVec 3
  lc : BitVec 2
  yld : BitVec 1
  sfp : BitVec 1
  gap : BitVec 4
  val : BitVec 6
  sq : BitVec 6
  rsv : BitVec 16
  deriving DecidableEq, Repr

/-- A header by its fields (R158). -/
def HF.ofWord (w : BitVec 48) : HF :=
  ⟨bits w 44 4, bits w 40 4, bits w 39 1, bits w 36 3, bits w 34 2, bits w 33 1, bits w 32 1, bits w 28 4,
    bits w 22 6, bits w 16 6, bits w 0 16⟩
/-- The bits of a header (R158). -/
def HF.toWord (f : HF) : BitVec 48 :=
  f.seq ++ f.cp ++ f.cn ++ f.bt ++ f.lc ++ f.yld ++ f.sfp ++ f.gap ++ f.val ++ f.sq ++ f.rsv

/-- SEQ, CP, CN, BT and LC of a header operation (R158, R159); `none` for an operation that is no header's. -/
def encSeq : Option Instr → Option (BitVec 4 × BitVec 4 × BitVec 1 × BitVec 3 × BitVec 2)
  | none => some (0, 0, 0, 0, 0)
  | some (.jt c t) => some (1, enc 4 c.cp, bit1 c.cn, enc 3 t, 0)
  | some (.call c t) => some (2, enc 4 c.cp, bit1 c.cn, enc 3 t, 0)
  | some (.ret c) => some (3, enc 4 c.cp, bit1 c.cn, 0, 0)
  | some (.loop c l t) => some (4, enc 4 c.cp, bit1 c.cn, enc 3 t, enc 2 l)
  | some .endTask => some (5, 0, 0, 0, 0)
  | some _ => none

/-- The header operation that SEQ names: outer `none` for SEQ 6 to 15 (R158). -/
def candSeq (f : HF) : Option (Option Instr) :=
  let c : HCond := ⟨fld 16 f.cp, f.cn = 1⟩
  match f.seq.toNat with
  | 0 => some none
  | 1 => some (some (.jt c (fld 8 f.bt)))
  | 2 => some (some (.call c (fld 8 f.bt)))
  | 3 => some (some (.ret c))
  | 4 => some (some (.loop c (fld 4 f.lc) (fld 8 f.bt)))
  | 5 => some (some .endTask)
  | _ => none

/-- The header decoded, its causes in ascending code (R166, R167); `inDelay` says that the bundle stands in a
delay position (R161). -/
def decodeHeader (f : HF) (inDelay : Bool) : Except Illegal (Option Instr) :=
  match candSeq f with
  | none => .error .unassigned
  | some i =>
    if f.rsv ≠ 0 ∨ encSeq i ≠ some (f.seq, f.cp, f.cn, f.bt, f.lc) ∨ f.sq &&& ~~~f.val ≠ 0 then .error .unused
    else if inDelay && i.any Instr.isTransfer then .error .delay
    else .ok i

/-- The number of a slot in SYS.TCAUSE.SLOT. -/
def Slot.num : Slot → Nat
  | .s => 0 | .v0 => 1 | .v1 => 2 | .m => 3 | .c0 => 4 | .c1 => 5

/-- SYS.TCAUSE.SLOT of a cause that belongs to no slot (R166). -/
def noSlot : Nat := 0xFF

/-- A slot of width `w` decoded: `val`, `sq` and `yld` are its VAL and SQ bits and the header's YLD. -/
def decodeSlot {w : Nat} (dec : BitVec w → Except Illegal Instr) (x : BitVec w) (val sq yld : Bool) :
    Except Illegal (Option SlotOp) :=
  if val then
    match dec x with
    | .error e => .error e
    | .ok i =>
      if yieldWait i && !yld then .error .unused
      else if sq && !squashOk i then .error .squash
      else .ok (some ⟨i, sq⟩)
  else if x = 0 then .ok none else .error .unused

/-- A slot's cause with the slot's number. -/
def atSlot {α : Type} (k : Slot) : Except Illegal α → Except (Illegal × Nat) α
  | .ok x => .ok x
  | .error e => .error (e, k.num)

/-- The slot operations of a bundle with their slots, in the order of R167. -/
def Bundle.ops (b : Bundle) : List (Slot × SlotOp) :=
  [(Slot.s, b.s), (.v0, b.v0), (.v1, b.v1), (.m, b.m), (.c0, b.c0), (.c1, b.c1)].filterMap
    fun x => x.2.map fun o => (x.1, o)

/-- Every register a bundle writes. -/
def Bundle.dests (b : Bundle) : List Dest :=
  (b.ops.flatMap fun x => x.2.op.dests) ++ (match b.seq with | some i => i.dests | none => [])

/-- A bundle decoded, or the first illegal-bundle cause of R167 with its SYS.TCAUSE.SLOT. -/
def decodeBundle (w : BundleW) (inDelay : Bool) : Except (Illegal × Nat) Bundle := do
  let h := HF.ofWord (bits w 336 48)
  let seq ← match decodeHeader h inDelay with
    | .ok i => Except.ok i
    | .error e => .error (e, noSlot)
  let yld := h.yld = 1
  let s ← atSlot .s (decodeSlot (fun x => decodeS (SF.ofWord x)) (bits w 272 64) (tst h.val 5) (tst h.sq 5) yld)
  let v0 ← atSlot .v0 (decodeSlot (fun x => decodeV (VF.ofWord x)) (bits w 208 64) (tst h.val 4) (tst h.sq 4) yld)
  let v1 ← atSlot .v1 (decodeSlot (fun x => decodeV (VF.ofWord x)) (bits w 144 64) (tst h.val 3) (tst h.sq 3) yld)
  let m ← atSlot .m (decodeSlot (fun x => decodeM (MF.ofWord x)) (bits w 96 48) (tst h.val 2) (tst h.sq 2) yld)
  let c0 ← atSlot .c0 (decodeSlot (fun x => decodeC (CF.ofWord x)) (bits w 48 48) (tst h.val 1) (tst h.sq 1) yld)
  let c1 ← atSlot .c1 (decodeSlot (fun x => decodeC (CF.ofWord x)) (bits w 0 48) (tst h.val 0) (tst h.sq 0) yld)
  let b : Bundle := { seq := seq, yld := yld, sfp := h.sfp = 1, gap := fld 16 h.gap, s, v0, v1, m, c0, c1 }
  if hasTwice b.dests then .error (.twoWriters, noSlot) else .ok b

/-! ## The encoder of bundles -/

/-- The bits of a slot of width `w`: zeros for an empty slot (R159); `none` where the operation is of another
class. -/
def encSlot {w : Nat} (e : Instr → Option (BitVec w)) : Option SlotOp → Option (BitVec w)
  | none => some 0
  | some o => e o.op

/-- Whether a slot holds an operation, and its squash bit. -/
def slotBits (o : Option SlotOp) : Bool × Bool := match o with | none => (false, false) | some o => (true, o.squash)

/-- Six bits in the order of VAL (R158). -/
def six (f : Option SlotOp → Bool) (b : Bundle) : BitVec 6 :=
  bit1 (f b.s) ++ bit1 (f b.v0) ++ bit1 (f b.v1) ++ bit1 (f b.m) ++ bit1 (f b.c0) ++ bit1 (f b.c1)

/-- The words of a bundle; `none` where an operation stands in a slot of another class (R147, R157). -/
def encode (b : Bundle) : Option BundleW := do
  let (seq, cp, cn, bt, lc) ← encSeq b.seq
  let s ← encSlot (fun i => (encS i).map SF.toWord) b.s
  let v0 ← encSlot (fun i => (encV i).map VF.toWord) b.v0
  let v1 ← encSlot (fun i => (encV i).map VF.toWord) b.v1
  let m ← encSlot (fun i => (encM i).map MF.toWord) b.m
  let c0 ← encSlot (fun i => (encC i).map CF.toWord) b.c0
  let c1 ← encSlot (fun i => (encC i).map CF.toWord) b.c1
  let h : HF := ⟨seq, cp, cn, bt, lc, bit1 b.yld, bit1 b.sfp, enc 4 b.gap, six (fun o => (slotBits o).1) b,
    six (fun o => (slotBits o).2) b, 0⟩
  return h.toWord ++ s ++ v0 ++ v1 ++ m ++ c0 ++ c1

/-! ## Packets (R400-R408) -/

/-- The fields of a packet: the header's, OPC, the header's reserved bits, and the seven body words. -/
structure PF where
  hdr : PktHdr
  opc : BitVec 8
  rsv : BitVec 6
  w1 : W64
  w2 : W64
  w3 : W64
  w4 : W64
  w5 : W64
  w6 : W64
  w7 : W64
  deriving DecidableEq, Repr

/-- A packet by its fields (R400). -/
def PF.ofWord (w : BitVec 512) : PF :=
  ⟨⟨bits w 32 32, tst w 23, tst w 22, bits w 0 16⟩, bits w 24 8, bits w 16 6, bits w 64 64, bits w 128 64,
    bits w 192 64, bits w 256 64, bits w 320 64, bits w 384 64, bits w 448 64⟩
/-- The bits of a packet (R400). -/
def PF.toWord (f : PF) : BitVec 512 :=
  f.w7 ++ f.w6 ++ f.w5 ++ f.w4 ++ f.w3 ++ f.w2 ++ f.w1 ++
    (f.hdr.seq ++ f.opc ++ bit1 f.hdr.cpl ++ bit1 f.hdr.barr ++ f.rsv ++ f.hdr.tag)

/-- OP of WAITSIG (R406). -/
def WaitOp.code : WaitOp → Nat
  | .geu => 0 | .eq => 1 | .ne => 2
/-- OP of WAITSIG; 3 is unassigned. -/
def WaitOp.ofCode : Nat → Option WaitOp
  | 0 => some .geu | 1 => some .eq | 2 => some .ne | _ => none

/-- A packet with no body. -/
def pkt0 (h : PktHdr) (opc : BitVec 8) : PF := ⟨h, opc, 0, 0, 0, 0, 0, 0, 0, 0⟩
/-- The body word that names an instance (R408). -/
def instWord (n : BitVec 20) : W64 := (0 : BitVec 44) ++ n

/-- The fields of a packet; `none` for an instruction that is none. -/
def encPkt : Instr → Option PF
  | .nopPacket h => some (pkt0 h 0)
  | .launch h img rec nrec lblk deadline sig =>
      some { pkt0 h 1 with w1 := img, w2 := rec, w3 := instWord nrec, w4 := lblk, w5 := deadline, w6 := sig }
  | .signal h addr val sc op =>
      some { pkt0 h 2 with w1 := addr, w2 := val, w3 := (0 : BitVec 60) ++ sc.code ++ BitVec.ofNat 2 op.code }
  | .waitsig h addr val sc op =>
      some { pkt0 h 3 with w1 := addr, w2 := val, w3 := (0 : BitVec 60) ++ sc.code ++ BitVec.ofNat 2 op.code }
  | .wrenq h src dst len tq tailVal =>
      some { pkt0 h 4 with w1 := src, w2 := dst, w3 := (0 : BitVec 47) ++ len, w4 := (0 : BitVec 54) ++ tq, w5 := tailVal }
  | .preempt h n => some { pkt0 h 5 with w1 := instWord n }
  | .restore h n => some { pkt0 h 6 with w1 := instWord n }
  | .endinst h n => some { pkt0 h 7 with w1 := instWord n }
  | _ => none

/-- The instruction a packet's fields name: outer `none` for an unknown OPC, inner `none` for an unassigned
value of its body (R401, R406). -/
def candPkt (f : PF) : Option (Option Instr) :=
  match f.opc.toNat with
  | 0 => some (some (.nopPacket f.hdr))
  | 1 => some (some (.launch f.hdr f.w1 f.w2 (bits f.w3 0 20) f.w4 f.w5 f.w6))
  | 2 => some ((SigOp.ofCode (bits f.w3 0 2).toNat).map (.signal f.hdr f.w1 f.w2 (Scope.ofCode (bits f.w3 2 2))))
  | 3 => some ((WaitOp.ofCode (bits f.w3 0 2).toNat).map (.waitsig f.hdr f.w1 f.w2 (Scope.ofCode (bits f.w3 2 2))))
  | 4 => some (some (.wrenq f.hdr f.w1 f.w2 (bits f.w3 0 17) (bits f.w4 0 10) f.w5))
  | 5 => some (some (.preempt f.hdr (bits f.w1 0 20)))
  | 6 => some (some (.restore f.hdr (bits f.w1 0 20)))
  | 7 => some (some (.endinst f.hdr (bits f.w1 0 20)))
  | _ => none

/-- Whether a packet's operands leave their reserved low bits zero and keep to their ranges (R404, R406,
R407; DEDUCED, assumption log 23). Under QVER 1 a LAUNCH has no signal word (R402). -/
def packetOk (qver : Nat) : Instr → Bool
  | .launch _ img rec _ lblk _ sig =>
      bits img 0 6 = 0 && bits rec 0 5 = 0 && bits lblk 0 6 = 0 && bits sig 0 3 = 0 && (qver ≥ 2 || sig = 0)
  | .signal _ addr _ sc _ | .waitsig _ addr _ sc _ => bits addr 0 3 = 0 && sc ≠ .grove
  | .wrenq _ _ _ len _ _ => 1 ≤ len.toNat && len.toNat ≤ 65536
  | _ => true

/-- A packet decoded under a queue's agreed version, or its MALFORMED detail (R402). -/
def decodePacket (qver : Nat) (f : PF) : Except Nat Instr :=
  match candPkt f with
  | none => .error 0x01
  | some none => .error 0x02
  | some (some i) => if encPkt i = some f && packetOk qver i then .ok i else .error 0x02

/-! ## Request blocks (R418, R449) -/

/-- The fields of a request block: OP, STATUS, the reserved bits of word 0, and the operand words. -/
structure RF where
  op : BitVec 8
  rsv : BitVec 48
  w1 : W64
  w2 : W64
  w3 : W64
  w4 : W64
  w5 : W64
  w6 : W64
  w7 : W64
  deriving DecidableEq, Repr

/-- A request block by its fields; STATUS is not an operand. -/
def RF.ofWord (w : BitVec 512) : RF :=
  ⟨bits w 0 8, bits w 16 48, bits w 64 64, bits w 128 64, bits w 192 64, bits w 256 64, bits w 320 64,
    bits w 384 64, bits w 448 64⟩
/-- The bits of a request block whose STATUS is 0. -/
def RF.toWord (f : RF) : BitVec 512 :=
  f.w7 ++ f.w6 ++ f.w5 ++ f.w4 ++ f.w3 ++ f.w2 ++ f.w1 ++ (f.rsv ++ (0 : BitVec 8) ++ f.op)

/-- Whether a value fits in `n` bits: the operand's reserved bits are zero. -/
def fits (x : W64) (n : Nat) : Bool := x.toNat < 2 ^ n

/-- OP of a request (R418, R449). -/
def reqOp : Instr → Option (BitVec 8)
  | .root => some 0x01 | .shoot => some 0x02 | .pgreg => some 0x03 | .pgunreg => some 0x04 | .gpool => some 0x05
  | .ckreg => some 0x06 | .exportReq => some 0x07 | .rwin => some 0x08 | .retire => some 0x09
  | .grovecfg => some 0x0A | .telem => some 0x0B | .power => some 0x0C | .hang => some 0x0D
  | _ => none

/-- The request of an OP; `none` for an unknown one. -/
def candReq (op : BitVec 8) : Option Instr :=
  match op.toNat with
  | 0x01 => some .root | 0x02 => some .shoot | 0x03 => some .pgreg | 0x04 => some .pgunreg | 0x05 => some .gpool
  | 0x06 => some .ckreg | 0x07 => some .exportReq | 0x08 => some .rwin | 0x09 => some .retire
  | 0x0A => some .grovecfg | 0x0B => some .telem | 0x0C => some .power | 0x0D => some .hang
  | _ => none

/-- Whether the reserved bits of a request's operand words are zero, unused words included (R418, R449). -/
def reqFieldsOk (f : RF) : Instr → Bool
  | .root => fits f.w1 16 && f.w3 = 0 && f.w4 = 0 && f.w5 = 0 && f.w6 = 0 && f.w7 = 0
  | .shoot => fits f.w1 16 && f.w4 = 0 && f.w5 = 0 && f.w6 = 0 && f.w7 = 0
  | .pgreg => fits f.w1 16 && fits f.w4 20 && fits f.w5 16 && f.w7 = 0
  | .pgunreg => fits f.w1 16 && f.w3 = 0 && f.w4 = 0 && f.w5 = 0 && f.w6 = 0 && f.w7 = 0
  | .gpool | .retire => f.w2 = 0 && f.w3 = 0 && f.w4 = 0 && f.w5 = 0 && f.w6 = 0 && f.w7 = 0
  | .ckreg => fits f.w1 6 && fits f.w2 1 && f.w7 = 0
  | .exportReq => fits f.w1 8 && fits f.w2 12 && fits f.w5 2 && f.w6 = 0 && f.w7 = 0
  | .rwin => fits f.w1 6 && fits f.w2 12 && fits f.w5 16 && f.w7 = 0
  | .grovecfg => fits f.w2 32 && fits (f.w3 &&& ~~~(0x10F : W64)) 0 && f.w4 = 0 && f.w5 = 0 && f.w6 = 0 && f.w7 = 0
  | .telem => f.w3 = 0 && f.w4 = 0 && f.w5 = 0 && f.w6 = 0 && f.w7 = 0
  | .power => fits f.w1 12 && fits f.w2 10 && f.w3 = 0 && f.w4 = 0 && f.w5 = 0 && f.w6 = 0 && f.w7 = 0
  | .hang => fits f.w2 32 && fits f.w3 32 && f.w4 = 0 && f.w5 = 0 && f.w6 = 0 && f.w7 = 0
  | _ => false

/-- A request block decoded; `none` for one that completes with REFUSED as it stands (R418). -/
def decodeReq (f : RF) : Option Instr := (candReq f.op).filter fun i => f.rsv = 0 && reqFieldsOk f i

/-! ## One row's word -/

/-- The only operation of a bundle; `none` if it has none or more than one. -/
def Bundle.only (b : Bundle) : Option Instr :=
  match b.seq, b.ops with
  | none, [(_, o)] => some o.op
  | some i, [] => some i
  | none, [] => if b.yld then some .yieldRun else none
  | _, _ => none

/-- The instruction of one word, its first bit lowest: a bundle of one operation (384 bits), a slot of 64 or 48
bits (tried as S then V, and as M then C), a packet or a request block (512 bits). -/
def decodeTableWord (nbits w : Nat) : Option Instr :=
  match nbits with
  | 64 =>
    let x := BitVec.ofNat 64 w
    (decodeS (SF.ofWord x)).toOption.or (decodeV (VF.ofWord x)).toOption
  | 48 =>
    let x := BitVec.ofNat 48 w
    (decodeM (MF.ofWord x)).toOption.or (decodeC (CF.ofWord x)).toOption
  | 512 =>
    let x := BitVec.ofNat 512 w
    (decodePacket 2 (PF.ofWord x)).toOption.or (decodeReq (RF.ofWord x))
  | _ => (decodeBundle (BitVec.ofNat 384 w) false).toOption.bind Bundle.only

end Sys2Proof
end

