-- ==== Sys2Proof/Machine/State.lean ====
section
/-! DEFINITION. The state of the QK7: every piece of state the spec gives the machine (INVENTORY.md, '## State'),
as plain data, and the machine after device reset. Sparse collections are lists of numbered entries whose absent
entries read as their reset value. -/

namespace Sys2Proof.Machine
open Sys2Proof

/-- Why the machine stops with a fault. -/
inductive Fault
  /-- Raised by an access through a page-table leaf of device memory (TGT 0) whose physical address lies at or
  above the 768 x 10^9 bytes of R427: the spec gives no storage there. Safe: the model stops where the spec says
  nothing (DEDUCED, assumption log 8). -/
  | noDeviceMemory
  deriving DecidableEq, Repr

/-- Why the model has no meaning for an instruction. -/
inductive Refusal
  /-- Raised by an arm of `exec` whose instruction has no meaning yet. Safe: nothing can be proved of such a step. -/
  | notModelled (mnemonic : String)
  deriving DecidableEq, Repr

/-- A sparse collection: numbers strictly rising. -/
abbrev Map (α : Type) := List (Nat × α)

/-- Bytes of a memory, in the canonical form of `Memory.wf` (Ops.lean). -/
abbrev Memory := List Host.Cell

/-! ## Places and values in flight -/

/-- Where a resolved address leads (R96-R100, R420). -/
inductive Place
  /-- Device memory, by physical address. -/
  | dev (pa : Nat)
  /-- Byte `off` of grove `g`'s scratchpad. -/
  | spad (g off : Nat)
  /-- Host memory over CXL. -/
  | host (a : Nat)
  /-- Another package's device memory. -/
  | remote (chip pa : Nat)
  /-- A register of a queue's doorbell block. -/
  | bell (q off : Nat)
  deriving DecidableEq, Repr

/-- The write of a result that lands (R55). A masked write changes the bits set in `k`. -/
inductive Wr
  | s (r : SReg) (x : W64)
  | p (r : PReg) (x : Bool)
  | b (r : BReg) (x : W32)
  | lc (r : LReg) (x : W32)
  | v (r : VReg) (x : VecW)
  | vp (r : VpReg) (x : MaskW)
  | mp (r : MpReg) (x k : BitVec 128)
  | acc (r : AccReg) (x k : TileW)
  | sys (n : Nat) (x : W64)
  deriving DecidableEq, Repr

/-- A result in flight: what it writes, the non-frozen core cycle it lands on, the flags it sets, whether it is
squash-marked, the issue order and slot of its operation, whether it holds a landing-buffer entry, and the tile that a
VFROMACC read (R54-R57, R61, R263). -/
structure Landing where
  wr : Wr
  land : Nat
  flags : BitVec 5
  squash : Bool
  ord : Nat
  slot : Nat
  buf : Bool
  src : Option AccReg
  deriving DecidableEq, Repr

/-! ## Accesses, requests, jobs -/

/-- A single-copy-atomic piece of an access: its index, its address, where it lies, its length in bytes (R120,
R125). -/
structure Piece where
  idx : Nat
  va : Nat
  pl : Place
  len : Nat
  deriving DecidableEq, Repr

/-- The read-modify-write of an atomic (R235, R236), and of R395's doorbell maximum. -/
inductive AtomKind | add | min | max | minn | maxn | and | or | xor | xchg | cas | fadd
  deriving DecidableEq, Repr

/-- What an issued access does when it is performed. -/
inductive AccOp
  /-- A scalar load; `z` zero-extends (R223). -/
  | load (z : Bool) (fe : Option FeLoad) (d : SReg)
  /-- A scalar store of the low bytes of `x`. -/
  | store (fe : Option FeStore) (x : W64)
  /-- A vector load: `base` holds what inactive bytes get, `k` the active bytes, `got` the bytes loaded so far
  (R198, R227). -/
  | vload (fe : Option FeLoad) (d : VReg) (base : VecW) (k : MaskW) (got : VecW)
  /-- A vector store of the bytes of `x` set in `k`. -/
  | vstore (fe : Option FeStore) (x : VecW) (k : MaskW)
  /-- An atomic: operand `y`, new value `n` of ACAS, destination if it returns (R235). `red` marks a RED. -/
  | atomic (a : AtomKind) (o : Ordering4) (sc : Scope) (y n : W64) (d : Option SReg) (red : Bool)
  /-- ARRIVE, WAITB, WAITB.try and BINIT (R240). -/
  | arrive (sc : Scope) (d : SReg)
  | waitb (sc : Scope) (q : W32) (d : SReg)
  | waitbTry (sc : Scope) (q : W32) (d : SReg)
  | binit (sc : Scope) (n p : W32)
  /-- LDG: the value that its generation holds, read when it issued, the poison of it (class x 65536 + code, 0 for none), and the
  generation (R225). -/
  | ldg (d : SReg) (x : W64) (bad : Nat) (gen : Nat)
  /-- The four granule loads of WATCH's descriptor (R293), gathered in `got`. -/
  | watchRead (got : BitVec 512)
  /-- A load or returning atomic that read poisoned data: its task takes the cause at its landing cycle (R456). -/
  | failed (cls code : Nat)
  deriving DecidableEq, Repr

/-- A cause (R63): the step of R167 that finds it, its class and code, its slot, and for a page fault the address,
the access kind (0 read, 1 write, 2 atomic) and source of R426, for an absent state its object. -/
structure Trap where
  step : Nat
  cls : Nat
  code : Nat
  slot : Nat
  va : Nat
  acc : Nat
  obj : Nat
  deriving DecidableEq, Repr

/-- An access issued and not wholly performed: issue order, slot, operation, the pieces not yet performed, the last
non-frozen cycle its result may land on, squash mark (R120, R220). -/
structure Acc where
  ord : Nat
  slot : Nat
  op : AccOp
  pieces : List Piece
  bound : Nat
  squash : Bool
  deriving DecidableEq, Repr

/-- A request issued and not answered (R282): issue order, instruction, source values, register block, the last
cycle its answer may land on, the descriptor WATCH has read, the cycles of SYS.TIME it was issued on. -/
structure Req where
  ord : Nat
  op : Instr
  x : W64
  y : W64
  blk : List W64
  bound : Nat
  desc : Option (BitVec 512)
  since : Nat
  deriving DecidableEq, Repr

/-- A copy job (R242-R251), a window's fetches (R110-R112) or a GROLL restore (R298): issue order, slot, tag,
operation, register values at issue, progress p and delivered mask (R247), the token it is suspended on, the
granules read and not yet written, whether a WCLOSE has dropped its fetches not started, the generation's cut, and
the move a SPIN or SPOUT waits for, the save area that it may reach (R371), and the block-table entries read, by block (R245). -/
structure Job where
  ord : Nat
  slot : Nat
  tag : Nat
  op : Instr
  args : List W64
  p : Nat
  mask : BitVec 256
  tok : Option Nat
  buf : List (Nat × W128)
  stop : Bool
  cut : Nat
  moving : Bool
  yw : Bool
  save : List (Nat × Nat)
  table : Map Nat
  deriving DecidableEq, Repr

/-- A scratchpad window (R110). -/
structure Window where
  isOpen : Bool
  t : W64
  p : W64
  l : W64
  n : W64
  b : W64
  q : W64
  h : Int
  deriving DecidableEq, Repr

/-- Whether an engine binding is free, bound, or unbound with operations under way (R272, R279). -/
inductive BindSt | free | bound | leaving
  deriving DecidableEq, Repr
/-- An engine binding (R272). -/
structure Binding where
  st : BindSt
  handle : W64
  tile : Nat
  ldk : Nat
  ldv : Nat
  half : Bool
  deriving DecidableEq, Repr

/-! ## Tasks -/

/-- A task record of R17. -/
structure Rec where
  typ : BitVec 16
  rsv : BitVec 16
  chg : W32
  c0 : W32
  c1 : W32
  c2 : W32
  c3 : W32
  arg : W64
  deriving DecidableEq, Repr

/-- A footprint region of a task: byte addresses [base, base + len). -/
structure Region where
  base : Nat
  len : Nat
  kind : BitVec 2
  trk : Bool
  deriving DecidableEq, Repr

/-- States of a task (R49); committed and cancelled tasks leave the table. -/
inductive TaskSt | pending | ready | running | parked | preempted | committing | failed
  deriving DecidableEq, Repr

/-- A task in a dependency table (R23-R28, R49). `edges` names the entries it waits on; `keptLts`, `keptFlags` and `keptLines`
hold what a pre-emption keeps of each rank (R67, R69, R134); `tent` holds a staged task's tentative bytes of device memory (R139);
`deferred` its SPAWN records held to commit (R289). `preempt` says that a pre-emption found it running (R373), `began` and `chg0`
when its attempt began and what its cores had been charged by then (R414), and `readyAt` the non-frozen cycles of its grove's
cores since which it could be dispatched (R375). -/
structure Task where
  inst : Nat
  rcd : Rec
  key : Option W64
  seq : Nat
  regions : List Region
  edges : List Nat
  st : TaskSt
  retries : Nat
  token : Bool
  depth : Nat
  ts : W64
  keptLts : List W64
  keptFlags : List (BitVec 5)
  keptLines : List (List Nat)
  safePt : Option Nat
  areas : List Nat
  tent : Memory
  deferred : List (Option Nat × Rec)
  cause : W32
  cores : List Nat
  x : Nat
  endTime : Nat
  lastIssue : Nat
  preempt : Bool
  began : Nat
  chg0 : List Nat
  readyAt : Option (List Nat)
  creator : Nat
  deriving DecidableEq, Repr

/-! ## Contexts -/

/-- What a context is doing. `ending` holds what an attempt that has ended still keeps, until the operations that it waits for
have ended (R49, R279), and stands for what is left of one that keeps nothing (R65). -/
inductive CtxSt | free | running | parked | committing | ending | halted
  deriving DecidableEq, Repr

/-- What a parked context waits for (R41): a pager's token (R426), an object's move (R325), room for an object's
charge (R327), a suspended job, by its issue order and slot (R247), or any job (R243), or nothing named. -/
inductive WaitOn
  | none
  | token (t : Nat)
  | object (o : Nat)
  | room (o : Nat)
  | jobs (j : Option (Nat × Nat))
  deriving DecidableEq, Repr

/-- Roles of task types (R20). -/
inductive Role | loader | compute | epilogue
  deriving DecidableEq, Repr

/-- A context (R50). `pc` is the next index-stream address; `delay` counts the delay bundles still to issue and
`target` is the pending transfer's target (R161); `nextAt` is the first non-frozen cycle on which an indexed bundle
may issue (R33, R156). -/
structure Ctx where
  s : Vector W64 64
  p : Vector Bool 16
  b : Vector W32 8
  lc : Vector W32 4
  v : Vector VecW 32
  vp : Vector MaskW 8
  mp : Vector (BitVec 128) 8
  acc : Vector TileW 8
  fb : Vector Binding 4
  lts : W64
  pc : W32
  delay : Nat
  target : Option W32
  nextAt : Nat
  -- system registers of context scope (R59)
  rank : Nat
  skew : Nat
  heapBase : W64
  heapLimit : W64
  heapOff : W64
  fpflags : BitVec 5
  frzctx : W64
  taddr : W32
  tcause : W32
  txfer : W64
  -- what has been issued
  inflight : List Landing
  staged : List Landing
  accs : List Acc
  reqs : List Req
  jobs : List Job
  windows : Vector Window 4
  -- scheduling (R30-R33), parking (R41), task and grants (R28)
  st : CtxSt
  wait : WaitOn
  -- the cause taken and not yet drained (R65)
  err : Option Trap
  ready : Bool
  since : Nat
  role : Role
  task : Option Nat
  inst : Option Nat
  vGrant : Nat
  aGrant : Nat
  spOff : Nat
  spLen : Nat
  gang : Bool
  bundleNo : Nat
  ywJob : Option Nat
  claim : Option (BitVec 16)
  -- granules a held VSTFE.wf of V0 (low half) and V1 has performed (R115)
  wfDone : BitVec 64
  -- SYS.TIME since which a wait has frozen the core, or non-frozen cycle since which a .wf hold lasts (R116, R241)
  frzSince : Option Nat
  holdSince : Option Nat
  -- SYS.TIME before which a refresh window or a PHASE drain freezes the core on a request of this context (R106, R108)
  frzUntil : Nat
  -- host-memory lines written since the last system release (R134)
  hostLines : List Nat
  -- the safe point whose save or restore routine runs, and whether it is the save routine (R66, R68)
  safePt : Option Nat
  saving : Bool
  -- the issue order of a FENCE not yet complete, and whether its scope reaches beyond the package (R232)
  fence : Option (Nat × Bool)
  -- in a protected grove, the issue order up to which the pair's signatures have matched, and of the bundles not yet compared the
  -- issue order and the cycle of SYS.TIME they issued on (R452)
  matched : Nat
  unmatched : List (Nat × Nat)
  -- of what is left of an attempt that has ended: its task, and whether what it writes is discarded (R140, R343)
  ghost : Option (Task × Bool)
  -- the context of the hardware whose attempt issued what stands here: itself, but for what an attempt has left behind (R134)
  home : Nat
  -- the engine handle operation for whose raise in charge it waits (R327)
  ask : Option Instr
  deriving DecidableEq, Repr

/-! ## Cores -/

/-- A translation held by a TLB (R99): address space, page base and log2 size, where the page leads, permissions. -/
structure TlbEntry where
  asid : Nat
  va : Nat
  k : Nat
  tgt : Nat
  chip : Nat
  pa : Nat
  r : Bool
  w : Bool
  deriving DecidableEq, Repr

/-- A walk a core is frozen on: the context, the page address missed, the access kind wanted, the slot, and the cycle of
SYS.TIME it missed on (R99). -/
structure Walk where
  x : Nat
  va : Nat
  rd : Bool
  wr : Bool
  slot : Nat
  since : Nat
  deriving DecidableEq, Repr

/-- An operand slot (R117): the context that holds it and the job that is filling it. -/
structure OpSlot where
  holder : Option Nat
  fill : Option Nat
  data : TileW
  deriving DecidableEq, Repr

/-- A matrix-unit operation: its context, issue order, instruction and the parameter registers it read (R260). -/
structure MatOp where
  x : Nat
  ord : Nat
  op : Instr
  pa : BitVec 128
  pb : BitVec 128
  squash : Bool
  deriving DecidableEq, Repr

/-- An operation of the outer-product engine: a fast-weight operation with the vectors it read, or an engine handle
operation with its sources, destination and new object or selector once the directory has answered OK (R272, R304). -/
structure EngOp where
  x : Nat
  ord : Nat
  op : Instr
  handle : W64
  tile : Nat
  fb : Nat
  vecs : List VecW
  mps : List (BitVec 128)
  srcs : List W64
  go : Bool
  new : W64
  deriving DecidableEq, Repr

/-- A core (R12). `bufNeed` is the landing-buffer entries that a bundle waits for, which holds every bundle of the core
(R54), `lastInst` the instance of the bundle issued last (R374), and `mrun` the matrix operations that have started and not completed,
with their starts (R261). `frzUntil` is the cycle of SYS.TIME until which what a context that has gone had met freezes the core (R106,
R108), and `frzLag` whether the core was frozen on the last cycle and the one before, which is when its trailing core freezes (R452). -/
structure Core where
  cyc : Nat
  frzcore : W64
  ageLimit : BitVec 16
  svcShare : BitVec 7
  svcIssued : Nat
  lastIssue : Option (Nat × Nat)
  lastInst : Option Nat
  current : Option Nat
  tlb : List TlbEntry
  walk : Option Walk
  slots : Vector OpSlot 16
  mq : List MatOp
  mrun : List (MatOp × Nat)
  eq : List EngOp
  erun : Option (EngOp × Nat)
  bufNeed : Nat
  frzUntil : Nat
  frzLag : Bool × Bool
  deriving DecidableEq, Repr

/-! ## Tasks, images, instances -/

/-- Ordering-key rules (R22). -/
inductive KeyRule | none | coord (j : Fin 4) | pair (j : Fin 3) | arg
  deriving DecidableEq, Repr
/-- Routing rules (R21). -/
inductive Route | fixed (g : Nat) | coord (j : Fin 4) (h : Nat) | key | creator
  deriving DecidableEq, Repr
/-- A footprint region of a type (R380): bit 0 of `kind` allows reads, bit 1 writes. -/
structure RegionTy where
  base : W64
  st0 : W64
  st1 : W64
  st2 : W64
  st3 : W64
  len : Nat
  kind : BitVec 2
  trk : Bool
  deriving DecidableEq, Repr
/-- A task type (R20, R379). -/
structure TaskType where
  entry : W32
  key : KeyRule
  route : Route
  skew : Nat
  gang : Bool
  staged : Bool
  role : Role
  aDem : Nat
  vDem : Nat
  spad : Nat
  regions : List RegionTy
  deriving DecidableEq, Repr
/-- A safe point (R381). -/
structure SafePt where
  addr : W32
  save : W32
  restore : W32
  size : Nat
  deriving DecidableEq, Repr
/-- A kernel image as the front end reads it (R377-R384). -/
structure Image where
  groves : List Nat
  dict : List BundleW
  code : List W16
  types : List TaskType
  safes : List SafePt
  phases : List Nat
  ws : Nat
  watches : List (BitVec 512)
  timed : Bool
  wcyc : Nat
  fbud : Nat
  deriving DecidableEq, Repr

/-- How a launched instance ended, for its completion record (R409, R410). -/
inductive EndSt | none | ended | budget
  deriving DecidableEq, Repr

/-- A record waiting for a task unit to accept it (R27, R289): its place among the records of one cycle (R23), its creator's set index, its chain depth (R343) and the
logical time its task starts above. -/
structure Held where
  rank : Nat
  rcd : Rec
  creator : Nat
  depth : Nat
  ts : Nat
  deriving DecidableEq, Repr

/-- A kernel instance (R15, R16, R404); `desc` is its queue's descriptor at the launch, which gives its address space,
partition and rights while it lives (R399); `causeTime` and `endTime` are the cycles of SYS.TIME of its first failure and of its
ending, and `since` that of its admission until its first task is dispatched (R375, R409). -/
structure Inst where
  img : Image
  queue : Nat
  desc : BitVec 512
  pos : Nat
  heapBase : W64
  heapLimit : W64
  heapOff : W64
  saveBase : Nat
  saveLen : Nat
  sigAddr : Nat
  noPre : Bool
  gen : Bool
  ended : Bool
  endSt : EndSt
  endTime : Nat
  recs : List Held
  cause : W32
  causeTime : Nat
  froze : Bool
  entry : Nat
  since : Option Nat
  deadline : Nat
  charged : Map Nat
  preempting : Option (Nat × Nat)
  areas : List (Nat × Nat)
  hostLines : List Nat
  deriving DecidableEq, Repr

/-! ## Groves and dies -/

/-- A drain of grove memory under way: end, new size in bytes, new phase, and the instance at whose admission it started, none
of whose tasks is dispatched (R108). -/
structure Drain where
  till : Nat
  size : Nat
  phase : Nat
  inst : Option Nat
  deriving DecidableEq, Repr

/-- A gang task on a context number of the grove (R37-R39): whether it has yielded and not resumed, and the cores still to
end their interposed run. -/
structure Gang where
  x : Nat
  yielded : Bool
  waiting : List Nat
  deriving DecidableEq, Repr

/-- A dictionary region of an instance (R155). -/
structure DictRegion where
  inst : Nat
  start : Nat
  len : Nat
  deriving DecidableEq, Repr

/-- A line of a grove's leased cache: its 128-byte line, write timestamp, read-lease end, the cycle of SYS.TIME it was granted
on, and its bytes (R107, R124). -/
structure Lease where
  line : Nat
  wts : Nat
  rts : Nat
  since : Nat
  data : BitVec 1024
  deriving DecidableEq, Repr

/-- A grove (R12, R23, R107). `epochs` says for a 4 KiB page of scratchpad when its content last became undefined
(R108, R113), for the free bytes it then holds, and `spadTs` holds the timestamp of each granule of scratchpad (R122). -/
structure Grove where
  nextSeq : Nat
  spad : Memory
  epochs : Map Nat
  spadTs : Map Nat
  fe : BitVec 524288
  size : Nat
  phase : Nat
  drain : Option Drain
  tlb : List TlbEntry
  dict : List DictRegion
  retry : BitVec 4
  hang : W32
  part : BitVec 4
  prot : Bool
  gangs : List Gang
  issue : Nat
  svcIss : Nat
  parks : Nat
  evict : Nat
  mismatch : Nat
  fails : Nat
  leased : List Lease
  deriving DecidableEq, Repr

/-- A die (R12, R64, R104, R134): weight-store refresh phase and bytes, and the pending sets of host lines by the
signal's line. -/
structure Die where
  phase : BitVec 12
  ws : Memory
  pending : List (Nat × List Nat)
  deriving DecidableEq, Repr

/-! ## State objects -/

/-- Where an object is (R325): resident in a grove of a chip, in a chip's state tier, or being moved from a place to a
place, where grove 127 is the chip's state tier. -/
inductive Where
  | resident (chip g : Nat)
  | tier (chip : Nat)
  | moving (chip g chip' g' : Nat)
  deriving DecidableEq, Repr

/-- A context waiting on an object (R325), or for room for a raise in its charge of `need` units, which `got` says is
reserved (R327). -/
structure Waiter where
  c : Nat
  x : Nat
  need : Nat
  got : Bool
  deriving DecidableEq, Repr

/-- A state object (R318-R324): its live units and each snapshot's, by unit number. `res` says that room at the
destination of its move is reserved, `held` is what is reserved there until then (R326), `extra` is the raise in charge reserved
for operations (R327). -/
structure Obj where
  wh : Where
  ldk : Nat
  ldv : Nat
  tiles : Nat
  half : Bool
  live : List Nat
  snaps : Map (List Nat)
  nextSel : Nat
  pins : Nat
  decl : Nat
  lastUse : Nat
  waiters : List Waiter
  roomFor : List Waiter
  res : Bool
  held : Nat
  extra : Nat
  part : BitVec 4
  deriving DecidableEq, Repr

/-! ## Watches and generations -/

/-- A shoot record not yet accepted (R339-R340, R343); records of one write or commit have the same `born` (R342). -/
structure Pend where
  i : Nat
  chg : W32
  depth : Nat
  ts : Nat
  born : Nat
  deriving DecidableEq, Repr

/-- A watch entry (R292, R335-R347). -/
structure Watch where
  inst : Nat
  static : Bool
  pa : Nat
  len : Nat
  desc : BitVec 512
  disabled : Bool
  why : Nat
  shoots : W32
  pend : List Pend
  win : Nat
  winCount : Nat
  deriving DecidableEq, Repr

/-- States of a generation (R355). -/
inductive GenSt | free | cutting | live | draining | checkpointed | failed
  deriving DecidableEq, Repr

/-- A generation (R296-R300, R349, R353, R355): its state, its cut, the granules its drain has written, its checkpoint target,
whether it has been dropped while a restore from it is outstanding, and whether its drain met poison. -/
structure Gen where
  st : GenSt
  cut : Nat
  done : Nat
  target : Nat
  dropped : Bool
  poisoned : Bool
  deriving DecidableEq, Repr

/-- A version copy of the pool: granule number, the timestamps [lo, hi) it was current for, content, and its poisoned blocks by position:
class x 65536 + code (R350, R456). -/
structure PoolCopy where
  g : Nat
  lo : Nat
  hi : Nat
  data : BitVec 32768
  bad : Map Nat
  deriving DecidableEq, Repr

/-- A checkpoint target (R432), the granules drained into it, and those drained with poison: class x 65536 + code
(R353). -/
structure Target where
  host : Bool
  base : Nat
  len : Nat
  sbase : Nat
  slen : Nat
  data : List (Nat × BitVec 32768)
  bad : List (Nat × Nat)
  deriving DecidableEq, Repr

/-! ## The front end -/

/-- States of a queue (R395, R399). -/
inductive QSt | disabled | active | waiting | publishWait | fetchFault | payloadFault | halted | frozen
  deriving DecidableEq, Repr

/-- A write of the front end, made or kept back (R351, R466): its address, or with `ctail` the next slot of the completion ring;
its bytes; and the die and lines of host memory that its release moves to its own pending set (R411). -/
structure HeldWrite where
  va : Nat
  data : List Byte
  ctail : Bool
  die : Nat
  lines : List Nat
  deriving DecidableEq, Repr

/-- A packet that has started and not completed: position, instruction, the instance it launched or names. -/
structure Started where
  pos : Nat
  op : Instr
  inst : Option Nat
  deriving DecidableEq, Repr

/-- A queue (R394-R399). `hdr` is the header read of the packet being fetched (R396), and `lines` the lines of host memory of
launches that have completed, which a later system release of the queue carries (R411). -/
structure Queue where
  desc : BitVec 512
  tail : W64
  head : W64
  ctail : W64
  chead : W64
  st : QSt
  detail : Nat
  hdr : Option W64
  fetched : Option Instr
  started : List Started
  held : List HeldWrite
  token : Option Nat
  readFault : Bool
  lines : List Nat
  deriving DecidableEq, Repr

/-- A pager's region (R425). -/
structure PagerRegion where
  asid : Nat
  base : Nat
  len : Nat
  inst : Nat
  typ : BitVec 16
  arg : W64
  deriving DecidableEq, Repr

/-- What waits on a token (R426): a context, a job with the code of its fault, or a queue. -/
inductive TokWaiter
  | ctx (c x : Nat)
  | job (c x ord slot code : Nat)
  | queue (q : Nat)
  deriving DecidableEq, Repr

/-- An unanswered upcall (R426): the token, its page, its region's pager instance, its waiters, the record still to
be accepted. -/
structure Upcall where
  tok : Nat
  asid : Nat
  page : Nat
  inst : Nat
  waiters : List TokWaiter
  record : Option Rec
  deriving DecidableEq, Repr

/-- An export entry (R435). -/
structure ExportEntry where
  chip : Nat
  base : Nat
  len : Nat
  w : Bool
  deriving DecidableEq, Repr

/-- A contribution held for merging since a cycle of SYS.TIME (R132, R436): its operation, size, address and operand, the context that
made it and its address space then, ACAS's new value, its issue order, and whether it acquires, and at system scope (R129, R134). -/
structure Contribution where
  op : AtomKind
  len : Nat
  pa : Nat
  x : Nat
  c : Nat
  since : Nat
  asid : Nat
  new : Nat
  ord : Nat
  acq : Bool
  sys : Bool
  deriving DecidableEq, Repr

/-- A reduction window (R436). -/
structure RedWin where
  home : Nat
  base : Nat
  len : Nat
  grp : Nat
  interval : Nat
  held : List Contribution
  deriving DecidableEq, Repr

/-- Whether a port carries traffic (R434). -/
inductive PortSt | up | retraining | down
  deriving DecidableEq, Repr
/-- A flit of 256 bytes, its CRC-64 apart (R433): sequence number, acknowledged sequence number, credits returned per virtual channel,
and of the routing header the reserved bits, message kind, virtual channel, source and destination chip; then the payload. -/
structure Flit where
  seq : BitVec 16
  ack : BitVec 16
  credits : BitVec 32
  rsv : BitVec 32
  kind : BitVec 5
  vc : BitVec 3
  src : BitVec 12
  dst : BitVec 12
  payload : BitVec 1856
  deriving DecidableEq, Repr
/-- A Canopy port (R433): the number of the flit that it expects and of the one that it sends next, the flits not acknowledged, oldest
first, the credits of each virtual channel that it has been returned and that it has still to return, the protocol version, and the cycle
of SYS.TIME on which it last lost its link (R434). -/
structure Port where
  st : PortSt
  expect : BitVec 16
  next : BitVec 16
  unacked : List Flit
  credits : Vector Nat 8
  owed : Vector Nat 8
  version : Nat
  since : Nat
  deriving DecidableEq, Repr

/-- A frame being retired and the spare it moves to (R428). -/
structure Retiring where
  frame : Nat
  spare : Nat
  deriving DecidableEq, Repr

/-- A driver request under way (R418, R424, R431, R450): its block's physical address, its instruction, its operands, the translations
that a SHOOT has dropped, and whether a GROVECFG has asked for moves. -/
structure Pending where
  blk : Nat
  op : Instr
  req : RF
  shot : List TlbEntry
  began : Bool
  deriving DecidableEq, Repr

/-- The bytes of a poisoned block that one write has written so far: the block's number, the write's context, issue order and slot, and
a mask (R456). -/
structure Mend where
  block : Nat
  by_ : Nat × Nat × Nat
  mask : BitVec 64
  deriving DecidableEq, Repr

/-- A memory channel (R459): failed, retraining, replay failures since the last success, and the cycle of SYS.TIME since which it
retrains. -/
structure Chan where
  failed : Bool
  retraining : Bool
  replays : Nat
  since : Nat
  deriving DecidableEq, Repr

/-- The counters of the telemetry area that no other state gives (R461): cycles below 700 MHz, corrected errors, class
10 and 11 reports, parity replays, shoots, runaways, SNAPs answered OK and not, cycles of held writes, pager moves in, out,
between groves and between chips, state-absent parks, class 13 failures. -/
structure Counters where
  capcyc : Nat
  eccCorr : Nat
  eccUnc : Nat
  integ : Nat
  capar : Nat
  shoots : Nat
  runaway : Nat
  snapOk : Nat
  snapFail : Nat
  poolHold : Nat
  pgin : Nat
  pgout : Nat
  pggrove : Nat
  pgchip : Nat
  stabs : Nat
  hangs : Nat
  deriving DecidableEq, Repr

/-- What another party does that no instruction or event of this package tells of (assumption log 12). -/
inductive Away
  /-- Bytes of another package's device memory written by that package (R131, R135). -/
  | write (chip pa : Nat) (bs : List Byte)
  /-- An HNEW of another package: the new object's home and grove, its description and its partition (R302). -/
  | object (chip g : Nat) (x : W64) (part : BitVec 4)
  /-- Unit k of an object that is resident in another package written there (R332). -/
  | unit (key k : Nat) (x : BitVec 8192)
  /-- A touch of an object by grove g of another package (R332). -/
  | touch (key chip g : Nat)
  /-- What a context of grove g of another package asks of the directory or does there to an object: HPIN, HUNPIN, HFREE, HMIG, SPIN,
  SPOUT, HSNAP, HFORK or HROLL, with its partition and its two operands (R303-R309, R332). -/
  | ask (chip g : Nat) (part : BitVec 4) (i : Instr) (x y : W64)
  /-- A message of heartwood to a core's service context (R316). -/
  | message (c : Nat)
  deriving DecidableEq, Repr

/-- Who moves next: the model's own schedule (DESIGN CHOICE, assumption log 1). `spoil` gives a bundle an uncorrectable error in
what it reads, `softError` is a soft error that an on-die SRAM corrects, and `readError` gives the outcome of a read of HBM that no event
carries (DESIGN CHOICE, assumption log 21). -/
inductive Move
  | issue (c x : Nat)
  | spoil (c x : Nat)
  | softError
  | readError (pa h : Nat)
  | event (i : Instr) (ev : Args)
  | request (i : Instr) (ev : Args) (req : RF)
  | away (a : Away)
  | tick
  deriving DecidableEq, Repr

/-! ## The machine -/

/-- The state of the machine. -/
structure State where
  time : W64
  cores : Map Core
  ctxs : Map Ctx
  groves : Map Grove
  dies : Map Die
  tasks : Map Task
  insts : Map Inst
  -- memory (R103, R133, R435), line timestamps of R122's text: by line, (wts, rts)
  mem : Memory
  hostMem : Memory
  remoteMem : Map Memory
  lines : Map (Nat × Nat)
  writeTs : Map Nat
  floor : Nat
  -- the timestamp of the parties that have no LTS and of what they and contexts meet in: host memory, other packages, doorbells (R122,
  -- R131, R395)
  outTs : Nat
  -- translation (R419, R425, R426)
  roots : Map Nat
  regions : List PagerRegion
  upcalls : List Upcall
  -- state objects (R318-R332)
  chip : Nat
  objs : Map Obj
  units : Map (BitVec 8192)
  badUnits : List Nat
  -- watches and generations
  watches : Map Watch
  gens : Map Gen
  poolFrames : Nat
  poolGone : List Nat
  copies : List PoolCopy
  targets : Map Target
  -- the front end
  bootFail : Nat
  ifsel : W64
  booted : Bool
  queues : Map Queue
  fetchers : Map Nat
  nextInst : Nat
  -- the cycle and the rank of the task record accepted last (R23)
  lastRank : Nat × Nat
  -- fabric
  exports : Map ExportEntry
  redWins : Map RedWin
  ports : Map Port
  -- memory controllers (R428-R430, R455-R460)
  remap : Map Nat
  spares : Nat
  retiring : List Retiring
  poison : Map Nat
  mending : List Mend
  ecc : Map Nat
  worn : List Nat
  chans : Map Chan
  security : Nat
  -- boot, keys and measurement (R438-R448)
  keySlots : Map Bool
  meas : Vector (BitVec 384) 8
  svn : Nat
  digests : Map (BitVec 384)
  accepted : List (BitVec 384)
  linkUse : Map Nat
  linkKeys : Map (BitVec 256)
  memKeys : Map (BitVec 256)
  sapwood : Option Image
  -- telemetry and power (R449, R461-R463)
  telemPa : Nat
  telemEvery : Nat
  telemSeq : Nat
  telemLast : Nat
  plim : Nat
  fmax : Nat
  mhz : Nat
  gated : Bool
  throttled : Nat
  -- the cycles of SYS.TIME of the last step down for power, and of the last power, junction or clock that keeps a step up from the next
  -- 10 ms (R463)
  powerAt : Option Nat
  warmAt : Nat
  counters : Counters
  -- driver requests under way
  reqs : List Pending
  -- the model's own fields (assumption logs 1, 2): the context that acts, its slot or whether its header, and squash mark, the bundle's
  -- address, issue order, the counter of free values, the event's subjects and request, the schedule
  core : Nat
  ctx : Nat
  slot : Slot
  inHeader : Bool
  squash : Bool
  checked : Bool
  here : W32
  nextOrd : Nat
  fresh : Nat
  ev : Args
  req : RF
  queue : Nat
  agenda : List Move
  deriving DecidableEq, Repr

/-! ## Reset -/

/-- A closed window. -/
def Window.reset : Window := ⟨false, 0, 0, 0, 0, 0, 0, 0⟩
/-- A free binding (R272). -/
def Binding.reset : Binding := ⟨.free, 0, 0, 0, 0, false⟩

/-- Context `x` of a core after device reset: a task context is free, the service context halted (assumption
logs 3 and 4); SYS.RANK reads the core's local index (R59). -/
def Ctx.reset (c x : Nat) : Ctx where
  s := Vector.replicate 64 0
  p := Vector.replicate 16 false
  b := Vector.replicate 8 0
  lc := Vector.replicate 4 0
  v := Vector.replicate 32 0
  vp := Vector.replicate 8 0
  mp := Vector.replicate 8 0
  acc := Vector.replicate 8 0
  fb := Vector.replicate 4 Binding.reset
  lts := 0
  pc := 0
  delay := 0
  target := none
  nextAt := 0
  rank := c % 8
  skew := 0
  heapBase := 0
  heapLimit := 0
  heapOff := 0
  fpflags := 0
  frzctx := 0
  taddr := 0
  tcause := 0
  txfer := 0
  inflight := []
  staged := []
  accs := []
  reqs := []
  jobs := []
  windows := Vector.replicate 4 Window.reset
  st := if x = 8 then .halted else .free
  wait := .none
  err := none
  ready := false
  since := 0
  role := .compute
  task := none
  inst := none
  vGrant := if x = 8 then 32 else 0
  aGrant := if x = 8 then 8 else 0
  spOff := 0
  spLen := 0
  gang := false
  bundleNo := 0
  ywJob := none
  claim := none
  wfDone := 0
  frzSince := none
  holdSince := none
  frzUntil := 0
  hostLines := []
  safePt := none
  saving := false
  fence := none
  matched := 0
  unmatched := []
  ghost := none
  home := x
  ask := none

/-- A core after device reset (R63: AGELIMIT 4,096 and SVCSHARE 2). -/
def Core.reset : Core where
  cyc := 0
  frzcore := 0
  ageLimit := 4096
  svcShare := 2
  svcIssued := 0
  lastIssue := none
  lastInst := none
  current := none
  tlb := []
  walk := none
  slots := Vector.replicate 16 ⟨none, none, 0⟩
  mq := []
  mrun := []
  eq := []
  erun := none
  bufNeed := 0
  frzUntil := 0
  frzLag := (false, false)

/-- A grove after device reset (R107: S = 0; RETRY 2; HANG 2^24; R450: partition 0, unprotected). -/
def Grove.reset : Grove where
  nextSeq := 0
  spad := []
  epochs := []
  spadTs := []
  fe := 0
  size := 0
  phase := 0
  drain := none
  tlb := []
  dict := []
  retry := 2
  hang := 16777216
  part := 0
  prot := false
  gangs := []
  issue := 0
  svcIss := 0
  parks := 0
  evict := 0
  mismatch := 0
  fails := 0
  leased := []

/-- A die after device reset. -/
def Die.reset : Die := ⟨0, [], []⟩

/-- A queue after device reset (R395). -/
def Queue.reset : Queue where
  desc := 0
  tail := 0
  head := 0
  ctail := 0
  chead := 0
  st := .disabled
  detail := 0
  hdr := none
  fetched := none
  started := []
  held := []
  token := none
  readFault := false
  lines := []

/-- A free generation. -/
def Gen.reset : Gen := ⟨.free, 0, 0, 0, false, false⟩
/-- A Canopy port after device reset. -/
def Port.reset : Port := ⟨.down, 0, 0, [], Vector.replicate 8 0, Vector.replicate 8 0, 0, 0⟩
/-- A memory channel in service. -/
def Chan.reset : Chan := ⟨false, false, 0, 0⟩
/-- No subjects. -/
def Args.reset : Args := ⟨0, 0, 0, 0, false⟩
/-- An empty request block. -/
def RF.reset : RF := ⟨0, 0, 0, 0, 0, 0, 0, 0, 0⟩

/-- Every counter at zero (R461). -/
def Counters.reset : Counters := ⟨0, 0, 0, 0, 0, 0, 0, 0, 0, 0, 0, 0, 0, 0, 0, 0⟩

/-- The machine right after device reset. -/
def State.reset : State where
  time := 0
  cores := []
  ctxs := []
  groves := []
  dies := []
  tasks := []
  insts := []
  mem := []
  hostMem := []
  remoteMem := []
  lines := []
  writeTs := []
  floor := 0
  outTs := 0
  roots := []
  regions := []
  upcalls := []
  chip := 0
  objs := []
  units := []
  badUnits := []
  watches := []
  gens := []
  poolFrames := 0
  poolGone := []
  copies := []
  targets := []
  bootFail := 0
  ifsel := 0
  booted := false
  queues := []
  fetchers := []
  nextInst := 0
  lastRank := (0, 0)
  exports := []
  redWins := []
  ports := []
  remap := []
  spares := 4096
  retiring := []
  poison := []
  mending := []
  ecc := []
  worn := []
  chans := []
  security := 0
  keySlots := [(0, true)]
  meas := Vector.replicate 8 0
  svn := 0
  digests := []
  accepted := []
  linkUse := []
  linkKeys := []
  memKeys := []
  sapwood := none
  telemPa := 0
  telemEvery := 0
  telemSeq := 0
  telemLast := 0
  plim := 2800
  fmax := 700
  mhz := 700
  gated := false
  throttled := 0
  powerAt := none
  warmAt := 0
  counters := Counters.reset
  reqs := []
  core := 0
  ctx := 0
  slot := .s
  inHeader := false
  squash := false
  checked := false
  here := 0
  nextOrd := 0
  fresh := 0
  ev := Args.reset
  req := RF.reset
  queue := 0
  agenda := []

end Sys2Proof.Machine
end

