-- ==== Sys2Proof/Machine/Store.lean ====
section
/-! DEFINITION. Sparse collections and the canonical form of memory: the one place where a byte is read or
written. -/

namespace Sys2Proof.Machine
open Sys2Proof

/-- The entry of number `k`. -/
def Map.get? {α : Type} (m : Map α) (k : Nat) : Option α :=
  match m with
  | [] => none
  | (a, x) :: t => if a = k then some x else Map.get? t k

/-- The entry of number `k`, or `d` if it has none. -/
def Map.at_ {α : Type} (m : Map α) (k : Nat) (d : α) : α := (Map.get? m k).getD d

/-- Entry `k` becomes `x`; numbers stay strictly rising. -/
def Map.set {α : Type} (m : Map α) (k : Nat) (x : α) : Map α :=
  match m with
  | [] => [(k, x)]
  | (a, y) :: t => if k < a then (k, x) :: (a, y) :: t else if k = a then (k, x) :: t else (a, y) :: Map.set t k x

/-- Entry `k` goes. -/
def Map.del {α : Type} (m : Map α) (k : Nat) : Map α :=
  match m with
  | [] => []
  | (a, y) :: t => if a = k then Map.del t k else (a, y) :: Map.del t k

/-- Whether the numbers rise strictly. -/
def Map.sorted {α : Type} (m : Map α) : Bool :=
  match m with
  | [] => true
  | (a, _) :: t => t.all (fun p => a < p.1) && Map.sorted t

/-- What device memory holds where nothing is listed: zero (R444, step 5). -/
def Memory.unlisted : Byte := 0

/-- The canonical form of device memory: addresses strictly rising and no entry equal to what an unlisted address
reads as. -/
def Memory.wf (m : Memory) : Bool := Map.sorted m && m.all fun c => c.2 ≠ Memory.unlisted

/-- The byte of device memory at `a`. -/
def Memory.read (m : Memory) (a : Nat) : Byte := (Map.get? m a).getD Memory.unlisted

/-- Device memory with byte `b` at `a`, in canonical form. -/
def Memory.write (m : Memory) (a : Nat) (b : Byte) : Memory :=
  if b = Memory.unlisted then Map.del m a else Map.set m a b

/-- The bytes from `a` upward. -/
def Memory.readN (m : Memory) (a : Nat) : Nat → List Byte
  | 0 => []
  | n + 1 => m.read a :: Memory.readN m (a + 1) n

/-- Device memory with the bytes `bs` from `a` upward. -/
def Memory.writeN (m : Memory) (a : Nat) : List Byte → Memory
  | [] => m
  | b :: bs => Memory.writeN (m.write a b) (a + 1) bs

/-- A byte of storage whose undefined bytes are free: `space` names it, `d` is the byte when unlisted. Every
written byte stays listed (DESIGN CHOICE, assumption log 5). -/
def Memory.readFree (m : Memory) (a : Nat) (d : Byte) : Byte := (Map.get? m a).getD d

/-- The bytes below `lo` and from `hi` upward. -/
def Memory.drop (m : Memory) (lo hi : Nat) : Memory := m.filter fun c => c.1 < lo || hi ≤ c.1

end Sys2Proof.Machine
end

