-- ==== Sys2Proof/Machine/Access.lean ====
section
/-! DEFINITION. The numbered parts of the machine: reading and updating a core, a context, a grove, a die, a task,
and the context that acts. -/

namespace Sys2Proof.Machine
open Sys2Proof

/-- What every meaning answers with. -/
abbrev Out := Host.Outcome State Fault Refusal

/-- The number of context `x` of core `c` in `State.ctxs`. Numbers 0 to 8 are the core's contexts; what an attempt that has
ended leaves behind stands under a number from 16. -/
def ctxKey (c x : Nat) : Nat := c * 4096 + x
/-- The core of a number of `State.ctxs`. -/
def keyCore (k : Nat) : Nat := k / 4096
/-- The context of a number of `State.ctxs`. -/
def keyCtx (k : Nat) : Nat := k % 4096
/-- The number of entry `e` of grove `g`'s dependency table in `State.tasks`. -/
def taskKey (g e : Nat) : Nat := g * 512 + e
/-- The grove of a core (R12). -/
def groveOf (c : Nat) : Nat := c / 8
/-- The die of a grove (R12). -/
def dieOf (g : Nat) : Nat := g / 24

/-- Core `c`. -/
def State.coreAt (s : State) (c : Nat) : Core := Map.at_ s.cores c Core.reset
/-- Context `x` of core `c`. -/
def State.ctxAt (s : State) (c x : Nat) : Ctx := Map.at_ s.ctxs (ctxKey c x) (Ctx.reset c x)
/-- Grove `g`. -/
def State.groveAt (s : State) (g : Nat) : Grove := Map.at_ s.groves g Grove.reset
/-- Die `d`. -/
def State.dieAt (s : State) (d : Nat) : Die := Map.at_ s.dies d Die.reset
/-- Queue `q`. -/
def State.queueAt (s : State) (q : Nat) : Queue := Map.at_ s.queues q Queue.reset
/-- Generation `n`. -/
def State.genAt (s : State) (n : Nat) : Gen := Map.at_ s.gens n Gen.reset
/-- Port `n`. -/
def State.portAt (s : State) (n : Nat) : Port := Map.at_ s.ports n Port.reset

/-- Core `c` becomes `k`. -/
def State.setCore (s : State) (c : Nat) (k : Core) : State := { s with cores := Map.set s.cores c k }
/-- Context `x` of core `c` becomes `k`. -/
def State.setCtx (s : State) (c x : Nat) (k : Ctx) : State := { s with ctxs := Map.set s.ctxs (ctxKey c x) k }
/-- Grove `g` becomes `k`. -/
def State.setGrove (s : State) (g : Nat) (k : Grove) : State := { s with groves := Map.set s.groves g k }
/-- Die `d` becomes `k`. -/
def State.setDie (s : State) (d : Nat) (k : Die) : State := { s with dies := Map.set s.dies d k }
/-- Queue `q` becomes `k`. -/
def State.setQueue (s : State) (q : Nat) (k : Queue) : State := { s with queues := Map.set s.queues q k }
/-- Generation `n` becomes `k`. -/
def State.setGen (s : State) (n : Nat) (k : Gen) : State := { s with gens := Map.set s.gens n k }
/-- Task `k` becomes `t`. -/
def State.setTask (s : State) (k : Nat) (t : Task) : State := { s with tasks := Map.set s.tasks k t }
/-- Instance `n` becomes `i`. -/
def State.setInst (s : State) (n : Nat) (i : Inst) : State := { s with insts := Map.set s.insts n i }
/-- Object `n` becomes `o`. -/
def State.setObj (s : State) (n : Nat) (o : Obj) : State := { s with objs := Map.set s.objs n o }

/-- Task `k`, if its entry is taken. -/
def State.task? (s : State) (k : Nat) : Option Task := Map.get? s.tasks k
/-- Instance `n`, if the front end still keeps it: until its launch's record is written (R16). -/
def State.inst? (s : State) (n : Nat) : Option Inst := Map.get? s.insts n
/-- Whether instance `n` is live: it has records to create, a task in a table that has not failed, or a watch entry (R16). -/
def Inst.live (i : Inst) (s : State) (n : Nat) : Bool :=
  !(i.recs.isEmpty || i.ended) || s.tasks.any (fun e => e.2.inst = n && e.2.st ≠ .failed) || s.watches.any fun e => e.2.inst = n
/-- Instance `n`, if it is live. -/
def State.live? (s : State) (n : Nat) : Option Inst := (s.inst? n).filter fun i => i.live s n
/-- Object `n`, if it exists. -/
def State.obj? (s : State) (n : Nat) : Option Obj := Map.get? s.objs n

/-- The context that acts. -/
def State.me (s : State) : Ctx := s.ctxAt s.core s.ctx
/-- The context that acts becomes `k`. -/
def State.setMe (s : State) (k : Ctx) : State := s.setCtx s.core s.ctx k
/-- The core that acts. -/
def State.myCore (s : State) : Core := s.coreAt s.core
/-- The core that acts becomes `k`. -/
def State.setMyCore (s : State) (k : Core) : State := s.setCore s.core k
/-- The number of the grove that acts. -/
def State.g (s : State) : Nat := groveOf s.core
/-- The grove that acts. -/
def State.myGrove (s : State) : Grove := s.groveAt s.g
/-- The number of the die that acts. -/
def State.die (s : State) : Nat := dieOf s.g
/-- The task that acts, if the context runs one; for what is left of an attempt that has ended, that attempt's. -/
def State.myTask (s : State) : Option Task :=
  match s.me.ghost with
  | some g => some g.1
  | none => s.me.task.bind s.task?
/-- The instance that acts, if any. -/
def State.myInst (s : State) : Option Inst := s.me.inst.bind s.inst?
/-- The task type of a task. -/
def State.typeOf (s : State) (t : Task) : Option TaskType := (s.inst? t.inst).bind fun i => i.img.types[t.rcd.typ.toNat]?
/-- The task type of the task that acts. -/
def State.myType (s : State) : Option TaskType := s.myTask.bind s.typeOf
/-- Whether the task that acts is staged (R36). -/
def State.staged (s : State) : Bool :=
  match s.me.ghost with
  | some g => g.2
  | none => (s.myType.map (·.staged)).getD false
/-- Whether the context that acts is the service context (R34). -/
def State.service (s : State) : Bool := s.ctx = 8

/-- The address space of an instance: the ASID of its queue's descriptor (R394). -/
def asidOf (desc : BitVec 512) : Nat := (bits desc 76 16).toNat
/-- The address space of the context that acts; the service context has that of queue 0 (DESIGN CHOICE, assumption log 4). -/
def State.asid (s : State) : Nat :=
  match s.myInst with
  | some i => asidOf i.desc
  | none => asidOf (s.queueAt 0).desc

/-- A free number of this step (DESIGN CHOICE, assumption log 2); `k` tells apart the numbers drawn in one step. -/
def State.free (s : State) (k : Nat) : Nat := Config.freeNat s.fresh k
/-- The free numbers drawn so far are used up. -/
def State.draw (s : State) : State := { s with fresh := s.fresh + 1 }

/-- The subjects of an event: core and context. -/
def State.atEv (s : State) : State := { s with core := s.ev.a, ctx := s.ev.b }

/-- The telemetry counters changed (R461). -/
def State.count (s : State) (f : Counters → Counters) : State := { s with counters := f s.counters }

/-- Whether two byte ranges share a byte. -/
def overlap (a n b m : Nat) : Bool := a < b + m && b < a + n && 0 < n && 0 < m

end Sys2Proof.Machine
end

