-- ==== Sys2Proof/Machine/Fp.lean ====
section
/-! DEFINITION. Number formats and arithmetic (03, R71-R95): a value is unpacked exactly, computed exactly, and
rounded once. Bit patterns are natural numbers below 2^width. -/

namespace Sys2Proof.Machine
open Sys2Proof

/-! ## Formats and exact values -/

/-- A floating-point format: exponent and fraction bits (R72). -/
structure Fmt where
  ew : Nat
  fw : Nat
  deriving DecidableEq, Repr

/-- binary64. -/
def Fmt.f64 : Fmt := ⟨11, 52⟩
/-- binary32. -/
def Fmt.f32 : Fmt := ⟨8, 23⟩
/-- binary16. -/
def Fmt.f16 : Fmt := ⟨5, 10⟩
/-- bf16. -/
def Fmt.bf16 : Fmt := ⟨8, 7⟩

/-- Width of a format in bits. -/
def Fmt.width (F : Fmt) : Nat := 1 + F.ew + F.fw
/-- Bias (R72). -/
def Fmt.bias (F : Fmt) : Nat := 2 ^ (F.ew - 1) - 1
/-- The all-ones exponent field. -/
def Fmt.top (F : Fmt) : Nat := 2 ^ F.ew - 1
/-- The canonical quiet NaN (R72, R80). -/
def Fmt.nan (F : Fmt) : Nat := F.top * 2 ^ F.fw + 2 ^ (F.fw - 1)
/-- The sign bit of a negative value. -/
def Fmt.sign (F : Fmt) (neg : Bool) : Nat := if neg then 2 ^ (F.ew + F.fw) else 0
/-- An infinity. -/
def Fmt.inf (F : Fmt) (neg : Bool) : Nat := F.sign neg + F.top * 2 ^ F.fw
/-- The largest finite magnitude, signed. -/
def Fmt.maxFin (F : Fmt) (neg : Bool) : Nat := F.sign neg + F.top * 2 ^ F.fw - 1
/-- The exponent of the smallest normal. -/
def Fmt.emin (F : Fmt) : Int := 1 - (F.bias : Int)

/-- The format of a scalar float instruction (R186). -/
def sfmt : SFmt → Fmt
  | .f64 => Fmt.f64 | .f32 => Fmt.f32 | .f16 => Fmt.f16 | .bf16 => Fmt.bf16
/-- The format of a float lane type; integer types have none and read as f32 where no rule asks. -/
def vfmt : VTy → Fmt
  | .f64 => Fmt.f64 | .f16 => Fmt.f16 | .bf16 => Fmt.bf16 | _ => Fmt.f32
/-- The format of a float type of FCVT. -/
def cfmt : CvtTy → Fmt
  | .f64 => Fmt.f64 | .f16 => Fmt.f16 | .bf16 => Fmt.bf16 | _ => Fmt.f32

/-- A real value with its special cases: `fin neg m e` is (−1)^neg × m × 2^e, signed zeros included (R73). -/
inductive FVal
  | nan
  | inf (neg : Bool)
  | fin (neg : Bool) (m : Nat) (e : Int)
  deriving DecidableEq, Repr

/-- The value an encoding stands for (R73). -/
def unpack (F : Fmt) (x : Nat) : FVal :=
  let neg := decide (nbits x (F.ew + F.fw) 1 = 1)
  let e := nbits x F.fw F.ew
  let f := nbits x 0 F.fw
  if e = F.top then (if f = 0 then .inf neg else .nan)
  else if e = 0 then .fin neg f (F.emin - F.fw)
  else .fin neg (2 ^ F.fw + f) ((e : Int) - F.bias - F.fw)

/-- Flags of R84: NV 16, DZ 8, OF 4, UF 2, NX 1 (R60). -/
abbrev FFlags := BitVec 5
/-- NV. -/
def flNV : FFlags := 16
/-- DZ. -/
def flDZ : FFlags := 8
/-- OF. -/
def flOF : FFlags := 4
/-- UF. -/
def flUF : FFlags := 2
/-- NX. -/
def flNX : FFlags := 1

/-! ## Rounding (R77-R79) -/

/-- Whether the magnitude n + rem ÷ 2^sh, with a further fraction below one unit of `rem` when `sticky`, rounds
up under a mode (R77). -/
def roundsUp (md : RMode) (neg : Bool) (n rem sh : Nat) (sticky : Bool) : Bool :=
  let half := if sh = 0 then 0 else 2 ^ (sh - 1)
  let inexact := decide (rem ≠ 0) || sticky
  match md with
  | .rne => sh ≠ 0 && (decide (rem > half) || (decide (rem = half) && (sticky || n % 2 = 1)))
  | .rtz => false
  | .rdn => neg && inexact
  | .rup => !neg && inexact
  | .rna => sh ≠ 0 && decide (rem ≥ half)

/-- m × 2^e rounded to a multiple of 2^q: the multiple and whether it is inexact. -/
def roundAt (md : RMode) (neg : Bool) (m : Nat) (e q : Int) (sticky : Bool) : Nat × Bool :=
  if q ≤ e then (m <<< (e - q).toNat, sticky)
  else
    let sh := (q - e).toNat
    let n := m >>> sh
    let rem := m % 2 ^ sh
    ((if roundsUp md neg n rem sh sticky then n + 1 else n), decide (rem ≠ 0) || sticky)

/-- The pattern of an overflow under a mode (R78). -/
def overflowBits (F : Fmt) (md : RMode) (neg : Bool) : Nat :=
  match md with
  | .rne | .rna => F.inf neg
  | .rtz => F.maxFin neg
  | .rdn => if neg then F.inf true else F.maxFin false
  | .rup => if neg then F.maxFin true else F.inf false

/-- The exact value (−1)^neg × m × 2^e, plus a fraction of one unit of m when `sticky`, rounded to a format: its
bits and flags (R78, R79, R84). A sticky value needs an m of more than F.fw + 2 bits, or a magnitude below the
format's range. -/
def roundFin (F : Fmt) (md : RMode) (neg : Bool) (m : Nat) (e : Int) (sticky : Bool) : Nat × FFlags :=
  if m = 0 ∧ !sticky then (F.sign neg, 0)
  else
    let top : Int := e + (Nat.log2 m : Int)
    let q := top - F.fw
    let (n, inx) := roundAt md neg m e q sticky
    let top' : Int := q + (Nat.log2 n : Int)
    if top' > F.bias then (overflowBits F md neg, flOF ||| flNX)
    else if top' < F.emin then
      let (n2, inx2) := roundAt md neg m e (F.emin - F.fw) sticky
      (F.sign neg + n2, if inx2 then flUF ||| flNX else 0)
    else
      let frac := if Nat.log2 n > F.fw then 0 else n - 2 ^ F.fw
      (F.sign neg + (top' + F.bias).toNat * 2 ^ F.fw + frac, if inx then flNX else 0)

/-- A value rounded to a format (R78, R80). -/
def roundV (F : Fmt) (md : RMode) : FVal → Nat × FFlags
  | .nan => (F.nan, 0)
  | .inf neg => (F.inf neg, 0)
  | .fin neg m e => roundFin F md neg m e false

/-- A finite value rounded to an integer, and whether it is inexact (R71). -/
def roundInt (md : RMode) (neg : Bool) (m : Nat) (e : Int) (sticky : Bool) : Int × Bool :=
  let (n, inx) := roundAt md neg m e 0 sticky
  (if neg then -(n : Int) else n, inx)

/-! ## Exact arithmetic -/

/-- A result and its flags before rounding. -/
abbrev FRes := FVal × FFlags

/-- The signed integer of a finite value at exponent q ≤ e. -/
def scaled (neg : Bool) (m : Nat) (e q : Int) : Int :=
  let n : Int := (m <<< (e - q).toNat : Nat)
  if neg then -n else n

/-- A signed integer times 2^q; a zero takes the sign given. -/
def ofScaled (n : Int) (q : Int) (zneg : Bool) : FVal :=
  if n = 0 then .fin zneg 0 q else .fin (decide (n < 0)) n.natAbs q

/-- −x, with NaN kept. -/
def negV : FVal → FVal
  | .nan => .nan
  | .inf n => .inf (!n)
  | .fin n m e => .fin (!n) m e

/-- x + y exactly; an exact zero sum of opposite signs is +0, or −0 under rdn (R80, R84). -/
def addV (md : RMode) (x y : FVal) : FRes :=
  match x, y with
  | .nan, _ | _, .nan => (.nan, 0)
  | .inf a, .inf b => if a = b then (.inf a, 0) else (.nan, flNV)
  | .inf a, _ => (.inf a, 0)
  | _, .inf b => (.inf b, 0)
  | .fin a m e, .fin b n f =>
    let q := min e f
    (ofScaled (scaled a m e q + scaled b n f q) q (if a = b then a else decide (md = .rdn)), 0)

/-- x × y exactly (R84). -/
def mulV (x y : FVal) : FRes :=
  match x, y with
  | .nan, _ | _, .nan => (.nan, 0)
  | .inf a, .inf b => (.inf (a != b), 0)
  | .inf a, .fin b n _ => if n = 0 then (.nan, flNV) else (.inf (a != b), 0)
  | .fin a m _, .inf b => if m = 0 then (.nan, flNV) else (.inf (a != b), 0)
  | .fin a m e, .fin b n f => (.fin (a != b) (m * n) (e + f), 0)

/-- x × y + z exactly, 0 × ∞ being invalid even when z is NaN (R84, R94). -/
def fmaV (md : RMode) (x y z : FVal) : FRes :=
  let (p, f1) := mulV x y
  let (r, f2) := addV md p z
  (r, f1 ||| f2)

/-- A computed value rounded, its flags joined. -/
def finish (F : Fmt) (md : RMode) (r : FRes) : Nat × FFlags :=
  let (b, f) := roundV F md r.1
  (b, f ||| r.2)

/-- x ÷ y rounded once (R84, R187). -/
def divR (F : Fmt) (md : RMode) (x y : FVal) : Nat × FFlags :=
  match x, y with
  | .nan, _ | _, .nan => (F.nan, 0)
  | .inf _, .inf _ => (F.nan, flNV)
  | .inf a, .fin b _ _ => (F.inf (a != b), 0)
  | .fin a _ _, .inf b => (F.sign (a != b), 0)
  | .fin a m e, .fin b n f =>
    if n = 0 then (if m = 0 then (F.nan, flNV) else (F.inf (a != b), flDZ))
    else
      let k := F.fw + 5 + Nat.log2 n
      let t := m <<< k
      roundFin F md (a != b) (t / n) (e - f - k) (decide (t % n ≠ 0))

/-- The integer square root, bit by bit from bit i - 1 down. -/
def isqrtGo (n : Nat) : Nat → Nat → Nat
  | 0, r => r
  | i + 1, r => isqrtGo n i (if (r + 2 ^ i) * (r + 2 ^ i) ≤ n then r + 2 ^ i else r)
/-- ⌊√n⌋. -/
def isqrt (n : Nat) : Nat := isqrtGo n (Nat.log2 n / 2 + 1) 0

/-- √x rounded once; √(−0) is −0, and a value below −0 is invalid (R187, R203). -/
def sqrtR (F : Fmt) (md : RMode) : FVal → Nat × FFlags
  | .nan => (F.nan, 0)
  | .inf neg => if neg then (F.nan, flNV) else (F.inf false, 0)
  | .fin neg m e =>
    if m = 0 then (F.sign neg, 0)
    else if neg then (F.nan, flNV)
    else
      let k0 := 2 * F.fw + 8
      let k := if (e - k0) % 2 = 0 then k0 else k0 + 1
      let t := m <<< k
      let r := isqrt t
      roundFin F md false r ((e - k) / 2) (decide (r * r ≠ t))

/-- 1 ÷ √x rounded once (R203). -/
def rsqrtR (F : Fmt) (md : RMode) : FVal → Nat × FFlags
  | .nan => (F.nan, 0)
  | .inf neg => if neg then (F.nan, flNV) else (F.sign false, 0)
  | .fin neg m e =>
    if m = 0 then (F.inf neg, flDZ)
    else if neg then (F.nan, flNV)
    else
      -- value = 2^(−e/2) ÷ √m with e even
      let m2 := if e % 2 = 0 then m else 2 * m
      let e2 := if e % 2 = 0 then e else e - 1
      let k := F.fw + 8 + Nat.log2 m2
      let r := isqrt (2 ^ (2 * k) / m2)
      roundFin F md false r (-(e2 / 2) - k) (decide (r * r * m2 ≠ 2 ^ (2 * k)))

/-! ## Comparison and selection (R81) -/

/-- The order of two ordered values, −0 equal to +0; `none` when unordered. -/
def cmpV (x y : FVal) : Option Ordering :=
  match x, y with
  | .nan, _ | _, .nan => none
  | .inf a, .inf b => some (if a = b then .eq else if a then .lt else .gt)
  | .inf a, _ => some (if a then .lt else .gt)
  | _, .inf b => some (if b then .gt else .lt)
  | .fin a m e, .fin b n f =>
    let q := min e f
    some (compare (scaled a m e q) (scaled b n f q))

/-- Whether a value is a negative zero. -/
def isNegZero : FVal → Bool
  | .fin true 0 _ => true
  | _ => false

/-- x < y with −0 below +0; false when unordered. -/
def ltZ (x y : FVal) : Bool :=
  match cmpV x y with
  | some .lt => true
  | some .eq => isNegZero x && !isNegZero y
  | _ => false

/-- A comparison condition (R188). -/
def fcond (c : FCond) (x y : FVal) : Bool :=
  match cmpV x y with
  | none => c = .ne || c = .un
  | some o =>
    match c with
    | .eq => o = .eq
    | .ne => o ≠ .eq
    | .lt => o = .lt
    | .le => o ≠ .gt
    | .gt => o = .gt
    | .ge => o ≠ .lt
    | .un => false
    | .ord => true

/-- Minimum of two encodings (R81). -/
def fminBits (F : Fmt) (a b : Nat) : Nat :=
  match unpack F a, unpack F b with
  | .nan, .nan => F.nan
  | .nan, _ => b
  | _, .nan => a
  | x, y => if ltZ y x then b else a
/-- Maximum of two encodings (R81). -/
def fmaxBits (F : Fmt) (a b : Nat) : Nat :=
  match unpack F a, unpack F b with
  | .nan, .nan => F.nan
  | .nan, _ => b
  | _, .nan => a
  | x, y => if ltZ x y then b else a

/-! ## Operations on encodings -/

/-- a + b. -/
def faddBits (F : Fmt) (a b : Nat) : Nat × FFlags := finish F .rne (addV .rne (unpack F a) (unpack F b))
/-- a − b. -/
def fsubBits (F : Fmt) (a b : Nat) : Nat × FFlags := finish F .rne (addV .rne (unpack F a) (negV (unpack F b)))
/-- a × b. -/
def fmulBits (F : Fmt) (a b : Nat) : Nat × FFlags := finish F .rne (mulV (unpack F a) (unpack F b))
/-- ±(a × b) ± c, fused; `np` and `nc` negate the product and the addend (R94). -/
def ffmaBits (F : Fmt) (np nc : Bool) (a b c : Nat) : Nat × FFlags :=
  let x := unpack F a
  let z := unpack F c
  finish F .rne (fmaV .rne (if np then negV x else x) (unpack F b) (if nc then negV z else z))
/-- a ÷ b. -/
def fdivBits (F : Fmt) (a b : Nat) : Nat × FFlags := divR F .rne (unpack F a) (unpack F b)
/-- √a. -/
def fsqrtBits (F : Fmt) (a : Nat) : Nat × FFlags := sqrtR F .rne (unpack F a)
/-- |a|: NaN gives the canonical NaN (R202). -/
def fabsBits (F : Fmt) (a : Nat) : Nat :=
  match unpack F a with
  | .nan => F.nan
  | _ => a % 2 ^ (F.ew + F.fw)
/-- −a: NaN gives the canonical NaN (R202). -/
def fnegBits (F : Fmt) (a : Nat) : Nat :=
  match unpack F a with
  | .nan => F.nan
  | _ => a ^^^ 2 ^ (F.ew + F.fw)

/-! ## Conversions (R82) -/

/-- Float to float; NaN becomes canonical. -/
def cvtFF (S D : Fmt) (md : RMode) (x : Nat) : Nat × FFlags := roundV D md (unpack S x)

/-- The range [lo, hi] of an integer type of `w` bits. -/
def intLo (signed : Bool) (w : Nat) : Int := if signed then -(2 ^ (w - 1) : Nat) else 0
/-- The greatest value of an integer type of `w` bits. -/
def intHi (signed : Bool) (w : Nat) : Int := if signed then (2 ^ (w - 1) : Nat) - 1 else (2 ^ w : Nat) - 1

/-- An integer clamped to a range, and whether it was outside. -/
def clampInt (lo hi x : Int) : Int × Bool :=
  if x < lo then (lo, true) else if hi < x then (hi, true) else (x, false)

/-- Float to integer: saturating; NaN gives 0; NV for either, else NX when inexact. The result is a w-bit pattern. -/
def cvtFI (S : Fmt) (signed : Bool) (w : Nat) (md : RMode) (x : Nat) : Nat × FFlags :=
  match unpack S x with
  | .nan => (0, flNV)
  | .inf neg => (wrapNat w (if neg then intLo signed w else intHi signed w), flNV)
  | .fin neg m e =>
    let (n, inx) := roundInt md neg m e false
    let (r, sat) := clampInt (intLo signed w) (intHi signed w) n
    (wrapNat w r, if sat then flNV else if inx then flNX else 0)

/-- The exact value of an integer. -/
def ofInt (x : Int) : FVal := .fin (decide (x < 0)) x.natAbs 0

/-- Integer to float. -/
def cvtIF (D : Fmt) (md : RMode) (x : Int) : Nat × FFlags := roundV D md (ofInt x)

/-! ## Quantisation (R74, R86-R89) -/

/-- The value of an E2M1 code (R74). -/
def e2m1 (c : Nat) : FVal :=
  let neg := decide (c / 8 % 2 = 1)
  match c % 8 with
  | 0 => .fin neg 0 0 | 1 => .fin neg 1 (-1) | 2 => .fin neg 1 0 | 3 => .fin neg 3 (-1) | 4 => .fin neg 2 0
  | 5 => .fin neg 3 0 | 6 => .fin neg 4 0 | _ => .fin neg 6 0

/-- quant_iN of R86: x and S in format F, Z a signed integer; the result is an N-bit pattern. A finite non-zero x over ±0 sets
DZ beside NV (R84). NV is that of the sum t + Z alone: whether a finite t outside iN's range, which the sum brings back into it,
sets NV, R86 does not say (DESIGN CHOICE, assumption log 79). -/
def quant (F : Fmt) (N : Nat) (x sc : Nat) (z : Int) : Nat × FFlags :=
  let lo := intLo true N
  let hi := intHi true N
  let fin (t : Int) (fl : FFlags) (forced : Bool) : Nat × FFlags :=
    let (r, sat) := clampInt lo hi (t + z)
    (wrapNat N r, if sat || forced then flNV else fl)
  match unpack F x, unpack F sc with
  | .nan, _ | _, .nan => fin 0 0 true
  | .inf _, .inf _ => fin 0 0 true
  | .inf a, .fin b _ _ => (wrapNat N (if a != b then lo else hi), flNV)
  | .fin _ _ _, .inf _ => fin 0 0 false
  | .fin a m e, .fin b n f =>
    if n = 0 then (if m = 0 then fin 0 0 true else (wrapNat N (if a != b then lo else hi), flNV ||| flDZ))
    else if m = 0 then fin 0 0 false
    else
      -- the quotient to a quarter of an integer and a sticky fraction, huge quotients bounded
      let q := e - f
      let big := decide (q + (Nat.log2 m : Int) - (Nat.log2 n : Int) > 40)
      if big then (wrapNat N (if a != b then lo else hi), flNV)
      else
        let t := if 0 ≤ q + 2 then m <<< (q + 2).toNat else m
        let d := if 0 ≤ q + 2 then n else n <<< (-(q + 2)).toNat
        let (r, inx) := roundInt .rne (a != b) (t / d) (-2) (decide (t % d ≠ 0))
        fin r (if inx then flNX else 0) false

/-- The value of an integer where zero counts as +0, as R87 and R89 say of the matrix unit; R86 is silent on VDQNT's q - Z of zero,
which is taken so too (DESIGN CHOICE, assumption log 83). -/
def intVal (x : Int) : FVal := ofInt x

/-- dequant of R86, and the weight of R87: f(S) × v rounded to D, S in format F. -/
def dequant (F D : Fmt) (sc : Nat) (v : FVal) : Nat × FFlags := finish D .rne (mulV (unpack F sc) v)

/-! ## Sums (R90-R93) -/

/-- The exact sum of a block of products (R90): NaN products give NaN, infinities of both signs give NaN and set
NV. -/
def blockSum (ps : List FRes) : FRes :=
  let fl := ps.foldl (fun f p => f ||| p.2) 0
  if ps.any (fun p => p.1 = .nan) then (.nan, fl)
  else
    let pos := ps.any fun p => p.1 = .inf false
    let neg := ps.any fun p => p.1 = .inf true
    if pos && neg then (.nan, fl ||| flNV)
    else if pos then (.inf false, fl)
    else if neg then (.inf true, fl)
    else
      match ps with
      | [] => (.fin false 0 0, fl)
      | p :: t => (t.foldl (fun a x => (addV .rne a x.1).1) p.1, fl)

/-- c + round(block sum), rounded again (R90). -/
def blockStep (F : Fmt) (c : Nat) (s : FRes) : Nat × FFlags :=
  let (b, f1) := finish F .rne s
  let (r, f2) := faddBits F c b
  (r, f1 ||| f2)

/-- One level of the pairwise tree (R91). -/
def treeLevel (F : Fmt) : List Nat → List Nat × FFlags
  | a :: b :: t =>
    let (r, f) := faddBits F a b
    let (rs, fs) := treeLevel F t
    (r :: rs, f ||| fs)
  | l => (l, 0)

/-- The pairwise tree, `k` levels (R91). -/
def treeSum (F : Fmt) : Nat → List Nat → Nat × FFlags
  | 0, l => (l.headD 0, 0)
  | k + 1, l =>
    let (l', f) := treeLevel F l
    let (r, g) := treeSum F k l'
    (r, f ||| g)

/-! ## Special functions (R203) by enclosure (DEDUCED, assumption log 13) -/

/-- Fraction bits of the fixed-point numbers of this section. -/
def fxP : Nat := 512
/-- One. -/
def fxOne : Nat := 2 ^ fxP
/-- A bound, in units, on the error of every series below. -/
def fxErr : Nat := 2 ^ 24

/-- Σ z^(2k+1) ÷ (2k+1) from term k on, z² and the power given in fixed point: atanh z. -/
def atanhGo (z2 : Nat) : Nat → Nat → Nat → Nat
  | 0, _, _ => 0
  | n + 1, k, pw => pw / (2 * k + 1) + atanhGo z2 n (k + 1) (pw * z2 / fxOne)
/-- atanh of a ÷ b in fixed point, for a ÷ b at most 1/3. -/
def fxAtanh (a b : Nat) : Nat :=
  let z := a * fxOne / b
  atanhGo (z * z / fxOne) 200 0 z
/-- ln 2. -/
def fxLn2 : Nat := 2 * fxAtanh 1 3

/-- Σ r^k ÷ k! in fixed point from term k on. -/
def expGo (r : Nat) : Nat → Nat → Nat → Nat
  | 0, _, _ => 0
  | n + 1, k, t => t + expGo r n (k + 1) (t * r / fxOne / (k + 1))
/-- e^r in fixed point, for r below 1. -/
def fxExp (r : Nat) : Nat := expGo r 150 0 fxOne

/-- A positive value strictly between lo and hi, in units of 2^e, rounded under rne: the result both bounds give,
with NX at least, or `none` where they differ. -/
def roundBetween (F : Fmt) (neg : Bool) (lo hi : Nat) (e : Int) : Option (Nat × FFlags) :=
  let a := roundFin F .rne neg lo e true
  let b := roundFin F .rne neg (hi - 1) e true
  if a = b then some a else none

/-- A finite magnitude m × 2^e in fixed point, exact for e of at least −512. -/
def fxOf (m : Nat) (e : Int) : Nat :=
  if 0 ≤ e + fxP then m <<< (e + fxP).toNat else m >>> (-(e + fxP)).toNat

/-- An enclosure (lo, hi, e) of 2^x. -/
def encExp2 (neg : Bool) (m : Nat) (e : Int) : Nat × Nat × Int :=
  if e + (Nat.log2 m : Int) > 12 then (if neg then (1, 3, -6000) else (2 ^ 64, 2 ^ 64 + 2, 6000))
  else
    let x := fxOf m e
    -- 2^(−x) = 2^(−⌈x⌉) × 2^(⌈x⌉ − x)
    let n : Int := if neg then -((x + fxOne - 1) / fxOne : Nat) else (x / fxOne : Nat)
    let f := if neg then (fxOne - x % fxOne) % fxOne else x % fxOne
    let v := fxExp (f * fxLn2 / fxOne)
    (v - fxErr, v + fxErr, n - fxP)

/-- An enclosure of e^(−y) for y = m × 2^e, as a fixed-point magnitude. -/
def encExpNeg (m : Nat) (e : Int) : Nat × Nat :=
  if e + (Nat.log2 m : Int) > 9 then (0, 2 ^ (fxP - 700))
  else
    let y := fxOf m e
    let k := y / fxLn2
    let r := y - k * fxLn2
    -- e^(−r) = 1 ÷ e^r
    let v := (fxOne * fxOne / fxExp r) >>> k
    (v - fxErr, v + fxErr)

/-- An enclosure (neg, lo, hi, e) of log2 of m × 2^e, not a power of two. -/
def encLog2 (m : Nat) (e : Int) : Bool × Nat × Nat × Int :=
  let l := Nat.log2 m
  let n : Int := e + (l : Int)
  -- t = m ÷ 2^l in (1, 2); ln t = 2 atanh((t − 1) ÷ (t + 1))
  let v := 2 * fxAtanh (m - 2 ^ l) (m + 2 ^ l) * fxOne / fxLn2
  let w : Int := n * (fxOne : Nat) + (v : Nat)
  if 0 ≤ w then (false, w.toNat - fxErr, w.toNat + fxErr, -fxP)
  else (true, (-w).toNat - fxErr, (-w).toNat + fxErr, -fxP)

/-- An enclosure (lo, hi, e) of tanh of m × 2^e. -/
def encTanh (m : Nat) (e : Int) : Nat × Nat × Int :=
  if e + (Nat.log2 m : Int) < -24 then
    -- x − x³ ÷ 3 < tanh x < x
    let k := 400
    let hi := m <<< k
    let cube := m * m * m
    let s := (2 * e + k)
    let c := if 0 ≤ s then cube <<< s.toNat else cube >>> (-s).toNat
    (hi - (c / 3 + 2), hi, e - k)
  else
    let (ul, uh) := encExpNeg m (e + 1)
    ((fxOne - uh) * fxOne / (fxOne + uh) - 1, min ((fxOne - ul) * fxOne / (fxOne + ul) + 1) fxOne, -fxP)

/-- An enclosure (lo, hi, e) of 1 ÷ (1 + e^(−x)). -/
def encSigm (neg : Bool) (m : Nat) (e : Int) : Nat × Nat × Int :=
  if neg && decide (e + (Nat.log2 m : Int) > 7) then (1, 3, -6000)
  else
    let (ul, uh) := encExpNeg m e
    if neg then (ul * fxOne / (fxOne + uh) - 1, uh * fxOne / (fxOne + ul) + 2, -fxP)
    else (fxOne * fxOne / (fxOne + uh) - 1, min (fxOne * fxOne / (fxOne + ul) + 1) fxOne, -fxP)

/-- The special functions of R203 that the model encloses. -/
inductive Special | exp2 | log2 | tanh | sigm
  deriving DecidableEq, Repr
/-- The number of a special function in `Config.freeTranscendental`. -/
def Special.num : Special → Nat
  | .exp2 => 0 | .log2 => 1 | .tanh => 2 | .sigm => 3

/-- What an undecided enclosure gives: a free value, inexact (DEDUCED, assumption log 13). -/
def orFree (F : Fmt) (k : Special) (x : Nat) (r : Option (Nat × FFlags)) : Nat × FFlags :=
  r.getD (Config.freeTranscendental k.num F.width x % 2 ^ F.width, flNX)

/-- VEXP2 of a lane. -/
def exp2Bits (F : Fmt) (x : Nat) : Nat × FFlags :=
  match unpack F x with
  | .nan => (F.nan, 0)
  | .inf neg => if neg then (F.sign false, 0) else (F.inf false, 0)
  | .fin neg m e =>
    if m = 0 then roundFin F .rne false 1 0 false
    else
      let v := fxOf m e
      if e + (Nat.log2 m : Int) ≤ 12 ∧ v % fxOne = 0 then
        roundFin F .rne false 1 (if neg then -((v / fxOne : Nat) : Int) else (v / fxOne : Nat)) false
      else
        let (lo, hi, q) := encExp2 neg m e
        orFree F .exp2 x (roundBetween F false lo hi q)

/-- VLOG2 of a lane. -/
def log2Bits (F : Fmt) (x : Nat) : Nat × FFlags :=
  match unpack F x with
  | .nan => (F.nan, 0)
  | .inf neg => if neg then (F.nan, flNV) else (F.inf false, 0)
  | .fin neg m e =>
    if m = 0 then (F.inf true, flDZ)
    else if neg then (F.nan, flNV)
    else if m = 2 ^ Nat.log2 m then cvtIF F .rne (e + (Nat.log2 m : Int))
    else
      let (ng, lo, hi, q) := encLog2 m e
      orFree F .log2 x (roundBetween F ng lo hi q)

/-- VTANH of a lane. -/
def tanhBits (F : Fmt) (x : Nat) : Nat × FFlags :=
  match unpack F x with
  | .nan => (F.nan, 0)
  | .inf neg => roundFin F .rne neg 1 0 false
  | .fin neg m e =>
    if m = 0 then (F.sign neg, 0)
    else
      let (lo, hi, q) := encTanh m e
      orFree F .tanh x (roundBetween F neg lo hi q)

/-- VSIGM of a lane. -/
def sigmBits (F : Fmt) (x : Nat) : Nat × FFlags :=
  match unpack F x with
  | .nan => (F.nan, 0)
  | .inf neg => if neg then (F.sign false, 0) else roundFin F .rne false 1 0 false
  | .fin neg m e =>
    if m = 0 then roundFin F .rne false 1 (-1) false
    else
      let (lo, hi, q) := encSigm neg m e
      orFree F .sigm x (roundBetween F false lo hi q)

/-- VRCP of a lane: 1 ÷ a. -/
def rcpBits (F : Fmt) (x : Nat) : Nat × FFlags := divR F .rne (.fin false 1 0) (unpack F x)
/-- VRSQ of a lane: 1 ÷ √a. -/
def rsqBits (F : Fmt) (x : Nat) : Nat × FFlags := rsqrtR F .rne (unpack F x)

end Sys2Proof.Machine
end

