-- ==== Sys2Proof/Machine/Flags.lean ====
section
/-! DEFINITION. SYS.FPFLAGS (R60, R61, R84) and the integer conditions. -/

namespace Sys2Proof.Machine
open Sys2Proof

/-- The context with flags raised; nothing clears one here (R61). -/
def Ctx.raise (k : Ctx) (f : FFlags) : Ctx := { k with fpflags := k.fpflags ||| f }
/-- A write of SYS.FPFLAGS clears the bits written as 1 (R59, R312). -/
def Ctx.clearFlags (k : Ctx) (x : W64) : Ctx := { k with fpflags := k.fpflags &&& ~~~(x.setWidth 5) }
/-- The integer conditions of CMP (R180). -/
def icond (c : ICond) (n : Bool) (x y : W64) : Bool :=
  match c with
  | .eq => x = y
  | .ne => x ≠ y
  | .lt => if n then x.ult y else x.slt y
  | .ge => if n then !x.ult y else !x.slt y
/-- The integer conditions of VCMP on lanes read as integers (R206). -/
def vicond (c : FCond) (x y : Int) : Bool :=
  match c with
  | .eq => x = y
  | .ne => x ≠ y
  | .lt => x < y
  | .le => x ≤ y
  | .gt => y < x
  | .ge => y ≤ x
  | .un => false
  | .ord => true
/-- Flags joined. -/
def joinFlags (fs : List FFlags) : FFlags := fs.foldl (· ||| ·) 0

end Sys2Proof.Machine
end

