-- ==== Sys2Proof/Machine/Operands.lean ====
section
/-! DEFINITION. Every operand form: registers as a bundle reads them (R51, R55), second operands (R171), effective
addresses (R223, R227), register blocks, and the results a bundle puts in flight (R169). -/

namespace Sys2Proof.Machine
open Sys2Proof

/-! ## Reading (R51, R55) -/

/-- The number of a free choice made for one slot of a bundle, or for its header, on one core: no two readers share a choice (R55, R160). -/
def State.slotKey (s : State) (k : Nat) : Nat := k + 65536 * (16 * s.core + if s.inHeader then 8 else s.slot.num)

/-- One of a register's old content and the values in flight to it (R55); the content when nothing is in flight. -/
def pick {w : Nat} (s : State) (k : Nat) (old : BitVec w) (news : List (BitVec w)) : BitVec w :=
  match news with
  | [] => old
  | _ => (news[s.free (s.slotKey k) % (news.length + 1)]?).getD old

/-- A choice made for each 16-byte granule of a vector register (R55). -/
def pickGran {w : Nat} (s : State) (k : Nat) (old : BitVec w) (news : List (BitVec w)) : BitVec w :=
  match news with
  | [] => old
  | _ => (List.range (w / 128)).foldl (fun a j =>
      a ||| (BitVec.setWidth w (pick s (k + j) (bits old (128 * j) 128) (news.map fun x => bits x (128 * j) 128))
        <<< (128 * j))) 0

/-- Values in flight to a scalar register. -/
def flightS (k : Ctx) (r : SReg) : List W64 :=
  k.inflight.filterMap fun l => match l.wr with | .s r' x => if r' = r then some x else none | _ => none
/-- Values in flight to a predicate. -/
def flightP (k : Ctx) (r : PReg) : List (BitVec 1) :=
  k.inflight.filterMap fun l => match l.wr with | .p r' x => if r' = r then some (bit1 x) else none | _ => none
/-- Values in flight to a target register. -/
def flightB (k : Ctx) (r : BReg) : List W32 :=
  k.inflight.filterMap fun l => match l.wr with | .b r' x => if r' = r then some x else none | _ => none
/-- Values in flight to a loop counter. -/
def flightLc (k : Ctx) (r : LReg) : List W32 :=
  k.inflight.filterMap fun l => match l.wr with | .lc r' x => if r' = r then some x else none | _ => none
/-- Values in flight to a vector register. -/
def flightV (k : Ctx) (r : VReg) : List VecW :=
  k.inflight.filterMap fun l => match l.wr with | .v r' x => if r' = r then some x else none | _ => none
/-- Values in flight to a vector predicate. -/
def flightVp (k : Ctx) (r : VpReg) : List MaskW :=
  k.inflight.filterMap fun l => match l.wr with | .vp r' x => if r' = r then some x else none | _ => none
/-- Values in flight to a tile, each over the tile's content. -/
def flightAcc (k : Ctx) (r : AccReg) : List TileW :=
  k.inflight.filterMap fun l => match l.wr with
    | .acc r' x m => if r' = r then some ((k.acc[r.val] &&& ~~~m) ||| (x &&& m)) else none
    | _ => none

/-- s[r]: s0 reads zero (R51). -/
def State.rs (s : State) (r : SReg) : W64 :=
  if r = 0 then 0 else pick s (1000 + r.val) s.me.s[r.val] (flightS s.me r)
/-- p[r]: p0 reads true (R51). -/
def State.rp (s : State) (r : PReg) : Bool :=
  if r = 0 then true else decide (pick s (1100 + r.val) (bit1 s.me.p[r.val]) (flightP s.me r) = 1)
/-- b[r]. -/
def State.rb (s : State) (r : BReg) : W32 := pick s (1200 + r.val) s.me.b[r.val] (flightB s.me r)
/-- lc[r]. -/
def State.rlc (s : State) (r : LReg) : W32 := pick s (1300 + r.val) s.me.lc[r.val] (flightLc s.me r)
/-- v[r]. -/
def State.rv (s : State) (r : VReg) : VecW := pickGran s (2000 + 32 * r.val) s.me.v[r.val] (flightV s.me r)
/-- vp[r]: vp0 reads all-true (R51). -/
def State.rvp (s : State) (r : VpReg) : MaskW :=
  if r = 0 then BitVec.allOnes 512 else pick s (4000 + r.val) s.me.vp[r.val] (flightVp s.me r)
/-- acc[r]. -/
def State.racc (s : State) (r : AccReg) : TileW := pick s (5000 + r.val) s.me.acc[r.val] (flightAcc s.me r)
/-- mp[r]; an mp write lands before the context's next bundle (R257). -/
def State.rmp (s : State) (r : MpReg) : BitVec 128 := s.me.mp[r.val]

/-- The second operand of a scalar instruction (R171). -/
def State.src2 (s : State) : Src2 → W64
  | .reg b => s.rs b
  | .imm v => v.signExtend 64
/-- A register block s[a], s[a+1], … of `n` registers (R242, R285). -/
def State.blk (s : State) (a : SReg) (n : Nat) : List W64 := (List.range n).map fun i => s.rs (Fin.ofNat 64 (a.val + i))
/-- The effective address of a scalar memory form: s[A] + sext(DISP) (R223, R234). -/
def State.ea {w : Nat} (s : State) (a : SReg) (disp : BitVec w) : W64 := s.rs a + disp.signExtend 64
/-- The effective address of a vector memory form: s[X] + DISP × 16 (R227). -/
def State.vea (s : State) (m : VMem) : W64 := s.rs m.base + m.disp.signExtend 64 * 16

/-! ## Lanes (R197, R198) -/

/-- Lane `i` of width `w` bytes. -/
def lane (w : Nat) (x : VecW) (i : Nat) : Nat := (x.toNat >>> (8 * w * i)) % 2 ^ (8 * w)
/-- Whether lane `i` of width `w` bytes is active under a mask. -/
def laneOn (w : Nat) (k : MaskW) (i : Nat) : Bool := k.getLsbD (i * w)
/-- The register whose lanes, from lane 0 upward, are the numbers of the list. -/
def packNat (w : Nat) : List Nat → Nat
  | [] => 0
  | x :: t => x % 2 ^ (8 * w) + 2 ^ (8 * w) * packNat w t
/-- A vector register of the given lanes of `w` bytes. -/
def pack (w : Nat) (xs : List Nat) : VecW := BitVec.ofNat 4096 (packNat w xs)
/-- Every lane of a register. -/
def lanes (w : Nat) (x : VecW) : List Nat := (List.range (512 / w)).map (lane w x)
/-- The register formed lane by lane under a guard, with its flags: an inactive lane evaluates nothing (R198). -/
def guardMap (w : Nat) (k : MaskW) (z : Bool) (old : VecW) (f : Nat → Nat × FFlags) : VecW × FFlags :=
  let r := (List.range (512 / w)).map fun i => if laneOn w k i then f i else (if z then 0 else lane w old i, 0)
  (pack w (r.map (·.1)), joinFlags (r.map (·.2)))
/-- The byte mask of the active lanes: all bytes of a lane whose lowest guard bit is set (R227). -/
def byteMask (w : Nat) (k : MaskW) : MaskW :=
  BitVec.ofNat 512 ((List.range (512 / w)).foldl (fun a i => if laneOn w k i then a + (2 ^ w - 1) <<< (i * w) else a) 0)
/-- The bits of the bytes a byte mask names. -/
def bitMaskOf (k : MaskW) : VecW :=
  BitVec.ofNat 4096 ((List.range 512).foldl (fun a i => if k.getLsbD i then a + 255 <<< (8 * i) else a) 0)
/-- A vector predicate formed lane by lane: all `w` bits of a lane get one value (R197, R206). -/
def guardPred (w : Nat) (k : MaskW) (z : Bool) (old : MaskW) (f : Nat → Bool) : MaskW :=
  BitVec.ofNat 512 ((List.range (512 / w)).foldl (fun a i =>
    let v := if laneOn w k i then (if f i then 2 ^ w - 1 else 0)
      else if z then 0 else (old.toNat >>> (i * w)) % 2 ^ w
    a + v <<< (i * w)) 0)
/-- A lane read as an integer, unsigned when `n`. -/
def laneInt (w : Nat) (n : Bool) (x : Nat) : Int := if n then (x : Int) else sintOf (8 * w) x

/-! ## Results in flight (R169, R56) -/

/-- The non-frozen cycle a result of latency bound L lands on: 1 to L cycles after issue, free (R169). -/
def State.landAt (s : State) (k L : Nat) : Nat :=
  s.myCore.cyc + 1 + (if L ≤ 1 then 0 else s.free (s.slotKey (6000 + k)) % L)

/-- A result of latency bound L is put in flight, with its flags (R169, R61); `buf` says that it holds a landing-buffer entry
(R54), `src` names the tile that it was read from (R263). -/
def State.stageWith (s : State) (wr : Wr) (L : Nat) (fl : FFlags) (buf : Bool) (src : Option AccReg) : State :=
  let k := s.me
  let l : Landing :=
    ⟨wr, s.landAt k.staged.length L, fl, s.squash, s.nextOrd, s.slot.num, buf, src⟩
  s.setMe { k with staged := k.staged ++ [l] }
/-- A result put in flight that holds no landing-buffer entry and comes from no tile. -/
def State.stage (s : State) (wr : Wr) (L : Nat) (fl : FFlags) : State := s.stageWith wr L fl false none

/-- A result lands: the destination gets it, s0, p0 and vp0 excepted, and its flags are raised (R51, R56, R61). -/
def Ctx.landOn (k : Ctx) (l : Landing) : Ctx :=
  let k := k.raise l.flags
  match l.wr with
  | .s r x => if r = 0 then k else { k with s := k.s.set r.val x }
  | .p r x => if r = 0 then k else { k with p := k.p.set r.val x }
  | .b r x => { k with b := k.b.set r.val x }
  | .lc r x => { k with lc := k.lc.set r.val x }
  | .v r x => { k with v := k.v.set r.val x }
  | .vp r x => if r = 0 then k else { k with vp := k.vp.set r.val x }
  | .mp r x m => { k with mp := k.mp.set r.val ((k.mp[r.val] &&& ~~~m) ||| (x &&& m)) }
  | .acc r x m => { k with acc := k.acc.set r.val ((k.acc[r.val] &&& ~~~m) ||| (x &&& m)) }
  | .sys n x =>
    match n with
    | 0x008 => { k with heapBase := bits x 12 45 ++ (0 : BitVec 12) |>.setWidth 64 }
    | 0x009 => { k with heapLimit := bits x 12 45 ++ (0 : BitVec 12) |>.setWidth 64 }
    | 0x00A => { k with heapOff := bits x 12 52 ++ (0 : BitVec 12) }
    | 0x010 => k.clearFlags x
    | 0x018 => { k with taddr := x.setWidth 32 }
    | 0x019 => { k with tcause := x.setWidth 32 }
    | 0x01A => { k with txfer := x &&& 0x83000000FFFFFFFF }
    | _ => k

/-- A write of a core, grove or die register lands (R58, R63, R312). -/
def State.landSys (s : State) (c : Nat) (n : Nat) (x : W64) : State :=
  match n with
  | 0x020 => s.setCore c { s.coreAt c with ageLimit := if x.toNat % 2 ^ 16 < 64 then 64 else x.setWidth 16 }
  | 0x021 => s.setCore c { s.coreAt c with svcShare := if 64 < x.toNat % 2 ^ 7 then 64 else x.setWidth 7 }
  | 0x022 => s.setGrove (groveOf c) { s.groveAt (groveOf c) with retry := x.setWidth 4 }
  | 0x023 => s.setDie (dieOf (groveOf c)) { s.dieAt (dieOf (groveOf c)) with phase := x.setWidth 12 }
  | 0x024 => s.setGrove (groveOf c)
      { s.groveAt (groveOf c) with hang := if x.toNat % 2 ^ 32 < 65536 then 65536 else x.setWidth 32 }
  | _ => s

/-- A result of context `x` of core `c` lands. -/
def State.land (s : State) (c x : Nat) (l : Landing) : State :=
  let s := s.setCtx c x ((s.ctxAt c x).landOn l)
  match l.wr with
  | .sys n v => s.landSys c n v
  | _ => s

/-- Insertion by landing cycle, earlier-issued first among equals (R56). -/
def insLand (l : Landing) : List Landing → List Landing
  | [] => [l]
  | h :: t => if l.land < h.land || (l.land = h.land && l.ord < h.ord) then l :: h :: t else h :: insLand l t
/-- Landings in landing-cycle order, and by issue order among equals (R56). -/
def sortLand (ls : List Landing) : List Landing := ls.foldl (fun a l => insLand l a) []

/-- Insertion by landing cycle, then slot, then issue order, as a drain lands them (R65). -/
def insDrain (l : Landing) : List Landing → List Landing
  | [] => [l]
  | h :: t =>
    if l.land < h.land || (l.land = h.land && (l.slot < h.slot || (l.slot = h.slot && l.ord < h.ord)))
    then l :: h :: t else h :: insDrain l t

/-- Whether an access has a result that lands (R220). -/
def AccOp.hasDest : AccOp → Bool
  | .load .. | .vload .. | .ldg .. | .arrive .. | .waitb .. | .waitbTry .. => true
  | .atomic _ _ _ _ _ d _ => d.isSome
  | _ => false

/-- Whether a result that is due lands behind one of an earlier bundle that is late on this cycle: of two results that land
on one cycle, the later bundle's remains (R56). -/
def landsAfterLate (k : Ctx) (now : Nat) (l : Landing) : Bool :=
  k.accs.any (fun a => a.op.hasDest && a.bound ≤ now && a.ord < l.ord) ||
    k.reqs.any fun r => r.bound ≤ now && r.ord < l.ord

/-- Whether a result lands now. -/
def landsNow (k : Ctx) (now : Nat) (l : Landing) : Bool := l.land ≤ now && !landsAfterLate k now l

/-- Every result of context `x` whose cycle has come lands (R169). -/
def State.landDue (s : State) (c x : Nat) : State :=
  let k := s.ctxAt c x
  let now := (s.coreAt c).cyc
  let due := sortLand (k.inflight.filter (landsNow k now))
  if due.isEmpty then s
  else
    let s := s.setCtx c x { k with inflight := k.inflight.filter fun l => !landsNow k now l }
    due.foldl (fun s l => s.land c x l) s

/-- Every result in flight lands, in the drain's order (R65). -/
def State.landAll (s : State) (c x : Nat) : State :=
  let k := s.ctxAt c x
  let ls := k.inflight ++ k.staged
  if ls.isEmpty then s
  else
    let s := s.setCtx c x { k with inflight := [], staged := [] }
    (ls.foldl (fun a l => insDrain l a) []).foldl (fun s l => s.land c x l) s

end Sys2Proof.Machine
end

