-- ==== Sys2Proof/Machine/Matrix.lean ====
section
/-! DEFINITION. What the matrix unit computes (R85-R90, R254-R271): whole tiles from whole operand slots. -/

namespace Sys2Proof.Machine
open Sys2Proof

/-! ## Matrix parameters (R256) -/

/-- SLOT. -/
def mpSlot (p : BitVec 128) : Nat := (bits p 0 4).toNat
/-- ROWS. -/
def mpRows (p : BitVec 128) : Nat := (bits p 4 8).toNat
/-- COLS. -/
def mpCols (p : BitVec 128) : Nat := (bits p 12 8).toNat
/-- GRP. -/
def mpGrp (p : BitVec 128) : Nat := (bits p 22 2).toNat
/-- SSLOT. -/
def mpSslot (p : BitVec 128) : Nat := (bits p 24 4).toNat
/-- SOFF in bytes. -/
def mpSoff (p : BitVec 128) : Nat := (bits p 28 10).toNat * 16
/-- ZOFF in bytes. -/
def mpZoff (p : BitVec 128) : Nat := (bits p 38 10).toNat * 16
/-- The group size G named by GRP. -/
def grpSize (g : Nat) : Nat := 16 * 2 ^ g

/-! ## Elements (R254, R255) -/

/-- `n` bytes of a tile or slot from byte `off`, as a number. -/
def tileAt (x : TileW) (off n : Nat) : Nat := (x.toNat >>> (8 * off)) % 2 ^ (8 * n)
/-- A tile of consecutive elements of `n` bytes. -/
def packTile (n : Nat) (xs : List Nat) : TileW := BitVec.ofNat 131072 (packNat n xs)

/-- The shape and elements of an operand: rows, columns, bytes per element. -/
structure OpShape where
  rows : Nat
  cols : Nat
  w : Nat
  deriving DecidableEq, Repr

/-- Element (r, c) of an operand, transposed when `t` (R254). -/
def OpShape.elem (o : OpShape) (x : TileW) (t : Bool) (r c : Nat) : Nat :=
  tileAt x (if t then (c * o.rows + r) * o.w else (r * o.cols + c) * o.w) o.w
/-- Element (r, c) within the valid extent of a parameter register, else zero (R267). -/
def OpShape.valid (o : OpShape) (p : BitVec 128) (x : TileW) (t : Bool) (r c : Nat) : Nat :=
  if r ≤ mpRows p ∧ c ≤ mpCols p then o.elem x t r c else 0
/-- The 4-bit element numbered n of a slot (R76). -/
def nibble (x : TileW) (n : Nat) : Nat := (x.toNat >>> (4 * n)) % 16
/-- The signed value of an 8-bit or 4-bit pattern. -/
def sval (w x : Nat) : Int := sintOf w x

/-! ## MMA (R90, R267) -/

/-- One output element: block sums along K, each added with two roundings (R90). -/
def mmaElem (F A : Fmt) (K bs : Nat) (a b : Nat → Nat) (c : Nat) : Nat × FFlags :=
  (List.range (K / bs)).foldl (fun r blk =>
    let ps := (List.range bs).map fun k => mulV (unpack F (a (blk * bs + k))) (unpack F (b (blk * bs + k)))
    let n := blockStep A r.1 (blockSum ps)
    (n.1, r.2 ||| n.2)) (c, 0)

/-- Every output element of an operation on an mo × no tile, and the flags joined. -/
def tileMap (mo no n : Nat) (f : Nat → Nat → Nat × FFlags) : TileW × FFlags :=
  let r := (List.range mo).flatMap fun i => (List.range no).map fun j => f i j
  (packTile n (r.map (·.1)), joinFlags (r.map (·.2)))

/-- Element (i, j) of an accumulator tile with rows of `no` elements of `n` bytes (R255). -/
def accAt (x : TileW) (no n i j : Nat) : Nat := tileAt x ((i * no + j) * n) n

/-- A floating-point MMA (R267). -/
def mmaFloat (F A : Fmt) (mo no K bs w n : Nat) (f : MmaFlags) (pa pb : BitVec 128) (sa sb d : TileW) :
    TileW × FFlags :=
  let oa : OpShape := ⟨mo, K, w⟩
  let ob : OpShape := ⟨K, no, w⟩
  tileMap mo no n fun i j =>
    mmaElem F A K bs (fun k => oa.valid pa sa f.ta i k) (fun k => ob.valid pb sb f.tb k j)
      (if f.start then 0 else accAt d no n i j)

/-- MMA.i8 (R267): the sum wraps to i32. -/
def mmaInt (f : MmaFlags) (pa pb : BitVec 128) (sa sb d : TileW) : TileW × FFlags :=
  let oa : OpShape := ⟨64, 256, 1⟩
  let ob : OpShape := ⟨256, 64, 1⟩
  tileMap 64 64 4 fun i j =>
    let c : Int := if f.start then 0 else (accAt d 64 4 i j : Nat)
    let s := (List.range 256).foldl (fun (a : Int) k => a + sval 8 (oa.valid pa sa false i k) * sval 8 (ob.valid pb sb false k j)) c
    (wrapNat 32 s, 0)

/-! ## MMAW (R87, R268) -/

/-- The bf16 weight at (k, j), with its rounding's flags: dequantised inside the extent, +0 outside. -/
def mmawWeight (e2 : Bool) (pb : BitVec 128) (sb st : TileW) (k j : Nat) : Nat × FFlags :=
  if k ≤ mpRows pb ∧ j ≤ mpCols pb then
    let g := k / grpSize (mpGrp pb)
    let sc := tileAt st (mpSoff pb + (g * 64 + j) * 2) 2
    let q := nibble sb (k * 64 + j)
    let z := sval 8 (tileAt st (mpZoff pb + g * 64 + j) 1)
    dequant .f16 .bf16 sc (if e2 then e2m1 q else ofInt (sval 4 q - z))
  else (0, 0)

/-- MMAW: dequantised weights in a bf16 MMA (R268). -/
def mmaw (e2 : Bool) (f : MmaFlags) (pa pb : BitVec 128) (sa sb st d : TileW) : TileW × FFlags :=
  let oa : OpShape := ⟨64, 128, 2⟩
  let r := tileMap 64 64 4 fun i j =>
    mmaElem .bf16 .f32 128 32 (fun k => oa.valid pa sa f.ta i k) (fun k => (mmawWeight e2 pb sb st k j).1)
      (if f.start then 0 else accAt d 64 4 i j)
  let w := joinFlags ((List.range 128).flatMap fun k => (List.range 64).map fun j => (mmawWeight e2 pb sb st k j).2)
  (r.1, r.2 ||| w)

/-! ## MGRP and MSCAC (R88, R89, R269, R270) -/

/-- The unscaled i32 partial of one group (R269). -/
def mgrp (i4 : Bool) (g : Nat) (pa pb : BitVec 128) (sa sb st : TileW) : TileW × FFlags :=
  let G := grpSize (mpGrp pb)
  let oa : OpShape := ⟨64, 256, 1⟩
  tileMap 64 64 4 fun i j =>
    let z := sval 8 (tileAt st (mpZoff pb + g * 64 + j) 1)
    let s := (List.range G).foldl (fun (a : Int) t =>
      let k := g * G + t
      if i ≤ mpRows pa ∧ k ≤ mpCols pa ∧ k ≤ mpRows pb ∧ j ≤ mpCols pb then
        let q := if i4 then sval 4 (nibble sb (k * 64 + j)) else sval 8 (tileAt sb (k * 64 + j) 1)
        a + sval 8 (oa.elem sa false i k) * (q - z)
      else a) 0
    (wrapNat 32 s, 0)

/-- A partial scaled by its row's and its group's scales and added with a second rounding (R89). The products are formed from left
to right, which decides NV of a zero partial with one infinite and one NaN scale (DESIGN CHOICE, assumption log 80). -/
def mscacElem (p arow sc acc : Nat) : Nat × FFlags :=
  let (x, f1) := mulV (ofInt (sval 32 p)) (unpack .f32 arow)
  let (y, f2) := mulV x (unpack .f16 sc)
  let (t, f3) := roundV .f32 .rne y
  let (r, f4) := faddBits .f32 acc t
  (r, f1 ||| f2 ||| f3 ||| f4)

/-- MSCAC (R270). -/
def mscac (g : Nat) (pa pb : BitVec 128) (ta tb src d : TileW) : TileW × FFlags :=
  tileMap 64 64 4 fun i j =>
    mscacElem (accAt src 64 4 i j) (tileAt ta (mpSoff pa + 4 * i) 4) (tileAt tb (mpSoff pb + (g * 64 + j) * 2) 2)
      (accAt d 64 4 i j)

/-! ## Tile operations (R271) -/

/-- MTRN. -/
def mtrn (w64 : Bool) (src : TileW) : TileW × FFlags :=
  if w64 then tileMap 32 32 8 fun i j => (accAt src 32 8 j i, 0) else tileMap 64 64 4 fun i j => (accAt src 64 4 j i, 0)

/-- MACCADD. -/
def maccadd (t : AccTy) (src d : TileW) : TileW × FFlags :=
  match t with
  | .f32 => tileMap 64 64 4 fun i j => faddBits .f32 (accAt d 64 4 i j) (accAt src 64 4 i j)
  | .f64 => tileMap 32 32 8 fun i j => faddBits .f64 (accAt d 32 8 i j) (accAt src 32 8 i j)
  | .i32 => tileMap 64 64 4 fun i j => ((accAt d 64 4 i j + accAt src 64 4 i j) % 2 ^ 32, 0)

/-- One element of MCVTACC. -/
def mcvtElem (m : AccCvt) (x : Nat) : Nat × FFlags :=
  match m with
  | .f32OfI32 => cvtIF .f32 .rne (sval 32 x)
  | .i32OfF32 => cvtFI .f32 true 32 .rne x
  | .bf16 => let (r, f) := cvtFF .f32 .bf16 .rne x; (r * 65536, f)
  | .f16 => let (r, f) := cvtFF .f32 .f16 .rne x; ((cvtFF .f16 .f32 .rne r).1, f)

/-- MCVTACC. -/
def mcvtacc (m : AccCvt) (src : TileW) : TileW × FFlags := tileMap 64 64 4 fun i j => mcvtElem m (accAt src 64 4 i j)

/-! ## The operation of a queue entry -/

/-- The tile an operation writes, the tiles it reads, and the slots it reads (R260, R266). -/
def matTiles (i : Instr) : Option AccReg × List AccReg :=
  match i with
  | .mzero d => (some d, [])
  | .mmaBf16 d _ _ f | .mmaF16 d _ _ f | .mmaF32 d _ _ f | .mmaF64 d _ _ f | .mmaI8 d _ _ f | .mmawI4 d _ _ f
  | .mmawE2m1 d _ _ f => (some d, if f.start then [] else [d])
  | .mgrpI4i8 d _ _ _ _ | .mgrpI8 d _ _ _ _ => (some d, [])
  | .mscac d src _ _ _ => (some d, [d, src])
  | .mtrn d src _ => (some d, [src])
  | .maccadd _ d src => (some d, [d, src])
  | .mcvtacc _ d src => (some d, [src])
  | _ => (none, [])

/-- The operand slots a matrix operation reads, from the parameter registers it read at issue (R266). -/
def matSlots (i : Instr) (pa pb : BitVec 128) : List Nat :=
  match i with
  | .mmaBf16 .. | .mmaF16 .. | .mmaF32 .. | .mmaF64 .. | .mmaI8 .. => [mpSlot pa, mpSlot pb]
  | .mmawI4 .. | .mmawE2m1 .. | .mgrpI4i8 .. | .mgrpI8 .. => [mpSlot pa, mpSlot pb, mpSslot pb]
  | .mscac .. => [mpSslot pa, mpSslot pb]
  | _ => []

/-- A result of 32 × 32 elements of 8 bytes, which fills the low half of a tile: the high half keeps what it holds (R267, R271). -/
def keepHigh (d : TileW) (r : TileW × FFlags) : TileW × FFlags :=
  (((d >>> 65536) <<< 65536) ||| (r.1 &&& (BitVec.allOnes 65536).setWidth 131072), r.2)

/-- The new tile and flags of a matrix operation, from the context's tiles and the core's slots. -/
def matResult (i : Instr) (pa pb : BitVec 128) (slot : Nat → TileW) (acc : AccReg → TileW) : TileW × FFlags :=
  let sa := slot (mpSlot pa)
  let sb := slot (mpSlot pb)
  match i with
  | .mmaBf16 d _ _ f => mmaFloat .bf16 .f32 64 64 128 32 2 4 f pa pb sa sb (acc d)
  | .mmaF16 d _ _ f => mmaFloat .f16 .f32 64 64 128 32 2 4 f pa pb sa sb (acc d)
  | .mmaF32 d _ _ f => mmaFloat .f32 .f32 64 64 64 32 4 4 f pa pb sa sb (acc d)
  | .mmaF64 d _ _ f => keepHigh (acc d) (mmaFloat .f64 .f64 32 32 64 8 8 8 f pa pb sa sb (acc d))
  | .mmaI8 d _ _ f => mmaInt f pa pb sa sb (acc d)
  | .mmawI4 d _ _ f => mmaw false f pa pb sa sb (slot (mpSslot pb)) (acc d)
  | .mmawE2m1 d _ _ f => mmaw true f pa pb sa sb (slot (mpSslot pb)) (acc d)
  | .mgrpI4i8 _ _ _ _ g => mgrp true g.val pa pb sa sb (slot (mpSslot pb))
  | .mgrpI8 _ _ _ _ g => mgrp false g.val pa pb sa sb (slot (mpSslot pb))
  | .mscac d src _ _ g => mscac g.val pa pb (slot (mpSslot pa)) (slot (mpSslot pb)) (acc src) (acc d)
  | .mtrn d src w64 => if w64 then keepHigh (acc d) (mtrn true (acc src)) else mtrn false (acc src)
  | .maccadd t d src => if t = .f64 then keepHigh (acc d) (maccadd .f64 (acc src) (acc d)) else maccadd t (acc src) (acc d)
  | .mcvtacc m _ src => mcvtacc m (acc src)
  | _ => (0, 0)

/-- The cycles an operation occupies the array and its completion bound (R261). -/
def matCycles (i : Instr) (pb : BitVec 128) : Nat × Nat :=
  match i with
  | .mmaBf16 .. | .mmaF16 .. | .mmaF32 .. | .mmaF64 .. | .mmaI8 .. => (64, 96)
  | .mmawI4 .. | .mmawE2m1 .. => (64, 112)
  | .mgrpI4i8 .. | .mgrpI8 .. => let o := grpSize (mpGrp pb) / 4; (o, o + 32)
  | .mscac .. => (8, 24)
  | .mtrn .. => (16, 24)
  | .maccadd .. | .mcvtacc .. => (8, 16)
  | _ => (1, 4)

end Sys2Proof.Machine
end

