-- ==== Sys2Proof/Machine/Resolve.lean ====
section
/-! DEFINITION. Address resolution (R96-R102), translation (R99, R419-R423) and the footprint (R138): what an access
finds before its bundle issues. -/

namespace Sys2Proof.Machine
open Sys2Proof

/-- What a check finds: nothing, a cause, a first-level TLB miss to be walked (R99), an issue delay, or an access to
storage that does not exist. -/
inductive Verdict
  | pass
  | trap (t : Trap)
  | miss (w : Walk)
  | hold
  | hole
  deriving DecidableEq, Repr

/-- The earlier of two verdicts in the order in which they were found. -/
def Verdict.or : Verdict → Verdict → Verdict
  | .pass, v => v
  | v, _ => v

/-! ## Device memory and the aperture -/

/-- The bytes of device memory (R427). -/
def devSize : Nat := 768000000000
/-- Bits [56:32] of the scratchpad aperture (R96). -/
def aperture : Nat := 0x1FFFFFF
/-- Whether an address lies in the scratchpad aperture. -/
def inAperture (va : Nat) : Bool := va / 2 ^ 32 = aperture
/-- The first offset of the grant-relative part of the aperture (R98). -/
def grantOff : Nat := 0xF0000000
/-- The first address of the grant-relative part of the aperture. -/
def grantBase : Nat := aperture * 2 ^ 32 + grantOff
/-- The largest scratchpad, and the spacing of groves in the aperture (R98). -/
def grovePitch : Nat := 0x800000

/-- The scratchpad size that aperture checks use: the smaller of old and new during a drain (R108). -/
def Grove.checkSize (g : Grove) : Nat := match g.drain with | some d => Nat.min g.size d.size | none => g.size

/-- Where an aperture address leads, or its cause code (R98). -/
def apertureAt (s : State) (va len : Nat) : Except Nat Place :=
  let o := va % 2 ^ 32
  if grantOff ≤ o ∧ o < grantOff + grovePitch then
    if o - grantOff + len ≤ s.me.spLen then .ok (.spad s.g (s.me.spOff + (o - grantOff))) else .error 0x43
  else if o < 96 * grovePitch then
    if o % grovePitch + len ≤ (s.groveAt (o / grovePitch)).checkSize then .ok (.spad (o / grovePitch) (o % grovePitch))
    else .error 0x42
  else .error 0x42

/-- The illegal-operation code of an address before translation, lowest first (R96, R98, R101, R114). -/
def addrCode (s : State) (va len : Nat) (mis fe : Bool) : Option Nat :=
  if 2 ^ 57 ≤ va then some 0x40
  else if mis then some 0x41
  else if inAperture va then
    match apertureAt s va len with
    | .ok _ => none
    | .error c => some c
  else if fe then some 0x44
  else none

/-! ## Translation -/

/-- The heap window (R96, rule 3): the physical address of an address inside it. -/
def heapAt (k : Ctx) (va : Nat) : Option Nat :=
  let base := k.heapBase.toNat
  if base ≤ va ∧ va < base + k.heapLimit.toNat then some ((va + k.heapOff.toNat) % 2 ^ 64) else none

/-- Whether a translation covers an address. -/
def TlbEntry.covers (e : TlbEntry) (asid va : Nat) : Bool :=
  e.asid = asid && e.va / 2 ^ e.k = va / 2 ^ e.k

/-- Where a translation leads for an address it covers (R420). -/
def TlbEntry.place (e : TlbEntry) (va : Nat) : Place :=
  let a := e.pa + va % 2 ^ e.k
  match e.tgt with
  | 0 => .dev a
  | 1 => .host a
  | 2 => .remote e.chip a
  | _ => .bell (e.pa / 4096 % 1024) (va % 4096)

/-- The 8 bytes of a page-table entry, read at its home slice (R422). -/
def readPte (s : State) (a : Nat) : Nat := leNat (s.mem.readN a 8)

/-- The count of one bits of `x` upward from bit `i`, at most `n` (R421). -/
def onesFrom (x i : Nat) : Nat → Nat
  | 0 => 0
  | n + 1 => if nbits x i 1 = 1 then 1 + onesFrom x (i + 1) n else 0

/-- A leaf at level `l` as a translation; `none` for a leaf that is not valid (R421, R422). -/
def leafOf (asid va l pte : Nat) : Option TlbEntry :=
  let tgt := nbits pte 5 2
  let chip := nbits pte 52 12
  let addr := nbits pte 12 40
  let t := onesFrom addr 0 40
  let k := if nbits pte 4 1 = 1 then 13 + t else 12
  let page := addr * 4096 / 2 ^ k * 2 ^ k
  if 2 < l ∨ 19 < t ∧ nbits pte 4 1 = 1 ∨ k < 12 + 9 * l ∨ 20 + 9 * l < k ∨ nbits pte 7 5 ≠ 0 ∨ (tgt ≠ 2 ∧ chip ≠ 0)
    ∨ (tgt = 3 ∧ (k ≠ 12 ∨ nbits pte 22 30 ≠ 0)) then none
  else
    some { asid, va := va / 2 ^ k * 2 ^ k, k, tgt, chip, pa := page, r := decide (nbits pte 2 1 = 1),
           w := decide (nbits pte 3 1 = 1) }

/-- A walk from a table at level `l` (R419, R422); `none` when it finds no valid leaf. -/
def walkFrom (s : State) (asid va : Nat) : Nat → Nat → Option TlbEntry
  | l, table =>
    let pte := readPte s (table + 8 * nbits va (12 + 9 * l) 9)
    if nbits pte 0 1 = 0 then none
    else if nbits pte 1 1 = 1 then leafOf asid va l pte
    else
      match l with
      | 0 => none
      | l + 1 =>
        if nbits pte 7 5 ≠ 0 ∨ nbits pte 4 3 ≠ 0 ∨ nbits pte 52 12 ≠ 0 then none
        else walkFrom s asid va l (nbits pte 12 40 * 4096)

/-- A walk of an address space's tree (R419). -/
def walk (s : State) (asid va : Nat) : Option TlbEntry :=
  (Map.get? s.roots asid).bind fun root => walkFrom s asid va 4 root

/-- Where an address leads: a place, a miss of the first-level TLB, or an aperture cause. -/
inductive Leads
  | ok (p : Place)
  | miss
  | bad (code : Nat)
  deriving DecidableEq, Repr

/-- An address resolved for the context that acts (R96). A held translation without the permission wanted is walked
again: no TLB holds a faulting translation (R423); nor is one used once its address space has no root (R419). -/
def resolve (s : State) (va len : Nat) (rd wr : Bool) : Leads :=
  if inAperture va then
    match apertureAt s va len with
    | .ok p => .ok p
    | .error c => .bad c
  else
    match heapAt s.me va with
    | some pa => .ok (.dev pa)
    | none =>
      match s.myCore.tlb.find? (fun e =>
        (Map.get? s.roots s.asid).isSome && e.covers s.asid va && (!rd || e.r) && (!wr || e.w)) with
      | some e => .ok (e.place va)
      | none => .miss

/-- Whether an access of `len` bytes at a place of device memory lies beyond R427's range. -/
def Place.hole (p : Place) (len : Nat) : Bool :=
  match p with
  | .dev pa => devSize < pa + len
  | _ => false

/-! ## The footprint (R138) -/

/-- The end of the region among `rs` that reaches furthest from `a`, if one holds byte `a`. -/
def reach (rs : List (Nat × Nat)) (a : Nat) : Option Nat :=
  rs.foldl (fun o r => if r.1 ≤ a ∧ a < r.2 then some (Nat.max (o.getD 0) r.2) else o) none

/-- Whether the union of byte ranges [lo, hi) holds [a, e), with fuel. -/
def coversGo (rs : List (Nat × Nat)) (e : Nat) : Nat → Nat → Bool
  | 0, a => e ≤ a
  | n + 1, a => if e ≤ a then true else match reach rs a with | some b => coversGo rs e n b | none => false

/-- Whether the union of byte ranges [lo, hi) holds the `len` bytes from `a`. -/
def covers (rs : List (Nat × Nat)) (a len : Nat) : Bool := coversGo rs (a + len) (rs.length + 1) a

/-- Byte ranges of a task's regions that satisfy a condition, with its own grant and the save area that it may reach (R371). -/
def ranges (s : State) (save : List (Nat × Nat)) (t : Task) (ok : Region → Bool) : List (Nat × Nat) :=
  (grantBase, grantBase + s.me.spLen) :: save ++ (t.regions.filter ok).map fun r => (r.base, r.base + r.len)

/-- Whether bytes of the aperture lie in the grant of the task that acts, under either form of address (R98, R138). -/
def inGrant (s : State) (va len : Nat) : Bool :=
  inAperture va &&
    (match apertureAt s va len with
     | .ok (.spad g off) => g = s.g && s.me.spOff ≤ off && off + len ≤ s.me.spOff + s.me.spLen
     | _ => false)

/-- Whether some byte of a range lies in the aperture and outside the grant of the task that acts (R138, R141). -/
def outsideGrant (s : State) (va len : Nat) : Bool :=
  let lo := Nat.max va (aperture * 2 ^ 32)
  let hi := Nat.min (va + len) ((aperture + 1) * 2 ^ 32)
  lo < hi && !inGrant s lo (hi - lo)
/-- The save area that a save or restore routine under way may reach (R371). -/
def saveRange (s : State) : List (Nat × Nat) :=
  match s.me.safePt, s.myInst, s.myTask with
  | some n, some i, some t =>
    match i.img.safes[n]? with
    | some p => let a := t.areas.getD (if s.me.gang then s.me.rank else 0) 0; [(a, a + p.size * 4096)]
    | none => []
  | _, _, _ => []

/-- The footprint code of an access: bytes from `va`, reading or writing, `sync` for the accesses that R138 lets into
untracked regions; lowest first. `save` is the save area that it may reach, for every kind of access (R371). The service context is never checked. -/
def footIn (save : List (Nat × Nat)) (s : State) (va len : Nat) (rd wr sync : Bool) : Option Nat :=
  match s.myTask with
  | none => none
  | some t =>
    let kindOk (r : Region) : Bool := (!rd || tst r.kind 0) && (!wr || tst r.kind 1)
    if !covers (ranges s save t fun _ => true) va len then some 1
    else if !covers (ranges s save t kindOk) va len then some 2
    else if !sync && !covers (ranges s save t fun r => kindOk r && r.trk) va len then some 3
    else if wr && s.staged && outsideGrant s va len then some 4
    else none
/-- The footprint code of an access of the bundle that is checked. -/
def footCode (s : State) (va len : Nat) (rd wr sync : Bool) : Option Nat := footIn (saveRange s) s va len rd wr sync

end Sys2Proof.Machine
end

