-- ==== Sys2Proof/Machine/Watch.lean ====
section
/-! DEFINITION. What a performed write sets off at its home slice: line timestamps (05, "Logical time"), pool copies
(R350), watch entries (R336-R347) and the freeze of a queue (R44, R345, R412); and what a generation reads (R348, R352). -/

namespace Sys2Proof.Machine
open Sys2Proof

/-! ## Failures of an instance -/

/-- SYS.TCAUSE's value (R59). -/
def causeWord (cls slot code : Nat) : W32 := BitVec.ofNat 32 (cls * 2 ^ 24 + slot * 2 ^ 16 + code)

/-- A queue enters Frozen; STATE.DETAIL takes the class (R395, R412). A disabled queue stays disabled. -/
def freezeQueue (s : State) (q cls : Nat) : State :=
  let k := s.queueAt q
  if k.st = .disabled then s else s.setQueue q { k with st := .frozen, detail := cls }

/-- Whether a failure of an instance now is the event that its record names: nothing of it has failed or ended before, and on
one cycle a task's failure ranks above a runaway trigger, and both above an ending (R409). -/
def failRanks (s : State) (i : Inst) (cause : W32) : Bool :=
  let now := s.time.toNat
  let runaway (w : W32) : Bool := w.toNat / 2 ^ 24 = 12
  (i.endSt = .none || i.endTime = now) &&
    (i.cause = 0 || (i.causeTime = now && runaway i.cause && !runaway cause))
/-- A failure of an instance: kept for its record where R409 names it, and the first that freezes freezes its queue (R44, R345,
R412). -/
def instFail (s : State) (n : Nat) (cause : W32) (entry : Nat) : State :=
  match s.inst? n with
  | none => s
  | some i =>
    let s := if i.froze then s else freezeQueue s i.queue (cause.toNat / 2 ^ 24)
    let i := { i with froze := true }
    s.setInst n (if failRanks s i cause then { i with cause := cause, causeTime := s.time.toNat, entry := entry } else i)

/-! ## The watch descriptor (R292) -/

/-- BASE. -/
def wBase (d : BitVec 512) : Nat := (bits d 0 64).toNat
/-- DEPTH. -/
def wDepth (d : BitVec 512) : Nat := (bits d 104 8).toNat
/-- COAL. -/
def wCoal (d : BitVec 512) : Nat := (bits d 100 2).toNat
/-- KEY. -/
def wKey (d : BitVec 512) : Nat := (bits d 98 2).toNat
/-- TYPE. -/
def wType (d : BitVec 512) : BitVec 16 := bits d 80 16
/-- LOG2GRAN. -/
def wGran (d : BitVec 512) : Nat := (bits d 72 4).toNat
/-- LOG2LEN. -/
def wLen (d : BitVec 512) : Nat := (bits d 64 6).toNat
/-- RATE. -/
def wRate (d : BitVec 512) : Nat := (bits d 128 32).toNat
/-- ARG. -/
def wArg (d : BitVec 512) : W64 := bits d 192 64
/-- COORDj of granule i: ((i >> SHIFTj) mod 2^WIDTHj + ADDj) mod 2^32. -/
def wCoord (d : BitVec 512) (j i : Nat) : W32 :=
  let w := 256 + 64 * j
  BitVec.ofNat 32 ((i >>> (bits d w 6).toNat) % 2 ^ (bits d (w + 6) 6).toNat + (bits d (w + 32) 32).toNat)

/-- The shoot record of an entry for granule i (R40, R339). -/
def shootRec (d : BitVec 512) (i : Nat) (chg : W32) : Rec :=
  ⟨wType d, 0, chg, wCoord d 0 i, wCoord d 1 i, wCoord d 2 i, wCoord d 3 i, wArg d⟩

/-- The key of a shoot (R40, R292). -/
def shootKey (d : BitVec 512) (i : Nat) : Option W64 :=
  match wKey d with
  | 0 => none
  | 1 => some (BitVec.ofNat 64 i)
  | 2 => some (wArg d)
  | _ => some ((wCoord d 0 i).setWidth 64)

/-! ## Shoot records (R339, R343-R345, R347) -/

/-- A runaway trigger disables the entry and drops its records (R345, steps 1 and 2). -/
def Watch.disable (w : Watch) (why : Nat) : Watch := { w with disabled := true, why, pend := [] }

/-- A counted change on a pending record (R339, R340, R347); CHG saturates. -/
def Pend.raise (p : Pend) (depth ts : Nat) : Pend :=
  { p with
    chg := if p.chg = BitVec.allOnes 32 then p.chg else p.chg + 1
    depth := Nat.max p.depth depth
    ts := Nat.max p.ts ts + 1 }

/-- A changing write of chain depth `depth` and write timestamp `ts` in granule i of an entry: the entry after it
(R339, R343, R344), disabled by a runaway trigger; `born` tells the records of this write from others (R342). -/
def Watch.change (w : Watch) (i depth ts time born : Nat) : Watch :=
  if w.disabled then w
  else
    let hit (p : Pend) : Bool := wCoal w.desc = 1 || p.i = i
    match w.pend.find? hit with
    | some p =>
      if wDepth w.desc < Nat.max p.depth (depth + 1) then w.disable 1
      else { w with pend := w.pend.map fun q => if q = p then q.raise (depth + 1) ts else q }
    | none =>
      let n := if w.win = time / 700 then w.winCount else 0
      if wDepth w.desc < depth + 1 then w.disable 1
      else if wRate w.desc < n + 1 then w.disable 2
      else { w with pend := w.pend ++ [⟨i, 1, depth + 1, ts + 1, born⟩], win := time / 700, winCount := n + 1 }

/-- Whether the bytes that lie in a watched range change (R338). -/
def changes (w : Watch) (pa : Nat) (old new : List Byte) : Bool :=
  (List.range new.length).any fun j =>
    w.pa ≤ pa + j && pa + j < w.pa + w.len && old.getD j 0 ≠ new.getD j 0

/-- A write checked against every entry, in ascending entry id (R336, R338, R342). -/
def checkWatches (s : State) (pa : Nat) (old new : List Byte) (depth ts : Nat) : State :=
  s.watches.foldl (fun s e =>
    let w := e.2
    if changes w pa old new then
      let w' := w.change ((pa - w.pa) / 2 ^ wGran w.desc) depth ts s.time.toNat s.fresh
      let s := { s with watches := Map.set s.watches e.1 w' }
      if w'.disabled && !w.disabled then
        instFail (s.count fun k => { k with runaway := k.runaway + 1 }) w.inst (causeWord 12 0xFF w'.why) e.1
      else s
    else s) s

/-! ## The map of device memory, and poison (R427, R455-R457) -/

/-- The number of the 64-byte block at a place that can hold poison. -/
def Place.block? : Place → Option Nat
  | .dev pa => some (2 * (pa / 64))
  | .spad g off => some (2 * ((g * grovePitch + off) / 64) + 1)
  | _ => none

/-- A bit field of a physical address. -/
def paf (pa lo len : Nat) : Nat := nbits pa lo len
/-- The stack of a physical address (R427). -/
def stackOf (pa : Nat) : Nat := paf pa 7 4 ^^^ paf pa 21 4 ^^^ paf pa 35 4
/-- The channel of a physical address within its stack (R427). -/
def channelOf (pa : Nat) : Nat := paf pa 11 5 ^^^ paf pa 25 5 ^^^ paf pa 39 5
/-- The column of a physical address's line, in lines (R427). -/
def columnOf (pa : Nat) : Nat := paf pa 16 3
/-- The bank group of a physical address (R427). -/
def bankGroupOf (pa : Nat) : Nat := paf pa 19 2 ^^^ paf pa 27 2
/-- The bank of a physical address within its bank group (R427). -/
def bankOf (pa : Nat) : Nat := paf pa 21 2 ^^^ paf pa 29 2
/-- The row of a physical address (R427). -/
def rowOf (pa : Nat) : Nat := paf pa 23 29
/-- The die of a physical address (R427). -/
def dieOfPa (pa : Nat) : Nat := stackOf pa / 4
/-- The home L2 slice of a physical address (R427). -/
def sliceOf (pa : Nat) : Nat := stackOf pa * 4 + channelOf pa / 8
/-- The memory channel of a physical address, of 512. -/
def chanAt (s : State) (pa : Nat) : Chan := Map.at_ s.chans (stackOf pa * 32 + channelOf pa) Chan.reset

/-- The class and code of the poison that a read inside one 64-byte block meets; a failed channel answers every
access with class 10, code 0x0001 (R457, R459). -/
def poisonOf (s : State) (p : Place) : Option (Nat × Nat) :=
  match p with
  | .dev pa => if (chanAt s pa).failed then some (10, 1)
      else (Map.get? s.poison (2 * (pa / 64))).map fun x => (x / 65536, x % 65536)
  | _ => (p.block?.bind fun b => Map.get? s.poison b).map fun x => (x / 65536, x % 65536)

/-- A transfer of the block at a physical address on its stack's link (R446): each access of device memory at its home is one (DEDUCED,
assumption log 25). -/
def countLink (s : State) (pa : Nat) : State :=
  { s with linkUse := Map.set s.linkUse (stackOf pa) (Map.at_ s.linkUse (stackOf pa) 0 + 1) }

/-! ## Versions of device memory (R348-R353) -/

/-- The version granule of a physical address (R348). -/
def granuleOf (pa : Nat) : Nat := pa / 4096

/-- The write timestamp of a granule's current version. -/
def versionTs (s : State) (g : Nat) : Nat := Map.at_ s.writeTs g 0

/-- Whether a generation holds versions (R355). -/
def Gen.holds (k : Gen) : Bool :=
  match k.st with
  | .live | .draining | .checkpointed | .failed => true
  | _ => k.dropped

/-- Whether a generation draws a granule from its checkpoint target (R353, R432). -/
def drawsTarget (s : State) (k : Gen) (g : Nat) : Bool :=
  (k.st = .checkpointed || k.st = .failed) &&
    (match Map.get? s.targets k.target with
     | some t => t.sbase ≤ g * 4096 && g * 4096 < t.sbase + t.slen
     | none => false)

/-- Whether a 64 KiB frame belongs to the generation pool: of the frames that have not been retired from the pool, the uppermost of device
memory, as many as the pool holds (R354, R431). -/
def poolFrame (s : State) (f : Nat) : Bool :=
  let n := devSize / 65536
  f < n && !s.poolGone.contains f && n - 1 - f < s.poolFrames + (s.poolGone.filter (f < ·)).length

/-- Whether a granule has versions: not one of the generation pool, nor of a frame that has been retired from it (R348). -/
def versioned (s : State) (g : Nat) : Bool := !poolFrame s (g / 16) && !s.poolGone.contains (g / 16)
/-- Whether a granule's current version must be copied before its next write (R350). -/
def needsCopy (s : State) (g : Nat) : Bool :=
  versioned s g && s.gens.any fun e => e.2.holds && versionTs s g ≤ e.2.cut && !drawsTarget s e.2 g

/-- The pool's capacity in 4 KiB granules. -/
def poolCap (s : State) : Nat := s.poolFrames * 16

/-- Whether the copies that writes to these granules need do not fit in the pool (R351). -/
def poolShort (s : State) (gs : List Nat) : Bool :=
  let n := (gs.eraseDups.filter (needsCopy s)).length
  0 < n && poolCap s < s.copies.length + n
/-- Whether a write to device memory must wait for pool space (R351). -/
def writeHeld (s : State) (pa : Nat) : Bool := needsCopy s (granuleOf pa) && poolCap s ≤ s.copies.length

/-- The 4 KiB of a granule. -/
def granuleData (s : State) (g : Nat) : BitVec 32768 := ofLe 32768 (s.mem.readN (g * 4096) 4096)

/-- The poisoned blocks of a granule, by their position in it. -/
def granuleBad (s : State) (g : Nat) : Map Nat :=
  (List.range 64).filterMap fun i => (poisonOf s (.dev (g * 4096 + 64 * i))).map fun e => (i, e.1 * 65536 + e.2)
/-- The copy of R350, taken before the write of timestamp `ts` is performed: a transfer of its own (R446). It keeps the poison of the
version's blocks (DESIGN CHOICE, assumption log 108). -/
def copyVersion (s : State) (g ts : Nat) : State :=
  if needsCopy s g then
    { countLink s (g * 4096) with copies := s.copies ++ [⟨g, versionTs s g, ts, granuleData s g, granuleBad s g⟩] }
  else s

/-- The pool's copy that a generation draws a granule from, if it draws it from one (R350, R352). -/
def genCopy (s : State) (n g : Nat) : Option PoolCopy :=
  let k := s.genAt n
  if versionTs s g ≤ k.cut || !versioned s g then none else s.copies.find? fun c => c.g = g && c.lo ≤ k.cut && k.cut < c.hi
/-- A byte of a granule as a generation holds it (R350, R352); one without versions is what it is now. -/
def genByte (s : State) (n pa : Nat) : Byte :=
  let k := s.genAt n
  let g := granuleOf pa
  if versionTs s g ≤ k.cut || !versioned s g then s.mem.read pa
  else
    match genCopy s n g with
    | some c => byteOf c.data (pa % 4096)
    | none =>
      match Map.get? s.targets k.target with
      | some t =>
        match t.data.find? (fun d => d.1 = g) with
        | some d => byteOf d.2 (pa % 4096)
        | none => s.mem.read pa
      | none => s.mem.read pa
/-- The poison that a generation's version of a granule carries: in memory, in the pool's copy, or in the checkpoint target (R353,
R456). -/
def genPoison (s : State) (n pa : Nat) : Option (Nat × Nat) :=
  let k := s.genAt n
  let g := granuleOf pa
  let parts (w : Nat) : Nat × Nat := (w / 65536, w % 65536)
  if versionTs s g ≤ k.cut || !versioned s g then poisonOf s (.dev pa)
  else
    match genCopy s n g, Map.get? s.targets k.target with
    | some c, _ => (Map.get? c.bad (pa % 4096 / 64)).map parts
    | none, some t => if drawsTarget s k g then (Map.get? t.bad g).map parts else none
    | none, none => none

/-- The copies that some generation drawing from the pool still holds (R350, R353). -/
def freeCopies (s : State) : State :=
  { s with copies := s.copies.filter fun c =>
      s.gens.any fun e => e.2.holds && c.lo ≤ e.2.cut && e.2.cut < c.hi && !drawsTarget s e.2 c.g }

/-! ## Logical time -/

/-- A line's (wts, rts). -/
def lineTs (s : State) (pa : Nat) : Nat × Nat := Map.at_ s.lines (pa / 128) (0, 0)

/-- The write timestamp a write takes: max(LTS, rts + 1), above the floor of the last cut (R349). -/
def storeTs (s : State) (lts pa : Nat) : Nat := Nat.max (Nat.max lts ((lineTs s pa).2 + 1)) (s.floor + 1)

/-- A load of a line by a context of timestamp LTS: the line's lease extended, and the new LTS. -/
def loadLine (s : State) (lts pa : Nat) : State × Nat :=
  let (w, r) := lineTs s pa
  let lts' := Nat.max lts w
  ({ s with lines := Map.set s.lines (pa / 128) (w, Nat.max r (lts' + 32)) }, lts')

/-- Bytes with some of them replaced. -/
def mergeBytes (old : List Byte) (bs : List (Option Byte)) : List Byte := (old.zip bs).map fun x => x.2.getD x.1

/-- A write performed at its home slice, of the bytes that are given: pool copy, bytes, timestamps, watches (R122,
R337, R350). -/
def writeHome (s : State) (pa : Nat) (bs : List (Option Byte)) (depth ts : Nat) : State :=
  let old := s.mem.readN pa bs.length
  let new := mergeBytes old bs
  let s := copyVersion s (granuleOf pa) ts
  let s := { s with
    mem := s.mem.writeN pa new
    lines := Map.set s.lines (pa / 128) (ts, ts)
    writeTs := Map.set s.writeTs (granuleOf pa) ts }
  checkWatches s pa old new depth ts

end Sys2Proof.Machine
end

