-- ==== Sys2Proof/Machine/Jobs.lean ====
section
/-! DEFINITION. The geometry of copy jobs, window fetches and restores (R110-R112, R136, R242-R252, R298): their
granules, what each reads and what each writes, and their progress. -/

namespace Sys2Proof.Machine
open Sys2Proof

/-- A run of source bytes of a granule. -/
inductive Src
  | mem (va len : Nat)
  | zero (len : Nat)
  | ws (off len : Nat)
  | gen (va len : Nat)
  deriving DecidableEq, Repr

/-- Where a granule is written; `part` is the bytes of an aligned granule that a mask selects. -/
inductive Dst
  | mem (va len : Nat)
  | part (va : Nat) (m : BitVec 16)
  | slot (n off len : Nat)
  | ws (off len : Nat)
  | nothing
  deriving DecidableEq, Repr

/-- The parts of a byte range that do not cross a 16-byte boundary, for a range of at most 16 bytes. -/
def parts16 (va len : Nat) : List (Nat × Nat) :=
  let a := 16 - va % 16
  if len ≤ a then [(va, len)] else [(va, a), (va + a, len - a)]

/-- The number of granules of a byte range. -/
def granCount (base len : Nat) : Nat := if len = 0 then 0 else (base + len - 1) / 16 - base / 16 + 1

/-- Granule k of a byte range: its first byte and its length inside the range (R125). -/
def granOf (base len k : Nat) : Nat × Nat :=
  let lo := Nat.max base ((base / 16 + k) * 16)
  let hi := Nat.min (base + len) ((base / 16 + k + 1) * 16)
  (lo, hi - lo)

/-- Register value n of a job. -/
def Job.arg (j : Job) (n : Nat) : Nat := (j.args.getD n 0).toNat

/-- Row r of a two-dimensional copy: base + r × stride modulo 2^64 (R244). -/
def rowBase (base stride r : Nat) : Nat := (base + r * stride) % 2 ^ 64

/-- The block-table entry that names a hole. -/
def hole32 : Nat := 0xFFFFFFFF
/-- The logical bytes of block i of a GATHER or SCATTER, counted from its first block: block and range in it (R245). -/
def Job.blockPart (j : Job) (i : Nat) : Nat × Nat × Nat :=
  let z := j.arg 3
  let b := j.arg 4 / z + i
  (b, Nat.max (j.arg 4) (b * z) - b * z, Nat.min (j.arg 4 + j.arg 5) ((b + 1) * z) - b * z)
/-- The number of blocks that a GATHER or SCATTER reaches. -/
def Job.blockCount (j : Job) : Nat := if j.arg 5 = 0 then 0 else (j.arg 4 + j.arg 5 - 1) / j.arg 3 - j.arg 4 / j.arg 3 + 1
/-- The address of a block's entry in the block table (R245). -/
def Job.entryAddr (j : Job) (b : Nat) : Nat := (j.arg 1 + 4 * b) % 2 ^ 64
/-- What a SCATTER writes of its block i, unless that is a hole or its entry has not been read: address, length and source (R245). -/
def Job.scatPart (j : Job) (i : Nat) : Option (Nat × Nat × Nat) :=
  let (b, lo, hi) := j.blockPart i
  match Map.get? j.table b with
  | some e => if e = hole32 then none else some ((j.arg 2 + e * j.arg 3 + lo) % 2 ^ 64, hi - lo, j.arg 0 + (b * j.arg 3 + lo - j.arg 4))
  | none => none
/-- The parts of a job that may share granules, each a run of bytes with its address, length and source: the rows of a CPY2D and the
blocks of a SCATTER (R244, R245). -/
def Job.parts (j : Job) : List (Nat × Nat × Nat) :=
  match j.op with
  | .cpy2d .. => (List.range (j.arg 5)).map fun r => (rowBase (j.arg 0) (j.arg 1) r, j.arg 4, rowBase (j.arg 2) (j.arg 3) r)
  | .scatter .. => (List.range j.blockCount).filterMap j.scatPart
  | _ => []
/-- The destination granules of a job's parts, each once however many parts lie in it, in the order of the parts (R247). -/
def Job.partGrans (j : Job) : List Nat :=
  (j.parts.flatMap fun x => (List.range (granCount x.1 x.2.1)).map (x.1 / 16 + ·)).eraseDups
/-- The parts of a job that write a byte. -/
def Job.partsAt (j : Job) (va : Nat) : List (Nat × Nat × Nat) := j.parts.filter fun x => x.1 ≤ va && va < x.1 + x.2.1
/-- The source of the byte of a part at `va`. -/
def partSrc (x : Nat × Nat × Nat) (va : Nat) : Nat := x.2.2 + (va - x.1)
/-- The runs of bytes of granule k of a job's parts, each of one part: address, length and source. A byte that several parts write takes
the one that `pick` gives: the job's accesses follow no order among themselves (R136; DESIGN CHOICE, assumption log 84). -/
def Job.partRuns (j : Job) (pick : Nat → Nat) (k : Nat) : List (Nat × Nat × Nat) :=
  ((List.range 16).foldl (fun acc i =>
    let va := 16 * j.partGrans.getD k 0 + i
    let ps := j.partsAt va
    match ps[pick i % ps.length]?, acc with
    | some x, (b, n, y) :: t => if b + n = va ∧ y + n = partSrc x va then (b, n + 1, y) :: t else (va, 1, partSrc x va) :: acc
    | some x, [] => [(va, 1, partSrc x va)]
    | none, _ => acc) []).reverse
/-- The bytes of granule k of a job's parts that they write. -/
def Job.partMask (j : Job) (k : Nat) : BitVec 16 :=
  (List.range 16).foldl (fun m i => if (j.partsAt (16 * j.partGrans.getD k 0 + i)).isEmpty then m else m ||| (1 <<< i)) 0

/-- The logical bytes [y, y + n) that granule k of a GATHER moves, split at block boundaries: block, offset in the block, length
(R245). -/
def Job.blocks (j : Job) (k : Nat) : List (Nat × Nat × Nat) :=
  let b := j.arg 3
  let g := granOf (j.arg 0) (j.arg 5) k
  let y := g.1 - j.arg 0 + j.arg 4
  let a := b - y % b
  if g.2 ≤ a then [(y / b, y % b, g.2)] else [(y / b, y % b, a), (y / b + 1, 0, g.2 - a)]
/-- The blocks whose table entries are read before granule k is: its own for GATHER; for SCATTER all, since they say which granules the
job writes (R245, R247; DESIGN CHOICE, assumption log 84). -/
def Job.needs (j : Job) (k : Nat) : List Nat :=
  match j.op with
  | .gather .. => (j.blocks k).map (·.1)
  | .scatter .. => (List.range j.blockCount).map (j.arg 4 / j.arg 3 + ·)
  | _ => []
/-- The first block whose table entry has yet to be read before granule k is. -/
def Job.unread (j : Job) (k : Nat) : Option Nat := (j.needs k).find? fun b => (Map.get? j.table b).isNone

/-- The first row of a window's fetch, as a signed number. -/
def Job.firstRow (j : Job) : Int := (j.args.getD 6 0).toInt

/-- The number of destination granules of a job (R247); a SCATTER has one to go while entries of its table have not been read. -/
def Job.count (j : Job) : Nat :=
  match j.op with
  | .cpy .. | .rput .. | .rget .. => granCount (j.arg 0) (j.arg 2)
  | .cpy2d .. => j.partGrans.length
  | .gather .. => granCount (j.arg 0) (j.arg 5)
  | .scatter .. => if (j.unread 0).isSome then 1 else j.partGrans.length
  | .osfill .. | .mcast .. | .wsfill .. => 1024
  | .wswrite .. => granCount (j.arg 0) (j.arg 2)
  | .wopen .. | .wadv .. => j.arg 7 * (j.arg 2 / 16)
  | .groll .. => j.arg 2 / 16
  | .rsig .. | .cflush .. | .cinv .. => 1
  | _ => 0

/-- The source reads of a run of memory bytes. -/
def memSrcs (va len : Nat) : List Src := (parts16 va len).map fun x => Src.mem (x.1 % 2 ^ 64) x.2
/-- What granule k reads, given what picks among parts that overlap. Where source and destination differ
modulo 16, a source granule is read for each destination granule that it feeds: how often R125's granules of a source are read,
the spec does not say (DESIGN CHOICE, assumption log 91). -/
def Job.srcs (j : Job) (pick : Nat → Nat) (k : Nat) : List Src :=
  let mems := memSrcs
  match j.op with
  | .cpy .. | .rput .. | .rget .. => let g := granOf (j.arg 0) (j.arg 2) k; mems (j.arg 1 + (g.1 - j.arg 0)) g.2
  | .cpy2d .. | .scatter .. => (j.partRuns pick k).flatMap fun x => mems x.2.2 x.2.1
  | .gather .. => (j.blocks k).flatMap fun x =>
      match Map.get? j.table x.1 with
      | some e => if e = hole32 then [Src.zero x.2.2] else mems (j.arg 2 + e * j.arg 3 + x.2.1) x.2.2
      | none => []
  | .osfill .. | .mcast .. => mems (rowBase (j.arg 0) (j.arg 1) (k / 16) + 16 * (k % 16)) 16
  | .wsfill .. => [Src.ws (j.arg 0 + 16 * k) 16]
  | .wswrite .. => let g := granOf (j.arg 0) (j.arg 2) k; mems (j.arg 1 + (g.1 - j.arg 0)) g.2
  | .wopen .. | .wadv .. =>
    let n := j.arg 2 / 16
    let x := j.firstRow + (k / n : Nat)
    if x < 0 ∨ (j.arg 3 : Int) ≤ x ∨ (2 ^ 32 : Int) ≤ x then [Src.zero 16]
    else mems (j.arg 0 + x.toNat * j.arg 1 + 16 * (k % n)) 16
  | .groll .. => [Src.gen (j.arg 1 + 16 * k) 16]
  | .cflush .. | .cinv .. => [Src.mem (j.arg 0) (j.arg 1)]
  | _ => []

/-- What granule k may read: of parts that overlap, each. -/
def Job.maySrcs (j : Job) (k : Nat) : List Src :=
  match j.op with
  | .cpy2d .. | .scatter .. => (List.range 16).flatMap fun i =>
      let a := 16 * j.partGrans.getD k 0 + i
      (j.partsAt a).map fun x => Src.mem (partSrc x a % 2 ^ 64) 1
  | _ => j.srcs (fun _ => 0) k

/-- Where granule k is written. -/
def Job.dst (j : Job) (k : Nat) : Dst :=
  match j.op with
  | .cpy .. | .rput .. | .rget .. => let g := granOf (j.arg 0) (j.arg 2) k; .mem g.1 g.2
  | .gather .. => let g := granOf (j.arg 0) (j.arg 5) k; .mem g.1 g.2
  | .cpy2d .. | .scatter .. => .part (16 * j.partGrans.getD k 0) (j.partMask k)
  | .osfill _ n _ _ | .mcast _ n _ _ => .slot n.val (16 * k) 16
  | .wsfill _ n _ => .slot n.val (16 * k) 16
  | .wswrite .. => let g := granOf (j.arg 0) (j.arg 2) k; .ws g.1 g.2
  | .wopen .. | .wadv .. =>
    let n := j.arg 2 / 16
    let x := j.firstRow + (k / n : Nat)
    .mem (j.arg 4 + (x % (j.arg 5 : Int)).toNat * j.arg 2 + 16 * (k % n)) 16
  | .groll .. => .mem (j.arg 1 + 16 * k) 16
  | .rsig .. => .mem (j.arg 0) 8
  | _ => .nothing

/-- Whether the destination granules of a job that lie in scratchpad become full (R113). -/
def Job.setsFull (j : Job) : Bool :=
  match j.op with
  | .cpy sf .. | .cpy2d sf .. | .gather sf .. | .rget sf .. => sf
  | .wopen .. | .wadv .. => true
  | _ => false

/-! ## Progress (R247) -/

/-- Whether granule k has been written: it lies below p or in the delivered mask. -/
def Job.has (j : Job) (k : Nat) : Bool := k < j.p || (k < j.p + 256 && j.mask.getLsbD (k - j.p))

/-- Progress moved past the granules delivered at p. -/
def Job.advance (j : Job) : Nat → Job
  | 0 => j
  | n + 1 => if j.mask.getLsbD 0 then Job.advance { j with p := j.p + 1, mask := j.mask >>> 1 } n else j

/-- Granule k has been written. -/
def Job.deliver (j : Job) (k : Nat) : Job :=
  let j := { j with mask := j.mask ||| (1 <<< (k - j.p)), buf := j.buf.filter fun x => x.1 ≠ k }
  j.advance 256

/-- Whether granule k has been read and waits to be written. -/
def Job.read? (j : Job) (k : Nat) : Option W128 := (j.buf.find? fun x => x.1 = k).map (·.2)

/-- Whether the fetch of the row that granule k of a window's job lies in is under way: some granule of it has been read (R111,
R250). -/
def Job.rowBegun (j : Job) (k : Nat) : Bool :=
  let n := j.arg 2 / 16
  (List.range n).any fun i => let m := k / n * n + i; j.has m || (j.read? m).isSome
/-- Whether a WCLOSE has dropped granule k: the fetch of its row had not started (R111). -/
def Job.dropped (j : Job) (k : Nat) : Bool := j.stop && !j.rowBegun k

/-- Whether every granule of a job that is not dropped has been written (R250). -/
def Job.written (j : Job) : Bool :=
  if j.stop then (List.range j.count).all fun k => j.has k || j.dropped k else j.count ≤ j.p

/-- Whether a job has performed all its writes, or finished its move (R250). -/
def Job.finished (j : Job) : Bool := j.written && !j.moving

/-! ## Bytes that no write has defined (DESIGN CHOICE, assumption log 5) -/

/-- The free byte of scratchpad `off` of grove `g`, by the count at which its page's content became undefined. -/
def spadFree (s : State) (g off : Nat) : Byte :=
  Config.freeByte (4 * (g + 128 * Map.at_ (s.groveAt g).epochs (off / 4096) 0) + 1) off
/-- Byte `off` of grove `g`'s scratchpad. -/
def spadByte (s : State) (g off : Nat) : Byte := (s.groveAt g).spad.readFree off (spadFree s g off)
/-- Byte `off` of die `d`'s weight store. -/
def wsByte (s : State) (d off : Nat) : Byte := (s.dieAt d).ws.readFree off (Config.freeByte (4 * d + 2) off)
/-- Byte `a` of host memory. -/
def hostByte (s : State) (a : Nat) : Byte := s.hostMem.readFree a (Config.freeByte 0 a)
/-- Byte `pa` of another package's memory. -/
def remoteByte (s : State) (chip pa : Nat) : Byte :=
  (Map.at_ s.remoteMem chip []).readFree pa (Config.freeByte (4 * chip + 3) pa)

end Sys2Proof.Machine
end

