-- ==== Sys2Proof/Machine/Places.lean ====
section
/-! DEFINITION. Reading and writing at a place that an address has led to: device memory, scratchpad, host memory,
other packages' memory, doorbell registers (R103, R113, R131, R133, R395), with poison (R455, R456); the transfers and messages that
these and walks make (R433, R446), and which jobs an access follows (R136). -/

namespace Sys2Proof.Machine
open Sys2Proof

/-! ## Bytes of storage with free bytes -/

/-- Bytes listed whether or not they hold zero, as storage with free bytes keeps them. -/
def setBytes (m : Memory) (a : Nat) : List (Option Byte) → Memory
  | [] => m
  | o :: t => setBytes (match o with | some b => Map.set m a b | none => m) (a + 1) t

/-! ## Doorbell registers (R395) -/

/-- The code of a queue's state. -/
def QSt.num : QSt → Nat
  | .disabled => 0 | .active => 1 | .waiting => 2 | .publishWait => 3 | .fetchFault => 4 | .payloadFault => 5
  | .halted => 6 | .frozen => 7

/-- The register at a doorbell offset; CTRL and unlisted offsets read zero. -/
def bellRead (s : State) (q off : Nat) : W64 :=
  let k := s.queueAt q
  match off with
  | 0x00 => k.tail
  | 0x08 => k.head
  | 0x10 => k.ctail
  | 0x18 => k.chead
  | 0x20 => BitVec.ofNat 64 (k.detail % 256 * 256 + k.st.num)
  | _ => 0

/-- A write of TAIL or CPLHEAD takes the maximum; any other offset keeps every register. -/
def bellWrite (s : State) (q off : Nat) (v : W64) : State :=
  let k := s.queueAt q
  let m (x : W64) : W64 := if x.ult v then v else x
  match off with
  | 0x00 => s.setQueue q { k with tail := m k.tail }
  | 0x18 => s.setQueue q { k with chead := m k.chead }
  | _ => s

/-! ## What holds accesses (R428, R434, R446, R459) -/

/-- Whether the link of a stack rekeys: it has made 2^36 transfers under its key (R446). -/
def rekeys (s : State) (stack : Nat) : Bool := decide (2 ^ 36 ≤ Map.at_ s.linkUse stack 0)

/-- Whether an access to a place is held by its controller or link: its frame is being retired, its channel retrains, its stack's link
rekeys, or no port carries traffic to another package (R428, R434, R446, R459). -/
def placeWaits (s : State) (p : Place) : Bool :=
  match p with
  | .dev pa => s.retiring.any (fun r => r.frame = pa / 65536) || (chanAt s pa).retraining || rekeys s (stackOf pa)
  | .remote .. => !s.ports.any fun e => e.2.st = .up
  | _ => false

/-- The addresses of the entries that a walk reads from a table at level `l`, in order (R422). -/
def walkFromReads (s : State) (va : Nat) : Nat → Nat → List Nat
  | l, table =>
    let a := table + 8 * nbits va (12 + 9 * l) 9
    let pte := readPte s a
    a :: (match l with
      | 0 => []
      | l + 1 => if nbits pte 0 1 = 1 ∧ nbits pte 1 1 = 0 then walkFromReads s va l (nbits pte 12 40 * 4096) else [])
/-- The addresses of the entries that a walk of an address space's tree reads. -/
def walkReads (s : State) (asid va : Nat) : List Nat :=
  match Map.get? s.roots asid with
  | some root => walkFromReads s va 4 root
  | none => []
/-- Whether a walk reads an entry that its controller holds: it waits there (R422, R428, R446, R459). -/
def walkHeld (s : State) (asid va : Nat) : Bool := (walkReads s asid va).any fun a => placeWaits s (.dev a)
/-- The class and code of the first poisoned entry that a walk reads: whoever walks has consumed it (R456, R459; DEDUCED, assumption
log 101). -/
def walkPoison (s : State) (asid va : Nat) : Option (Nat × Nat) := (walkReads s asid va).findSome? fun a => poisonOf s (.dev a)
/-- A walk's transfers on the links of the stacks that hold the entries it reads (R446). -/
def walkCount (s : State) (asid va : Nat) : State := (walkReads s asid va).foldl countLink s

/-! ## Messages to other packages (R433) -/

/-- Bytes 0 to 15 of a flit (R433). -/
def Flit.head (f : Flit) : BitVec 128 := f.rsv ++ f.kind ++ f.vc ++ f.src ++ f.dst ++ f.credits ++ f.ack ++ f.seq
/-- The CRC-64 of bytes 0 to 247 of a flit. -/
def flitCrc (head : BitVec 128) (payload : BitVec 1856) : BitVec 64 := Config.crc64 (leBytes 248 (payload ++ head).toNat)
/-- A flit by its fields (R433). -/
def Flit.ofParts (h : BitVec 128) (payload : BitVec 1856) : Flit :=
  ⟨bits h 0 16, bits h 16 16, bits h 32 32, bits h 96 32, bits h 91 5, bits h 88 3, bits h 76 12, bits h 64 12, payload⟩
/-- The credits of channel `i` that a flit returns: four bits for each of the eight virtual channels (R433; DEDUCED, assumption
log 102). -/
def Flit.credit (f : Flit) (i : Nat) : Nat := (bits f.credits (4 * i) 4).toNat
/-- The credits that a port returns in its next flit: all that it owes, and no more than 15 for each channel. -/
def Port.returns (k : Port) : BitVec 32 :=
  BitVec.ofNat 32 ((List.range 8).foldl (fun n i => n + Nat.min (k.owed.toList.getD i 0) 15 * 16 ^ i) 0)
/-- A flit sent by a port, kept until it is acknowledged: it acknowledges the flit accepted last. -/
def Port.send (k : Port) (src dst : BitVec 12) (vc : BitVec 3) (kind : BitVec 5) (x : BitVec 1856) : Port :=
  { k with
    next := k.next + 1
    owed := k.owed.map fun n => n - Nat.min n 15
    unacked := k.unacked ++ [⟨k.next, k.expect - 1, k.returns, 0, kind, vc, src, dst, x⟩] }
/-- A message in the payloads of its flits: 232 bytes in each, the last filled with zeros (R433). -/
def flitParts (bs : List Byte) : List (BitVec 1856) :=
  (List.range (Nat.max 1 (ceilDiv bs.length 232))).map fun i => ofLe 1856 ((bs.drop (232 * i)).take 232)
/-- Payloads sent to another package, one flit each, on a port that carries traffic. Which port, virtual channel and message kind, the
spec leaves open (DESIGN CHOICE, assumption logs 17 and 102). -/
def sendMessage (s : State) (chip : Nat) (ps : List (BitVec 1856)) : State :=
  let up := s.ports.filter fun e => e.2.st = .up
  match up[s.free 9700 % up.length]? with
  | some (n, k) =>
    let vc := BitVec.ofNat 3 (s.free 9701)
    let kind := BitVec.ofNat 5 (s.free 9702)
    let k := ps.foldl (fun (k : Port) (x : BitVec 1856) => k.send (BitVec.ofNat 12 s.chip) (BitVec.ofNat 12 chip) vc kind x) k
    { s with ports := Map.set s.ports n k }
  | none => s
/-- The message of an access of another package's memory: it fits one flit (DESIGN CHOICE, assumption log 102). -/
def sendTo (s : State) (p : Place) : State :=
  match p with
  | .remote chip _ => sendMessage s chip [Config.freePayload s.fresh]
  | _ => s

/-- The block at a place becomes poisoned with a class and code. -/
def poisonAt (s : State) (p : Place) (cls code : Nat) : State :=
  match p.block? with
  | some b => { s with poison := Map.set s.poison b (cls * 65536 + code), mending := s.mending.filter fun m => m.block ≠ b }
  | none => s

/-- Block b holds good bytes again. -/
def cleanBlock (s : State) (b : Nat) : State :=
  { s with poison := Map.del s.poison b, mending := s.mending.filter fun m => m.block ≠ b }
/-- Blocks that one write of `n` bytes at a place covers whole hold good bytes again: a write of all 64 bytes clears poison (R456). -/
def clearPoison (s : State) (p : Place) (n : Nat) : State :=
  match p with
  | .dev pa => cover s pa 0
  | .spad g off => cover s (g * grovePitch + off) 1
  | _ => s
where
  cover (s : State) (a odd : Nat) : State :=
    (s.poison.filter fun e => e.1 % 2 = odd && a ≤ 64 * (e.1 / 2) && 64 * (e.1 / 2) + 64 ≤ a + n).foldl
      (fun (s : State) (e : Nat × Nat) => cleanBlock s e.1) s
/-- The offset of a place in its 64-byte block. -/
def Place.inBlock : Place → Nat
  | .dev pa => pa % 64
  | .spad _ off => off % 64
  | _ => 0
/-- One access of a write has written bytes of a block: once that write has written all 64, the block holds good bytes (R456). -/
def mend (s : State) (p : Place) (bs : List (Option Byte)) (w : Nat × Nat × Nat) : State :=
  match p.block? with
  | none => s
  | some b =>
    if (Map.get? s.poison b).isNone then s
    else
      let m : BitVec 64 := BitVec.ofNat 64 (maskOf bs <<< p.inBlock)
      let old : BitVec 64 := ((s.mending.find? fun x => x.block = b && x.by_ = w).map (·.mask)).getD 0
      if old ||| m = BitVec.allOnes 64 then cleanBlock s b
      else { s with mending := ⟨b, w, old ||| m⟩ :: s.mending.filter fun x => !(x.block = b && x.by_ = w) }
where
  /-- The bytes that are given, as bits. -/
  maskOf : List (Option Byte) → Nat
    | [] => 0
    | o :: t => (if o.isSome then 1 else 0) + 2 * maskOf t

/-! ## Reading and writing -/

/-- The `n` bytes at a place: of host memory and of another package's, the newest there, where R133 and R135 let a load that races
with a write return an earlier value (DESIGN CHOICE, assumption log 95). -/
def readPlace (s : State) (p : Place) (n : Nat) : List Byte :=
  match p with
  | .dev pa => s.mem.readN pa n
  | .spad g off => (List.range n).map fun i => spadByte s g (off + i)
  | .host a => (List.range n).map fun i => hostByte s (a + i)
  | .remote chip pa => (List.range n).map fun i => remoteByte s chip (pa + i)
  | .bell q off => leBytes n (bellRead s q off).toNat

/-- What one party's access does to logical time at a place with no leases: the place serves its accesses one after another, each at
a timestamp no lower than that of those before it. A granule of scratchpad has a timestamp of its own; doorbells, host memory and other
packages share that of the parties without an LTS (R122, R131, R395; DEDUCED, assumption log 97). -/
def meetTs (s : State) (p : Place) (lts : Nat) : State × Nat :=
  match p with
  | .spad g off =>
    let k := s.groveAt g
    let t := Nat.max lts (Map.at_ k.spadTs (off / 16) 0)
    (s.setGrove g { k with spadTs := Map.set k.spadTs (off / 16) t }, t)
  | _ =>
    let t := Nat.max lts s.outTs
    ({ s with outTs := t }, t)
/-- A read of a place by a party of timestamp `lts`; with its timestamp after it (R122). -/
def touchPlace (s : State) (p : Place) (lts : Nat) : State × Nat :=
  match p with
  | .dev pa => loadLine (countLink s pa) lts pa
  | _ => meetTs s p lts
/-- The address of a place at its home. -/
def Place.addr : Place → Nat
  | .dev pa => pa | .spad _ o => o | .host a => a | .remote _ pa => pa | .bell _ o => o
/-- The place n bytes on. -/
def Place.shift (p : Place) (n : Nat) : Place :=
  match p with
  | .dev pa => .dev (pa + n) | .spad g o => .spad g (o + n) | .host a => .host (a + n)
  | .remote chip pa => .remote chip (pa + n) | .bell q o => .bell q (o + n)
/-- Writes at a place the bytes that are given, for a writer of chain depth `depth` and timestamp `lts`; with the
write timestamp taken (R122, R337, R343). -/
def writePlace (s : State) (p : Place) (bs : List (Option Byte)) (depth lts : Nat) : State × Nat :=
  match p with
  | .dev pa =>
    let ts := storeTs s lts pa
    (writeHome (countLink s pa) pa bs depth ts, ts)
  | .spad g off => meetTs (s.setGrove g { s.groveAt g with spad := setBytes (s.groveAt g).spad off bs }) p lts
  | .host a => meetTs { s with hostMem := setBytes s.hostMem a bs } p lts
  | .remote chip pa =>
    meetTs { s with remoteMem := Map.set s.remoteMem chip (setBytes (Map.at_ s.remoteMem chip []) pa bs) } p lts
  | .bell q off => meetTs (bellWrite s q off (ofLe 64 (bs.map (·.getD 0)))) p lts

/-- A party without an LTS reads at a place, at the timestamp that all of them share (DEDUCED, assumption log 97). -/
def outTouch (s : State) (p : Place) : State :=
  let (s, t) := touchPlace s p s.outTs
  { s with outTs := Nat.max s.outTs t }
/-- A party without an LTS reads `n` bytes from a place. -/
def outRead (s : State) (p : Place) (n : Nat) : State :=
  let w : Nat := match p with | .dev _ => 128 | _ => 16
  (List.range (ceilDiv (p.addr % w + n) w)).foldl (fun (s : State) (i : Nat) => outTouch s (p.shift (w * i - p.addr % w))) s
/-- A party without an LTS writes at a place. That the front end's and the firmware's writes of device memory are checked against the
watches, with chain depth 0 as the host's are, is the model's: R337 and R343 name none of them (DESIGN CHOICE, assumption log 114). -/
def outWrite (s : State) (p : Place) (bs : List Byte) : State :=
  let (s, t) := writePlace (clearPoison s p bs.length) p (bs.map some) 0 s.outTs
  { s with outTs := Nat.max s.outTs t }
/-- Bytes written by such a party, one access for each 16-byte granule (R122, R337, R343). -/
def writeSpan (s : State) (p : Place) (bs : List Byte) : State :=
  let n := p.addr % 16
  (List.range (ceilDiv (n + bs.length) 16)).foldl (fun (s : State) (i : Nat) =>
    let lo := 16 * i - n
    let hi := 16 * (i + 1) - n
    outWrite s (p.shift lo) ((bs.take hi).drop lo)) (clearPoison s p bs.length)

/-- Whether a write to a place is held for pool space (R351). -/
def placeHeld (s : State) (p : Place) : Bool :=
  match p with
  | .dev pa => writeHeld s pa
  | _ => false

/-- Whether an access of `len` bytes of device memory is held by a controller (R428, R459). -/
def spanWaits (s : State) (pa len : Nat) : Bool :=
  (List.range (ceilDiv (pa % 128 + len) 128)).any fun i => placeWaits s (.dev (128 * (pa / 128 + i)))
/-- Whether a write of `len` bytes of device memory is held for pool space (R351). -/
def spanHeld (s : State) (pa len : Nat) : Bool :=
  poolShort s ((List.range (ceilDiv (pa % 4096 + len) 4096)).map fun i => pa / 4096 + i)

/-- Whether an access of `len` bytes at a place is held by a controller or link, or for a drain of grove memory. -/
def partWaits (s : State) (p : Place) (len : Nat) : Bool :=
  match p with
  | .dev pa => spanWaits s pa len
  | .spad g _ => (s.groveAt g).drain.isSome
  | p => placeWaits s p
/-- Whether a write of `len` bytes at a place is held for pool space (R351). -/
def partHeld (s : State) (p : Place) (len : Nat) : Bool := match p with | .dev pa => spanHeld s pa len | _ => false

/-! ## Full-empty bits (R113) -/

/-- The full-empty bit of the granule at a place; a granule outside scratchpad counts as full. -/
def isFull (s : State) (p : Place) : Bool :=
  match p with
  | .spad g off => (s.groveAt g).fe.getLsbD (off / 16)
  | _ => true
/-- The full-empty bit of the granule at a place becomes `b`. -/
def setFull (s : State) (p : Place) (b : Bool) : State :=
  match p with
  | .spad g off =>
    let k := s.groveAt g
    let m : BitVec 524288 := 1 <<< (off / 16)
    s.setGrove g { k with fe := if b then k.fe ||| m else k.fe &&& ~~~m }
  | _ => s

/-! ## Grove memory during a drain (R108, R366) -/

/-- Whether grove memory of grove `g` serves no access at this moment: a drain is under way. -/
def Grove.draining (k : Grove) : Bool := k.drain.isSome

/-- Whether an access of a core of grove `g0` to a place waits for a drain. The leased cache of the phase being
left exists unless that phase has S of 8 MiB. -/
def drainBlocks (s : State) (g0 : Nat) (p : Place) : Bool :=
  match p with
  | .spad g _ => (s.groveAt g).draining
  | .dev _ => (s.groveAt g0).draining && (s.groveAt g0).size ≠ grovePitch
  | _ => false

/-! ## Where a job's accesses lead -/

/-- What comes of one access of a job: it is done, must wait, faults on a page, reads poison of a class and code, reaches
memory it may not (class 3), is outside the footprint, or reaches storage that does not exist. -/
inductive JobStep
  | done (s : State)
  | wait
  | page (va acc code : Nat)
  | bad (s : State) (cls code : Nat)
  | fail (code : Nat)
  | foot (code : Nat)
  | hole

/-- A job's address resolved: its engine walks, which may wait or read poison (R247, R422, R428; DEDUCED, assumption log 101). -/
def jobLeads (s : State) (va len : Nat) (wr : Bool) : Except JobStep Place :=
  if 2 ^ 57 ≤ va then .error (.fail 0x40)
  else if inAperture va then
    match apertureAt s va len with
    | .ok p => .ok p
    | .error c => .error (.fail c)
  else
    match heapAt s.me va with
    | some pa => .ok (.dev pa)
    | none =>
      let acc := if wr then 1 else 0
      if walkHeld s s.asid va then .error .wait
      else
        match walkPoison s s.asid va, walk s s.asid va with
        | some (c, e), _ => .error (.bad s c e)
        | none, none => .error (.page va acc 1)
        | none, some e => if (if wr then e.w else e.r) then .ok (e.place va) else .error (.page va acc 2)

/-- The walk that a job's engine makes for an address uses the links of the stacks that hold its tables (R446). -/
def jobWalked (s : State) (va : Nat) : State :=
  if 2 ^ 57 ≤ va || inAperture va || (heapAt s.me va).isSome then s else walkCount s s.asid va

/-! ## Footprints towards the context's own accesses (R136) -/

/-- A block-table entry as the task that acts sees it now (R139), where its address leads somewhere. -/
def peekEntry (s : State) (va : Nat) : Option Nat :=
  match jobLeads s va 4 false with
  | .ok (.dev pa) =>
    let own (a : Nat) : Option Byte := s.myTask.bind fun t => Map.get? t.tent a
    some (leNat ((List.range 4).map fun i => (own (pa + i)).getD (s.mem.read (pa + i))))
  | .ok (.spad g off) => some (leNat ((List.range 4).map fun i => spadByte s g (off + i)))
  | .ok (.host a) => some (leNat ((List.range 4).map fun i => hostByte s (a + i)))
  | .ok (.remote chip pa) => some (leNat ((List.range 4).map fun i => remoteByte s chip (pa + i)))
  | _ => none
/-- A job as it goes on if the block table stays as it stands: an entry that leads nowhere names a hole (R136; DESIGN CHOICE, assumption
log 84). -/
def Job.foreseen (s : State) (j : Job) : Job :=
  match j.op with
  | .gather .. | .scatter .. =>
    { j with table := ((List.range j.blockCount).map (j.arg 4 / j.arg 3 + ·)).foldl (fun (m : Map Nat) (b : Nat) =>
        if (Map.get? m b).isSome then m else Map.set m b ((peekEntry s (j.entryAddr b)).getD hole32)) j.table }
  | _ => j

/-- A place as one number. -/
def Place.num : Place → Nat
  | .dev pa => pa
  | .spad g off => 2 ^ 70 + g * grovePitch + off
  | .host a => 2 * 2 ^ 70 + a
  | .remote chip pa => (chip + 4) * 2 ^ 70 + pa
  | .bell q off => 3 * 2 ^ 70 + q * 4096 + off
/-- Where an address leads, as one number: two names of one byte are equal. An address that leads nowhere stands for itself. -/
def normal (s : State) (va : Nat) : Nat :=
  if inAperture va then (match apertureAt s va 1 with | .ok p => p.num | .error _ => 2 ^ 90 + va)
  else
    match heapAt s.me va with
    | some pa => pa
    | none => match walk s s.asid va with | some e => (e.place va).num | none => 2 ^ 90 + va

/-- Whether the bytes of an access lie in the outstanding write footprint of a job. -/
def Job.writesOver (s : State) (j : Job) (va len : Nat) : Bool :=
  let f := j.foreseen s
  (List.range f.count).any fun k =>
    !j.has k && !j.dropped k &&
      (match f.dst k with
       | .mem a n => overlap (normal s a) n (normal s va) len
       | .part a m => (List.range 16).any fun i => m.getLsbD i && overlap (normal s a + i) 1 (normal s va) len
       | _ => false)

/-- Whether the bytes of an access lie in the outstanding read footprint of a job: what a granule not yet read may read, and the
block-table entries not yet read. -/
def Job.readsOver (s : State) (j : Job) (va len : Nat) : Bool :=
  let f := j.foreseen s
  (List.range f.count).any fun k =>
    !j.has k && !j.dropped k && (j.read? k).isNone &&
      (((j.needs k).any fun b => (Map.get? j.table b).isNone && overlap (normal s (j.entryAddr b)) 4 (normal s va) len) ||
        (f.maySrcs k).any fun x =>
          match x with
          | .mem a n => overlap (normal s a) n (normal s va) len
          | _ => false)

/-- The earlier job of the context, if any, that an access must follow (R136). -/
def blockingJob (s : State) (ord va len : Nat) (wr : Bool) : Option Job :=
  s.me.jobs.find? fun j =>
    j.ord < ord && !j.finished && (j.writesOver s va len || (wr && j.readsOver s va len))

end Sys2Proof.Machine
end

