-- ==== Sys2Proof/Machine/Queues.lean ====
section
/-! DEFINITION. Queues as every unit sees them: the descriptor (R394), translation by the front end (R391), page-fault
upcalls (R426), the front end's writes and records (R397, R409, R466), and the CTRL commands (R395, R399). -/

namespace Sys2Proof.Machine
open Sys2Proof

/-! ## The descriptor (R394) -/

/-- RINGBASE. -/
def qRing (d : BitVec 512) : Nat := (bits d 0 64).toNat
/-- CLOG2. -/
def qClog (d : BitVec 512) : Nat := (bits d 112 8).toNat
/-- LOG2SIZE. -/
def qLog (d : BitVec 512) : Nat := (bits d 104 8).toNat
/-- CLASS. -/
def qClass (d : BitVec 512) : Nat := (bits d 96 4).toNat
/-- Whether an instance is timed: launched from a timed queue, on groves reserved for it (R414, R415). -/
def Inst.reserved (i : Inst) : Bool := qClass i.desc = 2
/-- PART. -/
def qPart (d : BitVec 512) : BitVec 4 := bits d 92 4
/-- QVER. -/
def qVer (d : BitVec 512) : Nat := (bits d 72 4).toNat
/-- FMT. -/
def qFmt (d : BitVec 512) : Nat := (bits d 68 4).toNat
/-- CTL. -/
def qCtl (d : BitVec 512) : Bool := tst d 66
/-- GEN. -/
def qGen (d : BitVec 512) : Bool := tst d 65
/-- DEVENQ. -/
def qDevenq (d : BitVec 512) : Bool := tst d 64
/-- CPLBASE. -/
def qCpl (d : BitVec 512) : Nat := (bits d 128 64).toNat
/-- HEADADDR. -/
def qHeadAddr (d : BitVec 512) : Nat := (bits d 192 64).toNat
/-- Whether grove g is reserved by RESG0 and RESG1. -/
def qReserves (d : BitVec 512) (g : Nat) : Bool := g < 96 && tst d (256 + g)

/-- Whether a descriptor is valid (R394): its reserved bits are zero and every field lies in its row's range. -/
def descOk (d : BitVec 512) : Bool :=
  bits d 120 8 = 0 && bits d 100 4 = 0 && bits d 67 1 = 0 && bits d 352 32 = 0 && bits d 384 128 = 0 &&
  decide (2 ≤ qClog d) && decide (qClog d ≤ 20) && decide (2 ≤ qLog d) && decide (qLog d ≤ 20) &&
  decide (qClass d ≤ 2) && decide (qRing d % (64 * 2 ^ qLog d) = 0) && decide (qCpl d % (32 * 2 ^ qClog d) = 0) &&
  decide (qHeadAddr d % 8 = 0) && (qClass d = 2 || bits d 256 96 = 0)

/-! ## Versions (R393) -/

/-- IFVER: firmware ABI 1 to 1, Canopy protocol 1 to 1, handle and image formats 1 to 1, queue interface 1 to 2, and the boot
step that failed; the version fields read zero until step 7 of the boot (R393, R444, R447). -/
def ifver (s : State) : W64 := BitVec.ofNat 64 ((if s.booted then 0x11555210 else 0) + s.bootFail % 16)
/-- Whether a version lies in a range that IFVER offers: its lowest and highest are the `n`-bit fields at `lo` and `hi`. -/
def offers (s : State) (lo hi n v : Nat) : Bool := (bits (ifver s) lo n).toNat ≤ v && v ≤ (bits (ifver s) hi n).toNat

/-! ## Upcalls (R425, R426) -/

/-- Whether an instance is live and has not been ended. -/
def alive (s : State) (n : Nat) : Bool := match s.live? n with | some i => !i.ended | none => false

/-- The first number from `n` upward that no listed number equals. -/
def firstFree (used : List Nat) (wrap : Nat) : Nat → Nat → Nat
  | 0, n => n
  | f + 1, n => if used.contains n then firstFree used wrap f (if n + 1 < wrap then n + 1 else 1) else n

/-- A non-zero 32-bit value unique among unanswered tokens; which one, the device chooses (DESIGN CHOICE, assumption log 17). -/
def newToken (s : State) : Nat :=
  firstFree (s.upcalls.map (·.tok)) (2 ^ 32) s.upcalls.length (s.free 9000 % (2 ^ 32 - 1) + 1)

/-- A page fault's waiter takes a token: the token, or `none` where the fault is answered at once as disposition 1. -/
def upcall (s : State) (asid va src acc code : Nat) (w : TokWaiter) : State × Option Nat :=
  match s.regions.find? (fun r => r.asid = asid && r.base ≤ va && va < r.base + r.len) with
  | none => (s, none)
  | some r =>
    if !alive s r.inst then (s, none)
    else
      match s.upcalls.find? (fun u => u.asid = asid && u.page = va / 4096) with
      | some u =>
        ({ s with upcalls := s.upcalls.map fun v => if v.tok = u.tok then { v with waiters := v.waiters ++ [w] } else v },
          some u.tok)
      | none =>
        let t := newToken s
        let c2 := src * 2 ^ 28 + acc * 2 ^ 26 + (code - 1) * 2 ^ 25 + va / 2 ^ 32 % 2 ^ 25
        let rc : Rec := ⟨r.typ, 0, 0, BitVec.ofNat 32 t, BitVec.ofNat 32 va, BitVec.ofNat 32 c2,
          BitVec.ofNat 32 asid, r.arg⟩
        ({ s with upcalls := s.upcalls ++ [⟨t, asid, va / 4096, r.inst, [w], some rc⟩] }, some t)

/-! ## Signals of system scope (R134) -/

/-- The number of the 8-byte location at a place: where a signal lies (R134). -/
def sigKey : Place → Nat
  | .dev pa => 4 * (pa / 8)
  | .host a => 4 * (a / 8) + 1
  | .remote chip pa => 4 * (chip * 2 ^ 60 + pa / 8) + 2
  | .spad g off => 4 * ((g * grovePitch + off) / 8) + 3
  | .bell q off => 4 * (2 ^ 60 + q * 8 + off / 8) + 3

/-- Lines added to the pending set of a signal on a die; a 257th set is written back at once (R134). -/
def pendLines (s : State) (d key : Nat) (lines : List Nat) : State :=
  let k := s.dieAt d
  match k.pending.find? (fun e => e.1 = key) with
  | some _ => s.setDie d { k with pending := k.pending.map fun e =>
      if e.1 = key then (e.1, e.2 ++ lines.filter fun l => !e.2.contains l) else e }
  | none => if 256 ≤ k.pending.length ∨ lines = [] then s else s.setDie d { k with pending := k.pending ++ [(key, lines)] }

/-! ## The front end's accesses -/

/-- Where the front end's access leads, or the page fault's code (R391, R422). A leaf beyond device memory is no leaf for it
(DEDUCED, assumption log 8). A walk that reads poison gives 0, since the front end has read uncorrectable data; for a write alone it
finds no leaf (DESIGN CHOICE, assumption log 101). -/
def feResolve (s : State) (asid va : Nat) (rd wr : Bool) : Except Nat Place :=
  if 2 ^ 57 ≤ va ∨ inAperture va then .error 1
  else
    match walkPoison s asid va, walk s asid va with
    | some _, _ => .error (if rd then 0 else 1)
    | none, none => .error 1
    | none, some e =>
      if (e.place va).hole 1 then .error 1
      else if (!rd || e.r) && (!wr || e.w) then .ok (e.place va) else .error 2

/-- Whether another package refuses an access of the front end to its memory: what stands in its export table is not this package's to tell
(R435; DESIGN CHOICE, assumption log 21). -/
def feRefused (s : State) : Place → Bool
  | .remote _ pa => decide (s.free (2 ^ 40 + pa) % 2 = 1)
  | _ => false
/-- Whether what the front end reads at a place comes poisoned: poison there, or a refusal (R435, R455). -/
def feSpoiled (s : State) (p : Place) : Bool := (poisonOf s p).isSome || feRefused s p
/-- The pages of a range, ascending. -/
def pagesOf (va len : Nat) : List Nat := (List.range ((va % 4096 + len + 4095) / 4096)).map fun i => Nat.max va ((va / 4096 + i) * 4096)
/-- Whether a walk that the front end makes for a range must wait (R428). -/
def feWalks (s : State) (asid va len : Nat) : Bool := (pagesOf va len).any (walkHeld s asid)
/-- The walks that the front end makes for a range, page by page, use the links of the stacks that hold their tables (R446). -/
def feWalked (s : State) (asid va len : Nat) : State := (pagesOf va len).foldl (fun s a => walkCount s asid a) s
/-- The lowest faulting page of a payload: its address, the access and the code. -/
def payloadFault (s : State) (asid src dst len : Nat) : Option (Nat × Nat × Nat) :=
  let at_ (wr : Bool) (va : Nat) : Option (Nat × Nat × Nat) :=
    match feResolve s asid va (!wr) wr with
    | .ok _ | .error 0 => none
    | .error c => some (va, if wr then 1 else 0, c)
  let fs := (pagesOf src len).filterMap (at_ false) ++ (pagesOf dst len).filterMap (at_ true)
  fs.foldl (fun o f => match o with
    | none => some f
    | some e => if f.1 / 4096 < e.1 / 4096 then some f else some e) none
/-- The address of a front-end write: that of a record is the slot that CPLTAIL names when it is written (R409). -/
def HeldWrite.addr (w : HeldWrite) (k : Queue) : Nat :=
  if w.ctail then qCpl k.desc + 32 * (k.ctail.toNat % 2 ^ qClog k.desc) else w.va
/-- A record carries the time at which it is written (R409). -/
def stampRecord (s : State) (w : HeldWrite) : List Byte :=
  if w.ctail then w.data.take 16 ++ leBytes 8 s.time.toNat ++ w.data.drop 24 else w.data
/-- A range of a queue's address space page by page: the offset of each part in it, its address and its length. -/
def pageParts (va len : Nat) : List (Nat × Nat × Nat) :=
  (pagesOf va len).map fun a => (a - va, a, Nat.min (va + len) ((a / 4096 + 1) * 4096) - a)
/-- The first page of a front-end write that faults: its address and the code. -/
def feWriteFault (s : State) (asid va len : Nat) : Option (Nat × Nat) :=
  (pagesOf va len).findSome? fun a => match feResolve s asid a false true with | .ok _ => none | .error c => some (a, c)
/-- Where a front-end write goes, page by page, with the lengths. -/
def feParts (s : State) (asid va len : Nat) : List (Place × Nat) :=
  (pageParts va len).filterMap fun x => (feResolve s asid x.2.1 false true).toOption.map fun p => (p, x.2.2)
/-- Whether a front-end write is held for pool space (R351). -/
def feShort (s : State) (asid va len : Nat) : Bool :=
  poolShort s ((feParts s asid va len).flatMap fun x => match x.1 with
    | .dev pa => (List.range (ceilDiv (pa % 4096 + x.2) 4096)).map (pa / 4096 + ·)
    | _ => [])
/-- Whether a front-end write is held: for pool space, or by a controller or link (R351, R428). -/
def feWriteHeld (s : State) (asid va len : Nat) : Bool :=
  feShort s asid va len || (feParts s asid va len).any fun x => partWaits s x.1 x.2
/-- The bytes of a front-end write performed, none of whose pages faults: a release that moves its lines to the pending set of
its first 8 bytes (R411). What goes to another package is a message, and what that refuses is not written there (R433, R435). -/
def feWriteNow (s : State) (asid va : Nat) (bs : List Byte) (die : Nat) (lines : List Nat) : State :=
  (pageParts va bs.length).foldl (fun s x => match feResolve s asid x.2.1 false true with
    | .ok p =>
      let s := if x.1 = 0 then pendLines s die (sigKey p) lines else s
      if feRefused s p then sendTo s p else writeSpan (sendTo s p) p ((bs.drop x.1).take x.2.2)
    | .error _ => s) (feWalked s asid va bs.length)
/-- Whether a queue has halted for a front-end write that was dropped: its kept writes wait for CMD 4 (R466). -/
def Queue.shut (k : Queue) : Bool := k.st = .halted && k.detail = 0x0C
/-- A front-end write made whole; or kept, with the queue in Fetch-fault where a page of it faults (R466), or for pool space, a
frame or a link (R351, R428). A fault in no pager's region is answered at once: the write is dropped and the queue halts with
detail 0x0C. A disabled queue stays disabled (DEDUCED, assumption log 67). -/
def feWrite (s : State) (q : Nat) (w : HeldWrite) : State :=
  let k := s.queueAt q
  if !k.held.isEmpty then s.setQueue q { k with held := k.held ++ [w] }
  else
    let asid := asidOf k.desc
    let va := w.addr k
    if feWalks s asid va w.data.length then s.setQueue q { k with held := [w] } else
    match feWriteFault s asid va w.data.length with
    | none =>
      if feWriteHeld s asid va w.data.length then s.setQueue q { k with held := [w] }
      else
        let s := feWriteNow s asid va (stampRecord s w) w.die w.lines
        if w.ctail then s.setQueue q { s.queueAt q with ctail := (s.queueAt q).ctail + 1 } else s
    | some (va, c) =>
      let (s, t) := upcall s asid va 5 1 c (.queue q)
      let off : Bool := k.st = .disabled
      match t with
      | some t =>
        s.setQueue q { k with st := if off then k.st else .fetchFault, token := some t, readFault := false, held := [w] }
      | none => if off then s else s.setQueue q { k with st := .halted, detail := 0x0C }

/-- The opcode and tag of a packet whose header a queue has read, zero before that (R409). -/
def headTag (k : Queue) : Nat × BitVec 16 :=
  match k.hdr with
  | some h => let f := PF.ofWord (h.setWidth 512); (f.opc.toNat, f.hdr.tag)
  | none => (0, 0)
/-- HEAD rises by one, and is written to HEADADDR when one is set (R397). -/
def headUp (s : State) (q : Nat) : State :=
  let k := s.queueAt q
  let s := s.setQueue q { k with head := k.head + 1, fetched := none, hdr := none }
  if qHeadAddr k.desc = 0 then s
  else feWrite s q ⟨qHeadAddr k.desc, leBytes 8 (k.head + 1).toNat, false, 0, []⟩

/-- The 32 bytes of a record (R409). -/
def recordBytes (pos opc kind : Nat) (tag : BitVec 16) (status cls code inst time detail : Nat) : List Byte :=
  leBytes 8 (pos % 2 ^ 32 * 2 ^ 32 + opc * 2 ^ 24 + kind * 2 ^ 16 + tag.toNat) ++
  leBytes 8 (status * 2 ^ 56 + cls * 2 ^ 48 + code * 2 ^ 32 + inst) ++ leBytes 8 time ++ leBytes 8 detail

/-- A record is written at CPLBASE + 32 × (CPLTAIL mod 2^CLOG2), and CPLTAIL rises (R409, R466). -/
def writeRecord (s : State) (q : Nat) (data : List Byte) : State := feWrite s q ⟨0, data, true, 0, []⟩

/-- A record, and the store of its first 8 bytes to a launch's SIGADDR where it has one; both carry the lines of host memory that
the launch's instance has passed on (R410, R411). -/
def signalRecord (s : State) (q : Nat) (data : List Byte) (sig die : Nat) (lines : List Nat) : State :=
  let s := feWrite s q ⟨0, data, true, die, lines⟩
  if sig = 0 then s else feWrite s q ⟨sig, data.take 8, false, die, lines⟩

/-! ## CTRL (R395, R399) -/

/-- Writes kept back are made again, in order, until one faults; one that is dropped at once halts the queue, and the rest stay kept until
CMD 4 (R466). -/
def replayHeld (s : State) (q : Nat) : List HeldWrite → State
  | [] => s
  | w :: t =>
    let s := feWrite s q w
    let k := s.queueAt q
    if k.held.isEmpty && !k.shut then replayHeld s q t
    else s.setQueue q { s.queueAt q with held := (s.queueAt q).held ++ t }

/-- A queue's kept writes are made again (R466). -/
def releaseHeld (s : State) (q : Nat) : State :=
  let k := s.queueAt q
  replayHeld (s.setQueue q { k with held := [] }) q k.held

/-- CMD 1: a valid descriptor under an agreed interface enables the queue. Writes kept back from before stay kept, and an upcall on one of
them holds the queue in Fetch-fault (R466; DEDUCED, assumption log 67). -/
def queueEnable (s : State) (q : Nat) : State :=
  let k := s.queueAt q
  if k.st ≠ .disabled then s
  else if tst s.ifsel 8 && descOk k.desc && offers s 4 8 4 (qVer k.desc) && offers s 12 14 2 (qFmt k.desc) then
    let tok := if k.readFault || k.held.isEmpty then none else k.token
    s.setQueue q { k with tail := 0, head := 0, ctail := 0, chead := 0, st := if tok.isSome then .fetchFault else .active
                          hdr := none, fetched := none, token := tok, readFault := false }
  else s.setQueue q { k with detail := 0x40 }
/-- CMD 2: fetching stops; live instances run on. -/
def queueDisable (s : State) (q : Nat) : State :=
  s.setQueue q { s.queueAt q with st := .disabled, hdr := none, fetched := none }
/-- CMD 3: a halted queue leaves its packet unstarted. -/
def queueSkip (s : State) (q : Nat) : State :=
  if (s.queueAt q).st = .halted then
    let s := headUp s q
    let k := s.queueAt q
    if k.st = .halted then releaseHeld (s.setQueue q { k with st := .active }) q else s
  else s
/-- CMD 4: a halted or frozen queue is active again, and records kept back are written (R466). -/
def queueUnfreeze (s : State) (q : Nat) : State :=
  let k := s.queueAt q
  if k.st = .halted ∨ k.st = .frozen then releaseHeld (s.setQueue q { k with st := .active, hdr := none, fetched := none }) q else s

/-- A write of CTRL: other commands are discarded. -/
def queueCommand (s : State) (q cmd : Nat) : State :=
  match cmd % 8 with
  | 1 => queueEnable s q
  | 2 => queueDisable s q
  | 3 => queueSkip s q
  | 4 => queueUnfreeze s q
  | _ => s

end Sys2Proof.Machine
end

