-- ==== Sys2Proof/Machine/Objects.lean ====
section
/-! DEFINITION. State objects: handles (R301), storage units, sharing and charge (R318-R323), the directory and the
cambium pager's moves (R324-R332), and what a fast-weight operation does to a tile (R275-R277, R93). -/

namespace Sys2Proof.Machine
open Sys2Proof

/-! ## Handles (R284, R301) -/

/-- The number of a handle's object: home chip and object number. -/
def objKey (h : W64) : Nat := (bits h 52 12).toNat * 2 ^ 32 + (bits h 18 32).toNat
/-- A handle's snapshot selector. -/
def selOf (h : W64) : Nat := (bits h 0 18).toNat
/-- The handle of selector `n` of an object. -/
def handleOf (key n : Nat) : W64 := BitVec.ofNat 64 (key / 2 ^ 32 * 2 ^ 52 + key % 2 ^ 32 * 2 ^ 18 + n)
/-- What an instruction that returns a handle writes on failure (R284). -/
def handleFail (status : Nat) : W64 := BitVec.ofNat 64 (0x000C000000000000 + status)

/-- The object and storage units a handle names, for an issuer of partition `part` (R301). -/
def lookHandle (s : State) (part : BitVec 4) (h : W64) : Option (Obj × List Nat) :=
  if bits h 50 2 ≠ 0 ∨ bits h 18 32 = 0 then none
  else
    match s.obj? (objKey h) with
    | none => none
    | some o =>
      if o.part ≠ part then none
      else if selOf h = 0 then some (o, o.live) else (Map.get? o.snaps (selOf h)).map fun u => (o, u)

/-! ## Sizes and storage (R318-R320) -/

/-- d_k. -/
def Obj.dk (o : Obj) : Nat := 2 ^ o.ldk
/-- d_v. -/
def Obj.dv (o : Obj) : Nat := 2 ^ o.ldv
/-- Bytes per element. -/
def Obj.esize (o : Obj) : Nat := if o.half then 2 else 4
/-- Bytes of a tile. -/
def Obj.tileBytes (o : Obj) : Nat := o.dk * o.dv * o.esize
/-- Bytes of an object. -/
def Obj.size (o : Obj) : Nat := o.tiles * o.tileBytes
/-- Live units of an object of a size (R319). -/
def unitsOf (z : Nat) : Nat := ceilDiv z 1024

/-- The chip whose grove or state tier an object is in, or is leaving. -/
def Obj.chip (o : Obj) : Nat := match o.wh with | .resident c _ | .tier c | .moving c .. => c
/-- The states of an object, as the lists of units they reference. -/
def Obj.states (o : Obj) : List (List Nat) := o.live :: o.snaps.map (·.2)
/-- Every state of every object that references a unit, with its object. -/
def refsOf (s : State) (u : Nat) : List Nat :=
  s.objs.flatMap fun e => (e.2.states.filter fun us => us.contains u).map fun _ => e.1

/-- A unit's content. -/
def unitAt (s : State) (u : Nat) : BitVec 8192 := Map.at_ s.units u 0

/-- Units that some state references. -/
def usedUnits (s : State) : List Nat := s.objs.flatMap fun e => e.2.states.flatten
/-- A unit number above every one in use; no program observes which (R319). -/
def freshUnit (s : State) : Nat := (usedUnits s).foldl Nat.max 0 + 1
/-- Bytes of a chip's state tier (R1). -/
def tierSize : Nat := 512000000000
/-- The units that an object's states reference. -/
def Obj.units (o : Obj) : List Nat := o.states.flatten.eraseDups
/-- The units that a chip's state tier holds, or keeps for objects on their way to it. -/
def tierUnits (s : State) (chip : Nat) : Nat :=
  s.objs.foldl (fun n e => n + (match e.2.wh with
    | .tier c => if c = chip then e.2.units.length else 0
    | .moving c g c' g' => if (c = chip && g = 127) || (c' = chip && g' = 127 && e.2.res) then e.2.units.length else 0
    | .resident .. => 0)) 0
/-- Whether a chip's state tier has room for `n` more units. What a tier that is full does to an HNEW or a move into it, the spec
leaves out (DESIGN CHOICE, assumption log 75). -/
def tierRoom (s : State) (chip n : Nat) : Bool := (tierUnits s chip + n) * 1024 ≤ tierSize
/-- `n` new units holding zeros. -/
def newUnits (s : State) (n : Nat) : List Nat := (List.range n).map fun i => freshUnit s + i

/-- Bytes [off, off + n) of a state, as a number. -/
def stateAt (s : State) (us : List Nat) (off n : Nat) : Nat :=
  let k0 := off / 1024
  let k1 := (off + n + 1023) / 1024
  let all := (List.range (k1 - k0)).foldl (fun a i =>
    a + (unitAt s (us.getD (k0 + i) 0)).toNat <<< (8192 * i)) 0
  (all >>> (8 * (off - k0 * 1024))) % 2 ^ (8 * n)

/-- Unit k of the live state of an object written, copied first where another state shares it (R320). -/
def writeUnit (s : State) (key k : Nat) (x : BitVec 8192) : State :=
  match s.obj? key with
  | none => s
  | some o =>
    let u := o.live.getD k 0
    if (refsOf s u).length ≤ 1 then
      { s with units := Map.set s.units u x, badUnits := s.badUnits.filter (· ≠ u) }
    else
      let n := freshUnit s
      ({ s with units := Map.set s.units n x, badUnits := s.badUnits.filter (· ≠ n) }).setObj key { o with live := o.live.set k n }

/-- Bytes [off, off + n) of the live state written. -/
def writeState (s : State) (key off n x : Nat) : State :=
  let k0 := off / 1024
  let k1 := (off + n + 1023) / 1024
  (List.range (k1 - k0)).foldl (fun s i =>
    match s.obj? key with
    | none => s
    | some o =>
      let k := k0 + i
      let old := (unitAt s (o.live.getD k 0)).toNat
      let lo := Nat.max off (k * 1024)
      let hi := Nat.min (off + n) ((k + 1) * 1024)
      let part := (x >>> (8 * (lo - off))) % 2 ^ (8 * (hi - lo))
      writeUnit s key k (BitVec.ofNat 8192 (nput old (8 * (lo - k * 1024)) (8 * (hi - lo)) part))) s

/-! ## Charge (R321-R323, R327) -/

/-- Whether a state other than the live state of an object references a unit. -/
def sharedLive (s : State) (u : Nat) : Bool := 1 < (refsOf s u).length
/-- P: the units that only an object's snapshots reference. -/
def chargeP (s : State) (key : Nat) (o : Obj) : Nat :=
  let us := (o.snaps.flatMap (·.2)).eraseDups
  (us.filter fun u => !o.live.contains u && (refsOf s u).all (· = key)).length
/-- H: the live units that some other state references. -/
def chargeH (s : State) (o : Obj) : Nat := (o.live.filter (sharedLive s)).length
/-- An object's charge C = L + P + H (R321), counted from what is shared now: a write that copies a unit shared with a fork so lowers the
charge of both objects, where R321 has a write that copies leave C unchanged (DESIGN CHOICE, assumption log 88). -/
def charge (s : State) (key : Nat) : Nat :=
  match s.obj? key with
  | none => 0
  | some o => o.live.length + chargeP s key o + chargeH s o

/-- Units renamed. -/
def renameUnits (f : List (Nat × Nat)) (us : List Nat) : List Nat := us.map fun u => (Map.get? f u).getD u

/-- An object's units that another object's states also reference copied to units of its own (R323). -/
def privatise (s : State) (key : Nat) : State :=
  match s.obj? key with
  | none => s
  | some o =>
    let us := (o.states.flatten).eraseDups.filter fun u => (refsOf s u).any (· ≠ key)
    let base := freshUnit s
    let f : List (Nat × Nat) := (List.range us.length).map fun i => (us.getD i 0, base + i)
    let s := { s with
      units := f.foldl (fun (m : Map (BitVec 8192)) (p : Nat × Nat) => Map.set m p.2 (Map.at_ m p.1 0)) s.units
      badUnits := (s.badUnits.filter fun u => !f.any (·.2 = u)) ++ (f.filter fun (p : Nat × Nat) => s.badUnits.contains p.1).map Prod.snd }
    s.setObj key { o with live := renameUnits f o.live, snaps := o.snaps.map fun (e : Nat × List Nat) => (e.1, renameUnits f e.2) }

/-- The charge an object has at the destination of a move (R323, R328). -/
def chargeMoved (s : State) (key : Nat) : Nat := charge (privatise s key) key

/-- The charge an object takes of a grove's room: while resident or leaving, with what is reserved for its operations; while
coming, what is reserved of its charge (R326). -/
def chargeIn (s : State) (chip g key : Nat) (o : Obj) : Nat :=
  match o.wh with
  | .resident c h => if c = chip ∧ h = g then charge s key + o.extra else 0
  | .tier _ => 0
  | .moving c h c' h' =>
    (if c = chip ∧ h = g ∧ h ≠ 127 then charge s key + o.extra else 0) +
      (if c' = chip ∧ h' = g ∧ h' ≠ 127 then (if o.res then chargeMoved s key + o.extra else o.held) else 0)

/-- The charge taken of a grove. -/
def usedCharge (s : State) (chip g : Nat) : Nat := s.objs.foldl (fun n e => n + chargeIn s chip g e.1 e.2) 0
/-- The free charge of a grove: 4,096 units less what is taken (R321). -/
def freeCharge (s : State) (chip g : Nat) : Nat := 4096 - usedCharge s chip g
/-- The charge of the pinned objects resident in a grove. -/
def pinnedCharge (s : State) (chip g : Nat) : Nat :=
  s.objs.foldl (fun n e => if e.2.wh = .resident chip g ∧ e.2.pins ≠ 0 then n + charge s e.1 else n) 0

/-! ## Operations under way (R274) -/

/-- Whether an engine operation names an object. -/
def EngOp.names (o : EngOp) (key : Nat) : Bool := objKey o.handle = key || o.srcs.any fun h => objKey h = key
/-- The operations queued or under way in an engine, oldest first. -/
def Core.engOps (k : Core) : List EngOp := (match k.erun with | some r => [r.1] | none => []) ++ k.eq
/-- Every operation queued or under way in an engine of the package. -/
def allEngOps (s : State) : List EngOp := s.cores.flatMap fun e => e.2.engOps
/-- An operation put in its place by issue order. -/
def insOrd (o : EngOp) : List EngOp → List EngOp
  | [] => [o]
  | h :: t => if o.ord < h.ord then o :: h :: t else h :: insOrd o t
/-- Whether an operation on an object is queued or under way in any engine. -/
def objBusy (s : State) (key : Nat) : Bool := (allEngOps s).any fun o => o.names key

/-! ## Waking (R41) -/

/-- A parked context becomes ready at its resume address; a gang's context on all eight cores (R39). -/
def wake (s : State) (c x : Nat) : State :=
  let one (s : State) (c : Nat) : State :=
    let k := s.ctxAt c x
    if k.st = .parked then
      s.setCtx c x { k with st := .running, wait := .none, ready := true, since := (s.coreAt c).cyc }
    else s
  let k := s.ctxAt c x
  let s := if k.gang then (List.range 8).foldl (fun s i => one s (groveOf c * 8 + i)) s else one s c
  match k.task.bind s.task? with
  | some t => if t.st = .parked then s.setTask (k.task.getD 0) { t with st := .running } else s
  | none => s

/-- Every waiter of an object is woken (R325, R329), and every context that waits there for room that is not yet reserved
(R327): each checks again. -/
def wakeWaiters (s : State) (key : Nat) : State :=
  match s.obj? key with
  | none => s
  | some o =>
    let ws := o.waiters ++ o.roomFor.filter fun w => !w.got
    ws.foldl (fun s w => wake s w.c w.x) (s.setObj key { o with waiters := [], roomFor := o.roomFor.filter (·.got) })

/-- The SPIN and SPOUT jobs of an object finish (R250). -/
def finishMoves (s : State) (key : Nat) : State :=
  { s with ctxs := s.ctxs.map fun e => (e.1, { e.2 with jobs := e.2.jobs.map fun j =>
      match j.op with
      | .spin .. | .spout .. => if objKey (j.args.getD 0 0) = key then { j with moving := false } else j
      | _ => j }) }

/-! ## Moves (R325-R332) -/

/-- The order of eviction: by last use, then by object number; equal numbers of two home chips by the chip (R326). -/
def evictsBefore (e h : Nat × Obj) : Bool :=
  let n (k : Nat) : Nat := k % 2 ^ 32
  e.2.lastUse < h.2.lastUse || (e.2.lastUse = h.2.lastUse && (n e.1 < n h.1 || (n e.1 = n h.1 && e.1 < h.1)))
/-- Insertion in the order of eviction. -/
def insUse (e : Nat × Obj) : Map Obj → Map Obj
  | [] => [e]
  | h :: t =>
    if evictsBefore e h then e :: h :: t else h :: insUse e t

/-- The objects that the pager may evict from a grove, in ascending last use and object number (R326). -/
def candidates (s : State) (chip g excl : Nat) : List Nat :=
  let cs := s.objs.filter fun e =>
    e.2.wh = .resident chip g && e.2.pins = 0 && !objBusy s e.1 && e.1 ≠ excl
  (cs.foldl (fun a e => insUse e a) []).map (·.1)

/-- Whether a move's room can be reserved now (R326). -/
def roomReady (s : State) (key : Nat) : Bool :=
  match s.obj? key with
  | none => false
  | some o =>
    match o.wh with
    | .moving _ _ c g => !o.res && (if g = 127 then tierRoom s c o.units.length
        else decide (chargeMoved s key + o.extra + usedCharge s c g ≤ 4096 + o.held))
    | _ => false

/-- The charge that moves under way will free in a grove: of objects that have room where they go. -/
def leavingCharge (s : State) (chip g : Nat) : Nat :=
  s.objs.foldl (fun n e =>
    match e.2.wh with
    | .moving c h _ _ => if c = chip ∧ h = g ∧ (e.2.res ∨ roomReady s e.1) then n + charge s e.1 else n
    | _ => n) 0
/-- The room that an object waits for in a grove: its charge there for a move that has none, and every raise of its charge
that has none (R326, R327). -/
def waitsFor (s : State) (chip g key : Nat) (o : Obj) : Nat :=
  match o.wh with
  | .moving _ _ c h => if c = chip ∧ h = g ∧ !o.res ∧ h ≠ 127 then chargeMoved s key - o.held else 0
  | .resident c h => if c = chip ∧ h = g then o.roomFor.foldl (fun n w => if w.got then n else n + w.need) 0 else 0
  | .tier _ => 0
/-- The charge that is waited for in a grove. -/
def waitingCharge (s : State) (chip g : Nat) : Nat := s.objs.foldl (fun n e => n + waitsFor s chip g e.1 e.2) 0

/-- An object whose move is accepted: room that a context has reserved for a raise here, and not yet used, is given up, and the
context checks again where the object then is (R327, R329). -/
def Obj.leaving (o : Obj) : Obj :=
  { o with
    roomFor := o.roomFor.filter (!·.got)
    extra := o.extra - o.roomFor.foldl (fun n w => if w.got then n + w.need else n) 0
    held := 0 }
/-- Objects evicted, in the order of `candidates`, until room for a charge is free or on its way (R326). -/
def evictGo (s : State) (chip g need : Nat) : List Nat → State
  | [] => s
  | k :: t =>
    if need + usedCharge s chip g ≤ 4096 + leavingCharge s chip g then s
    else
      match s.obj? k with
      | some o =>
        let s := s.setObj k { o.leaving with wh := .moving chip g chip 127, res := tierRoom s chip o.units.length }
        let s := if chip = s.chip then
          s.setGrove g { s.groveAt g with evict := (s.groveAt g).evict + 1 } else s
        evictGo s chip g need t
      | none => evictGo s chip g need t

/-- An object that waits to come into a grove reserves what room is free there, up to its charge (R326). -/
def holdRoom (s : State) (chip g key : Nat) : State :=
  match s.obj? key with
  | none => s
  | some o =>
    match o.wh with
    | .moving _ _ c h =>
      if c = chip ∧ h = g ∧ h ≠ 127 ∧ !o.res then
        s.setObj key { o with held := Nat.min (chargeMoved s key) (o.held + freeCharge s chip g) }
      else s
    | _ => s
/-- Room sought in a grove for the charge that is waited for there, of object `key` among others (R326, R327). -/
def evictFor (s : State) (chip g key : Nat) : State :=
  let s := evictGo s chip g (waitingCharge s chip g) (candidates s chip g key)
  if s.objs.any fun e => e.1 ≠ key && e.2.held ≠ 0 && waitsFor s chip g e.1 e.2 ≠ 0 then s else holdRoom s chip g key

/-- Room sought for an object's move, in a grove or in the state tier (R325, R326). -/
def seekRoom (s : State) (chip g key : Nat) : State :=
  if g ≠ 127 then evictFor s chip g key
  else
    match s.obj? key with
    | some o => s.setObj key { o with res := tierRoom s chip o.units.length }
    | none => s
/-- A move of an object to a grove accepted: room is sought there (R325, R326). -/
def acceptMove (s : State) (key chip g : Nat) : State :=
  match s.obj? key with
  | none => s
  | some o =>
    match o.wh with
    | .resident c h => seekRoom (s.setObj key { o.leaving with wh := .moving c h chip g, res := false }) chip g key
    | .tier c => seekRoom (s.setObj key { o.leaving with wh := .moving c 127 chip g, res := false }) chip g key
    | .moving .. => s

/-- The core that stands for a grove of another chip among an object's waiters. -/
def awayCore (chip g : Nat) : Nat := (chip + 1) * 768 + g * 8
/-- The chip and grove of a waiter (R325, R332). -/
def Waiter.place (s : State) (w : Waiter) : Nat × Nat :=
  if w.c < 768 then (s.chip, groveOf w.c) else (w.c / 768 - 1, groveOf (w.c % 768))
/-- A touch of an object by context x of core c that failed its check: the context waits on the object, and a move
is accepted where R325 accepts one. An object that has come to that grove meanwhile is waited for no longer (R329). -/
def touch (s : State) (key c x : Nat) : State :=
  match s.obj? key with
  | none => s
  | some o =>
    let w : Waiter := ⟨c, x, 0, false⟩
    let dest := w.place s
    let s' := s.setObj key { o with waiters := o.waiters ++ [w] }
    match o.wh with
    | .resident chip h => if (chip, h) = dest then wake s c x else if o.pins ≠ 0 then s' else acceptMove s' key dest.1 dest.2
    | .tier _ => acceptMove s' key dest.1 dest.2
    | .moving .. => s'

/-- Where an object is, seen from a grove of a chip that needs it: `none` when it is resident there (R274). -/
def absentAt (s : State) (key chip g : Nat) : Option Nat :=
  match s.obj? key with
  | none => none
  | some o =>
    match o.wh with
    | .resident c h => if c = chip ∧ h = g then none else some 2
    | .tier _ => some 1
    | .moving .. => some 3
/-- Where an object is, seen from a grove of this chip (R274). -/
def absentCode (s : State) (key g : Nat) : Option Nat := absentAt s key s.chip g

/-- What still waits for room in a grove seeks it again: an operation has ended, pins have dropped or units have become free
(R326). -/
def seekAgain (s : State) (chip g : Nat) : State :=
  (s.objs.filter fun e => waitsFor s chip g e.1 e.2 ≠ 0).foldl (fun s e => evictFor s chip g e.1) s

/-- A move whose object has come to a charge that its destination does not hold beside the others there: its room is reserved in part, and
the rest is sought (R321, R326). -/
def recheckMove (s : State) (key : Nat) : State :=
  match s.obj? key with
  | none => s
  | some o =>
    match o.wh with
    | .moving _ _ c g =>
      if !o.res then s
      else if g = 127 then (if (tierUnits s c) * 1024 ≤ tierSize then s else s.setObj key { o with res := false })
      else if usedCharge s c g ≤ 4096 then s
      else evictFor (holdRoom (s.setObj key { o with res := false, held := 0 }) c g key) c g key
    | _ => s

/-- Whether a move can complete now: its room is reserved, no operation on the object is under way (R274), and a port carries
what goes to or comes from another package (R332). -/
def moveReady (s : State) (key : Nat) : Bool :=
  match s.obj? key with
  | none => false
  | some o => match o.wh with
    | .moving c _ c' _ => o.res && !objBusy s key && (c = c' || s.ports.any fun e => e.2.st = .up)
    | _ => false

/-- A move completes: private copies, the object in its new place, waiters woken, SPIN and SPOUT done, and what waits for room in the
grove that it left, or in that which it has come to, where it can be evicted in turn, seeks it (R323, R325, R326). -/
def moveDone (s : State) (key : Nat) : State :=
  match s.obj? key with
  | none => s
  | some o =>
    match o.wh with
    | .moving c h c' g =>
      let s := (privatise s key).count fun n => { n with
        pgin := if h = 127 then n.pgin + 1 else n.pgin
        pgout := if g = 127 then n.pgout + 1 else n.pgout
        pggrove := if h ≠ 127 ∧ g ≠ 127 ∧ c = c' then n.pggrove + 1 else n.pggrove
        pgchip := if h ≠ 127 ∧ g ≠ 127 ∧ c ≠ c' then n.pgchip + 1 else n.pgchip }
      let o := (s.obj? key).getD o
      let wh := if g = 127 then Where.tier c' else .resident c' g
      let use := if g = 127 then o.lastUse else s.time.toNat
      let s := s.setObj key { o with wh, res := false, held := 0, lastUse := use }
      let s := finishMoves (wakeWaiters s key) key
      let s := if h = 127 then s else seekAgain s c h
      if g = 127 then s else seekAgain s c' g
    | _ => s

/-- A move abandoned for lack of a path: the object is where it was (R437), and what waits for room at either end seeks it
(R326). -/
def moveAbandon (s : State) (key : Nat) : State :=
  match s.obj? key with
  | none => s
  | some o =>
    match o.wh with
    | .moving c h c' g =>
      let wh := if h = 127 then Where.tier c else .resident c h
      let s := finishMoves (wakeWaiters (s.setObj key { o with wh, res := false, held := 0 }) key) key
      let s := if h = 127 then s else seekAgain s c h
      if g = 127 then s else seekAgain s c' g
    | _ => s

/-- An object freed, with the bindings to it left as they are (R303). -/
def freeObj (s : State) (key : Nat) : State := { s with objs := Map.del s.objs key }

/-- A context's place among the contexts that wait for room, and its reservation, given up. -/
def dropRoom (s : State) (c x : Nat) : State :=
  { s with objs := s.objs.map fun e =>
      let (mine, rest) := e.2.roomFor.partition fun w => w.c = c && w.x = x
      let held := mine.foldl (fun n w => if w.got then n + w.need else n) 0
      (e.1, { e.2 with roomFor := rest, extra := e.2.extra - held
                       waiters := e.2.waiters.filter fun w => !(w.c = c && w.x = x) }) }

/-! ## Fast-weight arithmetic (R90, R93, R276) -/

/-- Elements as f32 bits, row by row: W[i][j] is element i × d_k + j. -/
abbrev FwTile := List Nat

/-- Tile t of a state, widened to f32 (R318). -/
def fwLoad (s : State) (o : Obj) (us : List Nat) (t : Nat) : FwTile :=
  let x := stateAt s us (t * o.tileBytes) o.tileBytes
  (List.range (o.dk * o.dv)).map fun n =>
    let e := (x >>> (8 * o.esize * n)) % 2 ^ (8 * o.esize)
    if o.half then e * 65536 else e
/-- A tile as stored. -/
def fwPack (o : Obj) (w : FwTile) : Nat := packNat o.esize (w.map fun e => if o.half then e / 65536 else e)

/-- An exact result rounded to the tile's format and widened to f32 (R276). -/
def fwRound (half : Bool) (r : FRes) : Nat × FFlags :=
  if half then let (x, f) := finish .bf16 .rne r; (x * 65536, f) else finish .f32 .rne r

/-- dot(M, z, i): blocks of min(32, d_k), an f32 accumulator from +0 (R276). -/
def fwDot (dk : Nat) (w : FwTile) (z : Nat → Nat) (i : Nat) : Nat × FFlags :=
  mmaElem .f32 .f32 dk (Nat.min 32 dk) (fun j => w.getD (i * dk + j) 0) z 0

/-- FWREAD. -/
def fwRead (dk dv : Nat) (w : FwTile) (q : Nat → Nat) : List Nat × FFlags :=
  let r := (List.range dv).map fun i => fwDot dk w q i
  (r.map (·.1), joinFlags (r.map (·.2)))
/-- FWFADE. -/
def fwFade (half : Bool) (lam : Nat) (w : FwTile) : FwTile × FFlags :=
  let r := w.map fun e => fwRound half (mulV (unpack .f32 lam) (unpack .f32 e))
  (r.map (·.1), joinFlags (r.map (·.2)))
/-- FWWRITE. -/
def fwWrite (half hebb : Bool) (dk dv : Nat) (beta : Nat) (x v : Nat → Nat) (w : FwTile) : FwTile × FFlags :=
  let b := (List.range dv).map fun i =>
    if hebb then fmulBits .f32 beta (v i)
    else
      let (d, f1) := fwDot dk w x i
      let (e, f2) := fsubBits .f32 (v i) d
      let (r, f3) := fmulBits .f32 beta e
      (r, f1 ||| f2 ||| f3)
  let r := (List.range (dv * dk)).map fun n =>
    fwRound half (fmaV .rne (unpack .f32 (b.getD (n / dk) (0, 0)).1) (unpack .f32 (x (n % dk))) (unpack .f32 (w.getD n 0)))
  (r.map (·.1), joinFlags (b.map (·.2)) ||| joinFlags (r.map (·.2)))
/-- FWSTEP: read before or after, fade, write; the output is empty for a chunk token without a read. -/
def fwStep (half hebb post noread : Bool) (dk dv : Nat) (beta lam : Nat) (q x v : Nat → Nat) (w : FwTile) :
    FwTile × List Nat × FFlags :=
  let (y0, f0) := if !noread && !post then fwRead dk dv w q else ([], 0)
  let (w1, f1) := fwFade half lam w
  let (w2, f2) := fwWrite half hebb dk dv beta x v w1
  let (y1, f3) := if !noread && post then fwRead dk dv w2 q else ([], 0)
  (w2, y0 ++ y1, f0 ||| f1 ||| f2 ||| f3)

/-- Element n of HAVG (R93). -/
def havgElem (half : Bool) (es : List Nat) : Nat × FFlags :=
  match es with
  | [] => (0, 0)
  | e :: t =>
    if t.isEmpty then (e, 0)
    else
      let r := t.foldl (fun a x => let (y, f) := faddBits .f32 a.1 x; (y, a.2 ||| f)) (e, (0 : FFlags))
      let n := (cvtIF .f32 .rne (es.length : Nat)).1
      let (y, f) := if half then
          let (b, g) := divR .bf16 .rne (unpack .f32 r.1) (unpack .f32 n); (b * 65536, g)
        else fdivBits .f32 r.1 n
      (y, r.2 ||| f)

/-- Rows of f32 elements over a tile: y from row `row`, its last row filled with +0, as the bits written and their
mask (R275). -/
def fwOutput (row : Nat) (y : List Nat) : TileW × TileW :=
  let n := ceilDiv y.length 64 * 64
  let m : TileW := BitVec.ofNat 131072 ((2 ^ (32 * n) - 1) <<< (row * 2048))
  (BitVec.ofNat 131072 (packNat 4 y <<< (row * 2048)), m)

/-- Element e of the vector that starts at the n-th listed register (R275). -/
def vecElem (vs : List VecW) (n e : Nat) : Nat := lane 4 (vs.getD (n + e / 128) 0) (e % 128)

/-- The cycles an operation takes at most from its start (R281, R304). -/
def fwCycles (i : Instr) (dk dv tiles : Nat) : Nat :=
  let c (m : Nat) : Nat := ceilDiv (m * dk * dv) 1024
  match i with
  | .fwwrite hebb _ _ => 24 + c (if hebb then 1 else 2)
  | .fwstep hebb .. => 24 + c (if hebb then 3 else 4)
  | .fwchunk hebb _ _ _ _ _ _ n noread =>
    24 + (n.val + 1) * c ((if hebb then 3 else 4) - (if noread then 1 else 0))
  | .hroll .. => 24 + ceilDiv (tiles * dk * dv) 1024
  | .havg _ _ _ n _ => 24 + ceilDiv ((n.val + 1) * tiles * dk * dv) 1024
  | .hfork .. | .hsnap .. => 24
  | _ => 24 + c 1

end Sys2Proof.Machine
end

