-- ==== Sys2Proof/Machine/Perform.lean ====
section
/-! DEFINITION. Accesses performed in the memory order (R120-R136): one single-copy-atomic piece of one access of the
context that acts at a time, in the context's program order. -/

namespace Sys2Proof.Machine
open Sys2Proof

/-- What an attempt to perform a piece of an access comes to. -/
inductive Perf
  | done (s : State)
  | wait
  | bad (cls code : Nat)

/-! ## Bytes as the task that acts sees them (R139) -/

/-- The chain depth of the task that acts (R343); 0 outside tasks. -/
def State.depth (s : State) : Nat := match s.myTask with | some t => t.depth | none => 0

/-- The bytes at a place, a staged task's own tentative bytes before memory's (R139). -/
def readTask (s : State) (p : Place) (n : Nat) : List Byte :=
  match p with
  | .dev pa =>
    match s.myTask with
    | some t => (List.range n).map fun i => (Map.get? t.tent (pa + i)).getD (s.mem.read (pa + i))
    | none => s.mem.readN pa n
  | _ => readPlace s p n

/-- The poison that a read of `n` bytes at a place meets: none where a staged task has written them all itself, since it reads its own
tentative versions (R139, R456). -/
def taskPoison (s : State) (p : Place) (n : Nat) : Option (Nat × Nat) :=
  match p with
  | .dev pa => if s.myTask.any fun t => (List.range n).all fun i => (Map.get? t.tent (pa + i)).isSome then none else poisonOf s p
  | _ => poisonOf s p

/-- Whether a write of the task that acts is held as a tentative version (R36, R139). A staged task is never pre-empted
(R373), so no routine of R371 runs in one. -/
def State.tentative (s : State) (p : Place) : Bool :=
  match p with
  | .dev _ => s.staged
  | _ => false

/-- The context whose set of host lines an access of the context that acts belongs to: what an attempt has left behind writes and
releases for its context (R65, R134). -/
def State.lineCtx (s : State) : Nat := if s.ctx < 9 then s.ctx else s.me.home
/-- The lines of host memory that a context has written since its last system release. -/
def State.myLines (s : State) : List Nat := (s.ctxAt s.core s.lineCtx).hostLines
/-- The set of host lines becomes another. -/
def State.setLines (s : State) (ls : List Nat) : State :=
  s.setCtx s.core s.lineCtx { s.ctxAt s.core s.lineCtx with hostLines := ls }
/-- The lines of host memory that a context has written since its last system release gain one (R134). -/
def noteHost (s : State) (p : Place) : State :=
  match p with
  | .host a => if s.myLines.contains (a / 64) then s else s.setLines (s.myLines ++ [a / 64])
  | _ => s

/-- Whether the context that acts is what is left of an attempt of a staged task, which leaves no write anywhere (R42, R43, R140). -/
def State.discards (s : State) : Bool := match s.me.ghost with | some (_, staged) => staged | none => false
/-- The full-empty bit of a granule set or cleared by the task that acts (R113, R114). -/
def markFull (s : State) (p : Place) (b : Bool) : State := if s.discards then s else setFull s p b
/-- The context that acts meets the parties without an LTS: it goes on at the later of its time and theirs, and so do they. A release or
an acquire beyond the package does so, since what it orders lies beyond this package's timestamps too (R131; DEDUCED, assumption
log 97). -/
def meetOut (s : State) : State :=
  let t := Nat.max s.me.lts.toNat s.outTs
  { s.setMe { s.me with lts := BitVec.ofNat 64 t } with outTs := t }
/-- Bytes written by the task that acts: tentative in a staged task, else performed at the home (R36, R122). -/
def writeTask (s : State) (p : Place) (bs : List (Option Byte)) : State :=
  match s.discards, s.tentative p, p with
  | true, _, _ => s
  | false, true, .dev pa =>
    match s.me.task, s.myTask with
    | some k, some t => s.setTask k { t with tent := setBytes t.tent pa bs }
    | _, _ => s
  | false, true, _ => s
  | false, false, _ =>
    let (s, ts) := writePlace s p bs s.depth s.me.lts.toNat
    noteHost (s.setMe { s.me with lts := BitVec.ofNat 64 ts }) p
/-- One access of a write of several accesses, that of operation `slot` of the bundle of issue order `ord` (R456). -/
def writePart (s : State) (p : Place) (bs : List (Option Byte)) (ord slot : Nat) : State :=
  let t := writeTask s p bs
  if s.discards || s.tentative p then t else mend t p bs (ctxKey s.core s.ctx, ord, slot)

/-- A read by the context that acts: a line's lease, and logical time (05, "Logical time"). -/
def touchTask (s : State) (p : Place) : State :=
  let (s, l) := touchPlace s p s.me.lts.toNat
  s.setMe { s.me with lts := BitVec.ofNat 64 l }

/-! ## Leased lines (05, "Logical time"; R107, R124) -/

/-- The lines that a grove's leased cache holds: grove memory above the scratchpad (R107). -/
def Grove.leaseCap (k : Grove) : Nat := (grovePitch - k.size) / 128
/-- The cycles of SYS.TIME for which a line is served (R124). -/
def leaseLife : Nat := 1024
/-- The line of the grove's leased cache that a load of the context that acts hits: one whose lease holds at its timestamp. Whether
the cache still holds a line of its lease is the device's (DESIGN CHOICE, assumption log 19). -/
def leaseHit (s : State) (p : Place) : Option Lease :=
  match p with
  | .dev pa =>
    let l := s.me.lts.toNat
    if s.free (s.slotKey 7100) % 2 = 0 then none
    else s.myGrove.leased.find? fun e =>
      e.line = pa / 128 && e.wts ≤ l && l ≤ e.rts && s.time.toNat < e.since + leaseLife
  | _ => none
/-- The line of a load that went to its home slice enters the grove's leased cache, in place of an older copy, unless one of its blocks
is poisoned (R456; which lines the cache holds is the device's, assumption log 19). -/
def enterLease (s : State) (p : Place) : State :=
  match p with
  | .dev pa =>
    if (poisonOf s (.dev (128 * (pa / 128)))).isSome || (poisonOf s (.dev (128 * (pa / 128) + 64))).isSome then s
    else
    let k := s.myGrove
    let (w, r) := lineTs s pa
    let e : Lease := ⟨pa / 128, w, r, s.time.toNat, ofLe 1024 (s.mem.readN (128 * (pa / 128)) 128)⟩
    s.setGrove s.g { k with leased := (e :: k.leased.filter fun f => f.line ≠ e.line).take k.leaseCap }
  | _ => s
/-- The bytes at a place as a leased line holds them, beneath the tentative bytes of the task that acts. -/
def leasedBytes (s : State) (e : Lease) (p : Place) (n : Nat) : List Byte :=
  match p with
  | .dev pa => (List.range n).map fun i =>
      ((s.myTask.bind fun t => Map.get? t.tent (pa + i))).getD (byteOf e.data (pa % 128 + i))
  | _ => []
/-- A load of the context that acts performed: from a leased line, or at its home; or the poison that it meets there. -/
def loadAt (s : State) (p : Place) (n : Nat) : Except (Nat × Nat) (State × List Byte) :=
  match leaseHit s p with
  | some e => .ok (s, leasedBytes s e p n)
  | none =>
    match taskPoison s p n with
    | some e => .error e
    | none => .ok (enterLease (touchTask s p) p, readTask s p n)

/-! ## Release and acquire (R129, R131, R134) -/

/-- Whether an ordering releases. -/
def relOrd : Ordering4 → Bool | .rel | .ar => true | _ => false
/-- Whether an ordering acquires. -/
def acqOrd : Ordering4 → Bool | .acq | .ar => true | _ => false
/-- Whether a scope reaches beyond the package. -/
def wideScope : Scope → Bool | .domain | .system => true | _ => false

/-- The context that acts releases or acquires at a scope: beyond the package it meets the parties without an LTS. -/
def meetScope (s : State) (sc : Scope) : State := if wideScope sc then meetOut s else s

/-- A system-scope release moves the context's lines to the signal's pending set (R134, step 2). That the set is held by the L2
of the die of the releasing context, and counts towards that die's 256, the spec does not say (DESIGN CHOICE, assumption
log 72). -/
def sysRelease (s : State) (p : Place) : State :=
  (pendLines s s.die (sigKey p) s.myLines).setLines []

/-- An acquire of a signal at system scope writes its pending lines back (R134, step 3). -/
def sysAcquire (s : State) (p : Place) : State :=
  { s with dies := s.dies.map fun e => (e.1, { e.2 with pending := e.2.pending.filter fun x => x.1 ≠ sigKey p }) }

/-- An acquire of every signal of a 64-byte line (R134, step 3). -/
def lineAcquire (s : State) (p : Place) : State :=
  let k := sigKey p
  let lo := k - 4 * (k / 4 % 8)
  { s with dies := s.dies.map fun e => (e.1, { e.2 with
    pending := e.2.pending.filter fun x => !(lo ≤ x.1 && x.1 < lo + 32 && x.1 % 4 = k % 4) }) }

/-- What a release waits for besides earlier accesses: every earlier job's writes, and beyond the package the
delivery of the context's contributions (R129, R131). -/
def releaseReady (s : State) (ord : Nat) (sc : Scope) : Bool :=
  (s.me.jobs.all fun j => ord ≤ j.ord || j.finished) &&
    (!wideScope sc || s.redWins.all fun w => w.2.held.all fun c => c.c ≠ ctxKey s.core s.ctx)

/-! ## Atomics (R235, R236) -/

/-- The new value of an atomic on `n` bytes, from the old value o, the operand y and ACAS's new value v; `none` where
ACAS fails and writes nothing. -/
def rmw (a : AtomKind) (n o y v : Nat) : Option Nat :=
  let w := 8 * n
  let (o, y, v) := (o % 2 ^ w, y % 2 ^ w, v % 2 ^ w)
  match a with
  | .add => some ((o + y) % 2 ^ w)
  | .min => some (if sintOf w y < sintOf w o then y else o)
  | .max => some (if sintOf w o < sintOf w y then y else o)
  | .minn => some (Nat.min o y)
  | .maxn => some (Nat.max o y)
  | .and => some (o &&& y)
  | .or => some (o ||| y)
  | .xor => some (o ^^^ y)
  | .xchg => some y
  | .cas => if o = y then some v else none
  | .fadd => some (faddBits (if n = 8 then .f64 else .f32) o y).1

/-- The reduction window that an address lies in, if any (R436). -/
def redWindow (s : State) (p : Place) : Option Nat :=
  match p with
  | .dev pa => (s.redWins.find? fun e => e.2.home = s.chip && e.2.base ≤ pa && pa < e.2.base + e.2.len).map (·.1)
  | .remote chip pa => (s.redWins.find? fun e => e.2.home = chip && e.2.base ≤ pa && pa < e.2.base + e.2.len).map (·.1)
  | _ => none

/-- A contribution held by the switches (R132, R436). -/
def contribute (s : State) (n : Nat) (c : Contribution) : State :=
  match Map.get? s.redWins n with
  | some w => { s with redWins := Map.set s.redWins n { w with held := w.held ++ [c] } }
  | none => s

/-! ## The acting context's accesses -/

/-- An access of the context replaced by another, or dropped. -/
def Ctx.putAcc (k : Ctx) (a : Acc) (b : Option Acc) : Ctx :=
  { k with accs := k.accs.filterMap fun x => if x.ord = a.ord ∧ x.slot = a.slot then b else some x }

/-- A result whose data has arrived is to land no earlier than now and no later than its landing cycle, or at once in
a freeze (R220). -/
def landData (s : State) (wr : Wr) (ord slot bound : Nat) (squash : Bool) : State :=
  let now := s.myCore.cyc
  let land := if bound ≤ now then now else now + 1 + s.free (7000 + slot) % (bound - now)
  let s := s.setMe { s.me with inflight := s.me.inflight ++ [⟨wr, land, 0, squash, ord, slot, true, none⟩] }
  s.landDue s.core s.ctx

/-- An access done, its result on its way to land. -/
def accDone (s : State) (a : Acc) (wr : Option Wr) : State :=
  let s := s.setMe (s.me.putAcc a none)
  match wr with
  | some w => landData s w a.ord a.slot a.bound a.squash
  | none => s

/-- Piece k of an access done; `op` is the operation after it. -/
def nextPiece (s : State) (a : Acc) (k : Nat) (op : AccOp) : State × Acc :=
  let a' := { a with op := op, pieces := a.pieces.filter fun p => p.idx ≠ k }
  (s.setMe (s.me.putAcc a (some a')), a')

/-- Bytes placed at an offset of a register. -/
def putBytes {w : Nat} (x : BitVec w) (off : Nat) (bs : List Byte) : BitVec w :=
  let m : BitVec w := BitVec.ofNat w ((2 ^ (8 * bs.length) - 1) <<< (8 * off))
  (x &&& ~~~m) ||| (BitVec.ofNat w (leNat bs <<< (8 * off)))

/-- Whether an access is a .wf store. -/
def Acc.isWf (a : Acc) : Bool :=
  match a.op with
  | .store (some .wf) _ | .vstore (some .wf) .. => true
  | _ => false
/-- What stands for the issue order of a .wf store while it is performed, within its bundle's hold and after. -/
def State.wfOrd (s : State) : Nat := 2 ^ 64 + s.me.bundleNo
/-- What names an operation among the writers of a block (R456). -/
def Acc.writer (s : State) (a : Acc) : Nat := if a.isWf then s.wfOrd else a.ord

/-- Whether an access writes for R136. -/
def AccOp.writes : AccOp → Bool
  | .store .. | .vstore .. | .atomic .. | .arrive .. | .binit .. => true
  | _ => false

/-- A loaded value extended to 64 bits (R223). -/
def extend (z : Bool) (n : Nat) (x : Nat) : W64 :=
  if z then BitVec.ofNat 64 x else BitVec.ofInt 64 (sintOf (8 * n) x)

/-- The bytes of a vector-store granule that its mask selects (R227). -/
def maskedBytes (x : VecW) (k : MaskW) (off n : Nat) : List (Option Byte) :=
  (List.range n).map fun i => if k.getLsbD (off + i) then some (byteOf x (off + i)) else none

/-- A loaded register: loaded bytes where active, the base elsewhere (R198). -/
def mergeVec (base got : VecW) (k : MaskW) : VecW := let m := bitMaskOf k; (base &&& ~~~m) ||| (got &&& m)

/-- A qualified load's wait and effect on the granule's bit (R114). -/
def feLoad (s : State) (fe : Option FeLoad) (p : Place) : Option State :=
  match fe with
  | none => some s
  | some q => if isFull s p then some (markFull s p (q = .w)) else none
/-- A qualified store's effect on the granule's bit; .wf waits while it is full (R114). -/
def feStore (s : State) (fe : Option FeStore) (p : Place) : Option State :=
  match fe with
  | none => some s
  | some .f => some (markFull s p true)
  | some .e => some (markFull s p false)
  | some .wf => if isFull s p then none else some (markFull s p true)

/-- A barrier object's fields (R239): P, ARR, N. -/
def barrierOf (bs : List Byte) : Nat × Nat × Nat :=
  (leNat (bs.take 4), leNat ((bs.drop 4).take 4), leNat ((bs.drop 8).take 4))

/-- ARRIVE's new P and ARR (R240). -/
def barrierArrive (p a n : Nat) : Nat × Nat :=
  let a' := (a + 1) % 2 ^ 32
  if n ≤ a' then ((p + 1) % 2 ^ 32, 0) else (p, a')

/-- Whether WAITB is done for phase p and token q (R142). -/
def barrierDone (p q : Nat) : Bool := let d := (p + 2 ^ 32 - q % 2 ^ 32) % 2 ^ 32; 1 ≤ d && d < 2 ^ 31

/-- Whether a piece of an access, performed now, writes at its place in memory: not an ACAS that fails, nor a contribution that the
switches hold, nor a staged task's (R36, R132, R235). -/
def Acc.writesNow (s : State) (a : Acc) (p : Piece) : Bool :=
  a.op.writes && !s.tentative p.pl &&
    (match a.op with
     | .atomic k _ _ y n d _ =>
       !(d.isNone && (redWindow s p.pl).isSome) && (rmw k p.len (leNat (readTask s p.pl p.len)) y.toNat n.toNat).isSome
     | _ => true)

/-- What marks the slot of granules of an operation that have been dropped beside others of it. -/
def lostMark : Nat := 256
/-- Whether a granule of a vector access has been dropped for lack of a path, which leaves its register unwritten (R434, R456). -/
def lostPart (s : State) (a : Acc) : Bool := s.me.accs.any fun e => e.ord = a.ord && e.slot = a.slot + lostMark
/-- Whether an operation is an LDG, which takes no place in the memory order (R225). -/
def AccOp.isLdg : AccOp → Bool | .ldg .. => true | _ => false

/-- Whether the piece of an access must wait: for grove memory, its controller or link, an earlier job's footprint,
or pool space (R108, R136, R351, R428, R434, R459). -/
def pieceWaits (s : State) (a : Acc) (p : Piece) : Bool :=
  drainBlocks s s.g p.pl || placeWaits s p.pl ||
    (!a.op.isLdg && (blockingJob s a.ord p.va p.len a.op.writes).isSome) ||
    (a.writesNow s p && placeHeld s p.pl)

/-- An atomic's read-modify-write at its home, with its release and acquire (R128, R134, R235). -/
def atomicHome (s : State) (p : Piece) (kind : AtomKind) (o : Ordering4) (sc : Scope) (y n : W64) : State :=
  let old := leNat (readTask s p.pl p.len)
  let s := if o = .rlx then s else meetScope s sc
  let s := if relOrd o && sc = .system then sysRelease s p.pl else s
  let s := match rmw kind p.len old y.toNat n.toNat with
    | some v => writeTask s p.pl ((leBytes p.len v).map some)
    | none => touchTask s p.pl
  if acqOrd o && sc = .system then sysAcquire s p.pl else s

/-- An atomic performed at its home, or held by the switches (R128, R132, R235, R395). -/
def performAtomic (s : State) (a : Acc) (p : Piece) (kind : AtomKind) (o : Ordering4) (sc : Scope) (y n : W64)
    (d : Option SReg) : Perf :=
  if relOrd o && !releaseReady s a.ord sc then .wait
  else
    match d, redWindow s p.pl with
    | none, some w =>
      let s := if o = .rlx then s else meetScope s sc
      let s := if relOrd o && sc = .system then sysRelease s p.pl else s
      .done (accDone (contribute s w ⟨kind, p.len, p.pl.addr, y.toNat, ctxKey s.core s.ctx, s.time.toNat, s.asid, n.toNat, a.ord,
        acqOrd o, acqOrd o && sc = .system⟩) a none)
    | _, _ =>
      let old := leNat (readTask s p.pl p.len)
      .done (accDone (atomicHome s p kind o sc y n) a (d.map fun r => .s r (BitVec.ofNat 64 old)))

/-- One piece of an access of the context that acts, performed; ARRIVE is a release of R129 at every scope (R143;
DEDUCED, assumption log 65). -/
def performPiece (s : State) (a : Acc) (k : Nat) : Perf :=
  match a.pieces.find? (fun p => p.idx = k) with
  | none => .wait
  | some p =>
    if pieceWaits s a p then .wait
    else
      match a.op with
      | .load z fe d =>
        match feLoad s fe p.pl with
        | none => .wait
        | some s' =>
          match loadAt s' p.pl p.len with
          | .error (c, e) => .bad c e
          | .ok (s', bs) => .done (accDone s' a (some (.s d (extend z p.len (leNat bs)))))
      | .store fe x =>
        match feStore s fe p.pl with
        | none => .wait
        | some s' =>
          match p.pl with
          | .bell q 0x28 => .done (accDone (queueCommand (touchTask s p.pl) q x.toNat) a none)
          | _ => .done (accDone (writeTask s' p.pl ((leBytes p.len x.toNat).map some)) a none)
      | .vload fe d base m got =>
        match feLoad s fe p.pl with
        | none => .wait
        | some s' =>
          match loadAt s' p.pl p.len with
          | .error (c, e) => .bad c e
          | .ok (s', bs) =>
            let got := putBytes got (p.idx * p.len) bs
            let (s, a) := nextPiece s' a k (.vload fe d base m got)
            .done (if a.pieces.isEmpty then accDone s a (if lostPart s a then none else some (.v d (mergeVec base got m))) else s)
      | .vstore fe x m =>
        match feStore s fe p.pl with
        | none => .wait
        | some s' =>
          let (s, a) := nextPiece (writePart s' p.pl (maskedBytes x m (p.idx * p.len) p.len) (a.writer s) a.slot) a k a.op
          .done (if a.pieces.isEmpty then accDone s a none else s)
      | .atomic kind o sc y n d _ =>
        match poisonOf s p.pl with
        | some (c, e) => .bad c e
        | none => performAtomic s a p kind o sc y n d
      | .arrive sc d =>
        match poisonOf s p.pl with
        | some (c, e) => .bad c e
        | none =>
          if !releaseReady s a.ord sc then .wait
          else
            let (q, r, n) := barrierOf (readTask s p.pl 16)
            let (q', r') := barrierArrive q r n
            let s := meetScope s sc
            let s := if sc = .system then sysRelease s p.pl else s
            let s := writeTask s p.pl ((leBytes 4 q' ++ leBytes 4 r').map some)
            .done (accDone s a (some (.s d (BitVec.ofNat 64 q))))
      | .waitb sc q d =>
        match poisonOf s p.pl with
        | some (c, e) => .bad c e
        | none =>
          let (ph, _, _) := barrierOf (readTask s p.pl 16)
          if barrierDone ph q.toNat then
            let s := touchTask (meetScope s sc) p.pl
            let s := if sc = .system then sysAcquire s p.pl else s
            .done (accDone s a (some (.s d (BitVec.ofNat 64 ph))))
          else .wait
      | .waitbTry sc q d =>
        match poisonOf s p.pl with
        | some (c, e) => .bad c e
        | none =>
          let (ph, _, _) := barrierOf (readTask s p.pl 16)
          let ok := barrierDone ph q.toNat
          let s := touchTask (if ok then meetScope s sc else s) p.pl
          let s := if ok && sc = .system then sysAcquire s p.pl else s
          .done (accDone s a (some (.s d (if ok then 1 else 0))))
      | .binit _ n q =>
        .done (accDone (writeTask s p.pl ((leBytes 4 q.toNat ++ leBytes 4 0 ++ leBytes 4 n.toNat ++ leBytes 4 0).map some))
          a none)
      | .ldg d x bad g =>
        match (if bad ≠ 0 then some (bad / 65536, bad % 65536) else genPoison s g p.pl.addr) with
        | some (c, e) => .bad c e
        | none => .done (accDone (match p.pl with | .dev pa => countLink s pa | _ => s) a (some (.s d x)))
      | .watchRead got =>
        match loadAt s p.pl 16 with
        | .error (c, e) => .bad c e
        | .ok (s', bs) =>
          let got := putBytes got (16 * p.idx) bs
          let (s, a) := nextPiece s' a k (.watchRead got)
          if a.pieces.isEmpty then
            let s := accDone s a none
            .done (s.setMe { s.me with reqs := s.me.reqs.map fun r => if r.ord = a.ord then { r with desc := some got } else r })
          else .done s
      | .failed _ _ => .wait

/-- Whether an access has no landing cycle. -/
def AccOp.noLand : AccOp → Bool
  | .store .. | .vstore .. | .binit .. | .atomic _ _ _ _ _ none _ => true
  | _ => false
/-- Granules of an operation that fail with a class and code, whose cause has the landing cycle `bound`. The operation's other granules,
which are accesses of their own, go on (R120); what has waited for a late result of it lands (R56). WATCH's descriptor is one operand:
without a granule of it WATCH is not answered, and writes nothing. -/
def failPieces (s : State) (a : Acc) (gone : Piece → Bool) (cls code bound : Nat) (squash : Bool) : State :=
  let whole : Bool := match a.op with | .watchRead _ => true | _ => false
  let s := if whole then s.setMe { s.me with reqs := s.me.reqs.filter fun r => r.ord ≠ a.ord } else s
  let rest := a.pieces.filter fun p => !whole && !gone p
  let f : Acc := { a with op := .failed cls code, pieces := [], bound := bound, squash := squash }
  let t :=
    if rest.isEmpty then s.setMe (s.me.putAcc a (some f))
    else
      let t := s.setMe (s.me.putAcc a (some { a with pieces := rest }))
      t.setMe { t.me with accs := t.me.accs ++ [{ f with slot := a.slot + lostMark }] }
  t.landDue s.core s.ctx
/-- A granule that has read poisoned data, or that its target refuses, writes nothing; its task takes the cause at its landing cycle, and
the cause of an access without one is taken now (R435, R456). -/
def poisonPiece (s : State) (a : Acc) (k cls code : Nat) : State :=
  failPieces s a (fun p => p.idx = k) cls code (if a.op.noLand then s.myCore.cyc else a.bound) a.squash

/-- The landing cycle of the cause of a write dropped for lack of a path: none, since it waits for a commit check (R434). -/
def neverLands : Nat := 2 ^ 64
/-- Accesses of one operation dropped for lack of a path: a write waits for its task's commit check, anything else has read poison
(R434). -/
def dropPieces (s : State) (a : Acc) (gone : Piece → Bool) : State :=
  if a.op.noLand then failPieces s a gone 10 4 neverLands false else failPieces s a gone 10 4 a.bound a.squash
/-- Whether an access is a write dropped for lack of a path. -/
def Acc.dropped (a : Acc) : Bool := (match a.op with | .failed .. => true | _ => false) && decide (neverLands ≤ a.bound)

/-- Whether two places share a byte of `n` and `m` bytes from them. -/
def Place.meets (p q : Place) (n m : Nat) : Bool :=
  match p, q with
  | .remote c a, .remote d b => c = d && overlap a n b m
  | _, _ => true

/-- Whether an operation acquires beyond the package: what follows it in program order follows it (R131, R143). -/
def AccOp.acquiresOut : AccOp → Bool
  | .atomic _ o sc _ _ _ _ => acqOrd o && wideScope sc
  | .waitb sc .. | .waitbTry sc .. => wideScope sc
  | _ => false
/-- Whether an operation releases beyond the package: it follows what precedes it in program order (R131, R143). -/
def AccOp.releasesOut : AccOp → Bool
  | .atomic _ o sc _ _ _ _ => relOrd o && wideScope sc
  | .arrive sc _ => wideScope sc
  | _ => false
/-- Whether an access may be performed before an earlier access of its context: one of them is an LDG, which has no place among them
(R225), or both reach other packages only, they share no byte, the earlier one acquires nothing beyond the package and the later one
releases nothing there (R131). A local or host access and a remote one keep their program order, which R131 does not ask (DESIGN
CHOICE, assumption log 72). -/
def overtakes (early a : Acc) : Bool :=
  let far (x : Acc) : Bool := x.pieces.all fun p => match p.pl with | .remote .. => true | _ => false
  early.op.isLdg || a.op.isLdg || (far early && far a && !early.op.acquiresOut && !a.op.releasesOut &&
    early.pieces.all fun p => a.pieces.all fun q => !p.pl.meets q.pl p.len q.len)

/-- Whether an access is still to be performed at its place in the memory order (R225). -/
def Acc.ordered (a : Acc) : Bool := !a.pieces.isEmpty && !a.op.isLdg

/-- The accesses of the context still to be performed, in program order. -/
def State.pendAccs (s : State) : List Acc := s.me.accs.filter fun a => !a.pieces.isEmpty

/-- Whether the accesses and requests of a bundle have left the core's edge: in a protected grove, once the pair's
signatures of it have matched (R452). -/
def edgeOpen (s : State) (ord : Nat) : Bool := !s.myGrove.prot || ord < s.me.matched

/-- The access at position n that may be performed now (R121, R131). -/
def eligible (s : State) (n : Nat) : Option Acc :=
  match s.pendAccs[n]? with
  | none => none
  | some a => if edgeOpen s a.ord && (s.pendAccs.take n).all fun e => overtakes e a then some a else none

/-- Every piece of an access performed, in ascending order. -/
def performAll (s : State) (a : Acc) : List Piece → Option State
  | [] => some s
  | p :: t =>
    match s.me.accs.find? (fun x => x.ord = a.ord ∧ x.slot = a.slot) with
    | none => some s
    | some b =>
      if !b.pieces.any (·.idx = p.idx) then performAll s a t else
      let s := sendTo s p.pl
      match performPiece s b p.idx with
      | .done s => performAll s a t
      | .wait => none
      | .bad c e => performAll (poisonPiece s b p.idx c e) a t

/-- Every outstanding access of the context performed, in program order; `none` where one must wait, at the core's edge too. -/
def drainAccs (s : State) : List Acc → Option State
  | [] => some s
  | a :: t =>
    if a.pieces.isEmpty || edgeOpen s a.ord then (performAll s a a.pieces).bind fun s => drainAccs s t else none

end Sys2Proof.Machine
end

