-- ==== Sys2Proof/Machine/Tasks.lean ====
section
/-! DEFINITION. The grove task unit: records and routing (R17-R22), acceptance and edges (R23-R27), dispatch and grants
(R19, R28, R29, R37, R141), commit (R35, R140), failure, retry and cancellation (R42-R44), and task ids (R291). -/

namespace Sys2Proof.Machine
open Sys2Proof

/-! ## Records, keys and routing (R17, R21, R22, R380) -/

/-- Coordinate j of a record. -/
def Rec.coord (r : Rec) (j : Nat) : W32 := match j with | 0 => r.c0 | 1 => r.c1 | 2 => r.c2 | _ => r.c3

/-- The record of R17 in four 64-bit words, its change count replaced by zero (R17, R288). -/
def recOf (w : List W64) : Rec :=
  let g (n : Nat) : W64 := w.getD n 0
  ⟨bits (g 0) 0 16, bits (g 0) 16 16, 0, bits (g 1) 0 32, bits (g 1) 32 32, bits (g 2) 0 32, bits (g 2) 32 32, g 3⟩

/-- Whether the task unit refuses a record (R18). -/
def recRefused (i : Image) (r : Rec) : Bool := i.types.length ≤ r.typ.toNat || r.rsv ≠ 0

/-- The ordering key of a record under a rule (R22). -/
def keyOf (k : KeyRule) (r : Rec) : Option W64 :=
  match k with
  | .none => none
  | .coord j => some ((r.coord j.val).setWidth 64)
  | .pair j => some ((r.coord j.val) ++ (r.coord (j.val + 1)))
  | .arg => some r.arg

/-- key_hash (R21). -/
def keyHash (k : W64) : Nat := (bits k 0 16 ^^^ bits k 16 16 ^^^ bits k 32 16 ^^^ bits k 48 16).toNat

/-- The set index that a routing rule gives (R21). -/
def routeOf (r : Route) (n : Nat) (rc : Rec) (key : Option W64) (creator : Nat) : Nat :=
  match r with
  | .fixed g => g
  | .coord j h => ((rc.coord j.val).toNat >>> h) % n
  | .key => keyHash (key.getD 0) % n
  | .creator => creator

/-- The footprint of a record of a type: a region whose ends leave the address space covers no byte (R380). -/
def regionsOf (t : TaskType) (r : Rec) : List Region :=
  t.regions.filterMap fun g =>
    let a := (g.base + g.st0 * (r.c0.setWidth 64) + g.st1 * (r.c1.setWidth 64) + g.st2 * (r.c2.setWidth 64) +
      g.st3 * (r.c3.setWidth 64)).toNat
    if a + g.len ≤ 2 ^ 57 then some ⟨a, g.len, g.kind, g.trk⟩ else none

/-- Whether two footprints make an edge: tracked regions that overlap, one of them written (R24). -/
def conflict (a b : List Region) : Bool :=
  a.any fun x => b.any fun y =>
    x.trk && y.trk && (tst x.kind 1 || tst y.kind 1) && overlap x.base x.len y.base y.len

/-! ## The dependency table (R23-R27) -/

/-- The entries of a grove's table that hold no task. -/
def freeEntries (s : State) (g : Nat) : List Nat := (List.range 512).filter fun e => (s.task? (taskKey g e)).isNone

/-- The tasks of a grove's table. -/
def groveTasks (s : State) (g : Nat) : List (Nat × Task) := s.tasks.filter fun e => e.1 / 512 = g

/-- The set index of a grove in an instance's grove set. -/
def setIndex (i : Inst) (g : Nat) : Nat := i.img.groves.findIdx (· = g)

/-- The id of a task (R291). -/
def taskId (s : State) (k : Nat) (t : Task) : Nat :=
  let i := match s.inst? t.inst with | some i => setIndex i (k / 512) | none => 0
  i * 2 ^ 25 + k % 512 * 2 ^ 16 + t.seq % 2 ^ 16

/-- A task record offered to a task unit: `rank` is its place among the records accepted on one cycle (R23). -/
structure Offer where
  rank : Nat
  inst : Nat
  rcd : Rec
  key : Option W64
  creator : Nat
  depth : Nat
  ts : Nat
  deriving DecidableEq, Repr

/-- The grove an offer is routed to. -/
def Offer.grove (o : Offer) (i : Inst) (t : TaskType) : Nat :=
  i.img.groves.getD (routeOf t.route i.img.groves.length o.rcd o.key o.creator) 0

/-- An offer of a record whose key its type's rule gives (R22). -/
def mkOffer (rank : Nat) (i : Inst) (n : Nat) (r : Rec) (creator depth ts : Nat) : Offer :=
  ⟨rank, n, r, (i.img.types[r.typ.toNat]?).bind fun t => keyOf t.key r, creator, depth, ts⟩

/-- The rank of a record that a context makes: after launches and shoots, by core and then context (R23). -/
def spawnRank (c x : Nat) : Nat := 2 + c * 16 + x
/-- Whether a record of a rank may be accepted now: none that ranks after it has been accepted on this cycle (R23). -/
def inTurn (s : State) (rank : Nat) : Bool := s.lastRank.1 ≠ s.time.toNat || s.lastRank.2 ≤ rank

/-- Whether the routed grove's table has room for an offer (R27). -/
def offerRoom (s : State) (o : Offer) : Bool :=
  match s.inst? o.inst with
  | none => false
  | some i =>
    match i.img.types[o.rcd.typ.toNat]? with
    | none => false
    | some t => !(freeEntries s (o.grove i t)).isEmpty

/-- An offered record accepted: the task is numbered and takes its edges, and it is cancelled at once where one of
them runs from a failed task (R23, R24, R44, R49). With the task's id. The entry is the task unit's choice
(DESIGN CHOICE, assumption log 17). -/
def acceptOffer (s : State) (o : Offer) : State × Nat :=
  match s.inst? o.inst with
  | none => (s, 0)
  | some i =>
    match i.img.types[o.rcd.typ.toNat]? with
    | none => (s, 0)
    | some t =>
      let g := o.grove i t
      let fr := freeEntries s g
      let e := fr.getD (s.free 9100 % fr.length) 0
      let k := taskKey g e
      let gr := s.groveAt g
      let regs := regionsOf t o.rcd
      let es := (groveTasks s g).filter fun x =>
        x.2.inst = o.inst && (conflict regs x.2.regions || (o.key.isSome && o.key = x.2.key))
      let task : Task :=
        { inst := o.inst, rcd := o.rcd, key := o.key, seq := gr.nextSeq, regions := regs
          edges := es.map (·.1), st := if es.isEmpty then .ready else .pending, retries := 0, token := false
          depth := o.depth, ts := BitVec.ofNat 64 o.ts, keptLts := [], keptFlags := [], keptLines := [], safePt := none, areas := []
          tent := [], deferred := [], cause := 0, cores := [], x := 0, endTime := 0, lastIssue := s.time.toNat
          preempt := false, began := 0, chg0 := [], readyAt := none, creator := o.creator }
      let s' := { s.setGrove g { gr with nextSeq := gr.nextSeq + 1 } with lastRank := (s.time.toNat, o.rank) }
      let id := taskId s' k task
      (if es.any fun x => x.2.token then s' else s'.setTask k task, id)

/-! ## Grants (R28, R29, R52) -/

/-- The vector registers a core's task contexts hold. -/
def vectorsUsed (s : State) (c : Nat) : Nat := (List.range 8).foldl (fun n x => n + (s.ctxAt c x).vGrant) 0
/-- The accumulator tiles a core's task contexts hold. -/
def tilesUsed (s : State) (c : Nat) : Nat := (List.range 8).foldl (fun n x => n + (s.ctxAt c x).aGrant) 0
/-- The scratchpad ranges granted in a grove, once per gang. -/
def spadGrants (s : State) (g : Nat) : List (Nat × Nat) :=
  (List.range 8).flatMap fun i => (List.range 8).filterMap fun x =>
    let k := s.ctxAt (g * 8 + i) x
    if k.spLen = 0 ∨ (k.gang ∧ i ≠ 0) then none else some (k.spOff, k.spLen)
/-- The 4 KiB-aligned offsets at which a grove's scratchpad has room for a grant. -/
def spadSpots (s : State) (g len : Nat) : List Nat :=
  let gs := spadGrants s g
  let size := (s.groveAt g).size
  ((List.range (size / 4096)).map (· * 4096)).filter fun o =>
    o + len ≤ size && gs.all fun r => !overlap o len r.1 r.2
/-- The offset the task unit places a grant at (R98): its choice (DESIGN CHOICE, assumption log 17); none where there is no room. -/
def placeGrant (s : State) (g len : Nat) : Option Nat :=
  if len = 0 then some 0
  else if (s.groveAt g).draining then none
  else
    let os := spadSpots s g len
    if os.isEmpty then none else os[s.free 9200 % os.length]?

/-- Bytes of W and RW regions of a type (R141). -/
def stagedDemand (t : TaskType) : Nat := if t.staged then (t.regions.filter fun r => tst r.kind 1).foldl (fun n r => n + r.len) 0 else 0
/-- The staging room that a task's type asks for (R141). -/
def Task.room (s : State) (t : Task) : Nat := ((s.typeOf t).map stagedDemand).getD 0
/-- The attempt whose grants a context still holds after its end: that of a committing task that the hang detector has ended (R49). -/
def Ctx.heldBy (k : Ctx) : Option Task := match k.st, k.task, k.ghost with | .ending, some _, some g => some g.1 | _, _, _ => none
/-- The staging room of a die that dispatched staged tasks hold, and attempts that have ended and keep their grants (R49, R141). -/
def stagedUsed (s : State) (d : Nat) : Nat :=
  let live := s.tasks.foldl (fun n e => if dieOf (e.1 / 512) = d ∧ e.2.cores ≠ [] then n + e.2.room s else n) 0
  s.ctxs.foldl (fun n e => match e.2.heldBy with
    | some t => if dieOf (groveOf (keyCore e.1)) = d ∧ t.cores.headD 0 = keyCore e.1 then n + t.room s else n
    | none => n) live

/-- Whether a core can take a type on context x. -/
def fits (s : State) (t : TaskType) (c x : Nat) : Bool :=
  (s.ctxAt c x).st = .free && vectorsUsed s c + t.vDem ≤ 256 && tilesUsed s c + t.aDem ≤ 8

/-- The cores of a grove that the task unit dispatches to: leading cores only in a protected grove (R452). -/
def dispatchCores (s : State) (g : Nat) : List Nat :=
  ((List.range 8).map (g * 8 + ·)).filter fun c => !(s.groveAt g).prot || c % 2 = 0

/-- The lowest free context of a core that can take a type. -/
def freeCtx (s : State) (t : TaskType) (c : Nat) : Option Nat := (List.range 8).find? fun x => fits s t c x

/-- The context a non-gang task is placed on: most free vector registers, lowest local index, lowest context (R29). -/
def placeTask (s : State) (t : TaskType) (g : Nat) : Option (Nat × Nat) :=
  let cs := (dispatchCores s g).filterMap fun c => (freeCtx s t c).map fun x => (c, x)
  cs.foldl (fun o p => match o with
    | none => some p
    | some q => if vectorsUsed s p.1 < vectorsUsed s q.1 then some p else some q) none
/-- The context number a gang task is placed on: the lowest free on every core of the grove (R37). -/
def placeGang (s : State) (t : TaskType) (g : Nat) : Option Nat :=
  (List.range 8).find? fun x => (List.range 8).all fun i => fits s t (g * 8 + i) x

/-- Where a task can be dispatched: its cores, context number and scratchpad offset. -/
def placement (s : State) (k : Nat) (t : Task) : Option (List Nat × Nat × Nat) :=
  match s.typeOf t with
  | none => none
  | some ty =>
    let g := k / 512
    if 16777216 < stagedUsed s (dieOf g) + stagedDemand ty then none
    else
      match placeGrant s g (ty.spad * 4096) with
      | none => none
      | some off =>
        if ty.gang then (placeGang s ty g).map fun x => ((List.range 8).map (g * 8 + ·), x, off)
        else (placeTask s ty g).map fun p => ([p.1], p.2, off)

/-- Roles in the order of dispatch. -/
def Role.rank : Role → Nat | .loader => 0 | .compute => 1 | .epilogue => 2

/-- Whether a task waits for dispatch: ready, or pre-empted in an instance that may run again (R68, R373). Nothing of
an instance being pre-empted is dispatched, and nothing is while its grove's admission drain lasts (R108). -/
def dispatchable (s : State) (k : Nat) (t : Task) : Bool :=
  (t.st = .ready || t.st = .preempted) &&
    (match s.inst? t.inst with
     | some i => i.preempting.isNone &&
         (match (s.groveAt (k / 512)).drain with | some d => d.inst ≠ some t.inst | none => true)
     | none => false)

/-- The task that the unit of grove g dispatches next, with its placement: by role, then by lowest creation sequence
number, among the tasks that fit (R28). -/
def nextDispatch (s : State) (g : Nat) : Option (Nat × List Nat × Nat × Nat) :=
  let rank (t : Task) : Nat := ((s.typeOf t).map fun y => y.role.rank).getD 3
  let ts := (groveTasks s g).filterMap fun e =>
    if dispatchable s e.1 e.2 then (placement s e.1 e.2).map fun p => (e, p) else none
  (ts.foldl (fun o p => match o with
    | none => some p
    | some q =>
      if rank p.1.2 < rank q.1.2 ∨ (rank p.1.2 = rank q.1.2 ∧ p.1.2.seq < q.1.2.seq) then some p else some q)
    (none : Option ((Nat × Task) × (List Nat × Nat × Nat)))).map fun q => (q.1.1, q.2.1, q.2.2.1, q.2.2.2)

/-- A range of scratchpad whose content becomes undefined and whose granules become empty (R108, R113). -/
def blankSpad (s : State) (g off len : Nat) : State :=
  if len = 0 then s
  else
    let k := s.groveAt g
    let m : BitVec 524288 := BitVec.ofNat 524288 ((2 ^ (len / 16) - 1) <<< (off / 16))
    let ep := (List.range (len / 4096)).foldl (fun e i =>
      let p := off / 4096 + i
      Map.set e p (Map.at_ e p 0 + 1)) k.epochs
    let lo := 2 * ((g * grovePitch + off) / 64) + 1
    let hi := 2 * ((g * grovePitch + off + len) / 64) + 1
    let s := { s with poison := s.poison.filter fun e => e.1 % 2 = 0 || e.1 < lo || hi ≤ e.1 }
    s.setGrove g { k with spad := k.spad.drop off (off + len), fe := k.fe &&& ~~~m, epochs := ep }

/-- The address at which a task's rank finds its save area (R68, R69, R370). -/
def areaOf (t : Task) (i : Nat) : W64 := BitVec.ofNat 64 (t.areas.getD i 0)

/-- A context initialised for a task (R19, R60, R68): rank i of its cores. The host lines that the context has written since its last
system release stay its own (R134). -/
def initCtx (s : State) (c x : Nat) (k : Nat) (t : Task) (ty : TaskType) (i : Nat) (off : Nat) : Ctx :=
  let ins := s.inst? t.inst
  let heap (f : Inst → W64) : W64 := match ins with | some n => f n | none => 0
  let restored := t.st = .preempted
  let sp := t.safePt.bind fun n => ins.bind fun i => i.img.safes[n]?
  let regs : Vector W64 64 := (Vector.replicate 64 0).set 1 (t.rcd.c0.setWidth 64) |>.set 2 (t.rcd.c1.setWidth 64)
    |>.set 3 (t.rcd.c2.setWidth 64) |>.set 4 (t.rcd.c3.setWidth 64) |>.set 5 (t.key.getD 0) |>.set 6 t.rcd.arg
    |>.set 7 (t.rcd.chg.setWidth 64)
  { Ctx.reset c x with
    s := if restored then regs.set 8 (areaOf t i) else regs
    lts := if restored then t.keptLts.getD i 0 else t.ts
    fpflags := if restored then t.keptFlags.getD i 0 else 0
    hostLines := (s.ctxAt c x).hostLines ++ if restored then (t.keptLines.getD i []).filter fun l => !(s.ctxAt c x).hostLines.contains l else []
    pc := if restored then (match sp with | some p => p.restore | none => ty.entry) else ty.entry
    rank := if ty.gang then i else c % 8
    skew := if ty.gang then ty.skew else 0
    heapBase := heap (·.heapBase)
    heapLimit := heap (·.heapLimit)
    heapOff := heap (·.heapOff)
    st := .running
    ready := true
    since := (s.coreAt c).cyc
    nextAt := (s.coreAt c).cyc
    role := ty.role
    task := some k
    inst := some t.inst
    vGrant := ty.vDem
    aGrant := ty.aDem
    spOff := off
    spLen := ty.spad * 4096
    gang := ty.gang
    safePt := if restored then t.safePt else none }

/-- A task dispatched to its contexts (R19, R28, R37, R46). -/
def dispatchTask (s : State) (k : Nat) (t : Task) (cs : List Nat) (x off : Nat) : State :=
  match s.typeOf t with
  | none => s
  | some ty =>
    let s := blankSpad s (k / 512) off (ty.spad * 4096)
    let s := (List.range cs.length).foldl (fun s i =>
      let c := cs.getD i 0
      s.setCtx c x (initCtx s c x k t ty i off)) s
    let g := k / 512
    let s := if ty.gang then s.setGrove g { s.groveAt g with gangs := (s.groveAt g).gangs ++ [⟨x, false, []⟩] } else s
    let s := match s.inst? t.inst with | some i => s.setInst t.inst { i with since := none } | none => s
    let chg0 := match s.inst? t.inst with | some i => cs.map fun c => Map.at_ i.charged c 0 | none => []
    s.setTask k { t with
      st := .running, cores := cs, x := x, lastIssue := s.time.toNat, tent := [], deferred := []
      began := s.time.toNat, chg0 := chg0 }

/-! ## Releasing (R35, R42, R117) -/

/-- A context's operand slots released (R117). -/
def freeSlots (s : State) (c x : Nat) : State :=
  let k := s.coreAt c
  s.setCore c { k with slots := k.slots.map fun o => if o.holder = some x then { o with holder := none, fill := none } else o }

/-- Whether an instruction is an engine handle operation. -/
def engHandleOp (i : Instr) : Bool :=
  match i with
  | .hfork .. | .hsnap .. | .hroll .. | .havg .. => true
  | _ => false

/-- Whether an engine operation of a context is queued or under way. -/
def ctxEngBusy (s : State) (c x : Nat) : Bool :=
  let k := s.coreAt c
  k.eq.any (·.x = x) || (match k.erun with | some r => r.1.x = x | none => false)

/-- The matrix operations of a context leave its unit's queue and array. -/
def dropMat (s : State) (c x : Nat) : State :=
  let k := s.coreAt c
  s.setCore c { k with mq := k.mq.filter (·.x ≠ x), mrun := k.mrun.filter (·.1.x ≠ x) }

/-- A context that runs no task: its registers hold what last landed in them (R55), and the host lines it has written since its
last system release stay its own (R134). -/
def Ctx.freed (k : Ctx) (c x : Nat) : Ctx :=
  { Ctx.reset c x with
    s := k.s, p := k.p, b := k.b, lc := k.lc, v := k.v, vp := k.vp, mp := k.mp, acc := k.acc, lts := k.lts, pc := k.pc
    rank := k.rank, skew := k.skew, heapBase := k.heapBase, heapLimit := k.heapLimit, heapOff := k.heapOff
    fpflags := k.fpflags, frzctx := k.frzctx, taddr := k.taddr, tcause := k.tcause, txfer := k.txfer
    hostLines := k.hostLines }

/-- A context freed: its grants, slots, bindings and windows return (R35). -/
def freeCtxAt (s : State) (c x : Nat) : State :=
  let s := dropMat (freeSlots s c x) c x
  let co := s.coreAt c
  let s := s.setCore c { co with current := if co.current = some x then none else co.current }
  s.setCtx c x ((s.ctxAt c x).freed c x)

/-- A gang's entry of its grove goes. -/
def dropGang (s : State) (g x : Nat) : State :=
  s.setGrove g { s.groveAt g with gangs := (s.groveAt g).gangs.filter (·.x ≠ x) }

/-- Whether nothing that an attempt which has ended issued on a context is still under way. -/
def allEnded (s : State) (c x : Nat) : Bool :=
  let k := s.ctxAt c x
  k.accs.isEmpty && k.reqs.isEmpty && k.jobs.isEmpty && !ctxEngBusy s c x

/-- Every context whose attempt has ended is freed once what it waits for has ended, and what is left of an attempt goes
once it has (R49, R279). -/
def freeEnded (s : State) : State :=
  s.ctxs.foldl (fun s e =>
    let c := keyCore e.1
    let x := keyCtx e.1
    let k := s.ctxAt c x
    if k.st = .ending ∧ allEnded s c x then
      if 16 ≤ x then { s with ctxs := Map.del s.ctxs e.1 }
      else
        let s := freeCtxAt s c x
        if k.gang then dropGang s (groveOf c) x else s
    else s) s

/-- The lowest number for what an attempt leaves on a core, of the 4,080 that a core has (assumption log 31). -/
def spareCtx (s : State) (c : Nat) : Nat :=
  (((List.range 4080).map (· + 16)).find? fun y => (Map.get? s.ctxs (ctxKey c y)).isNone).getD 4095

/-- Core `c` has ended the run interposed while a gang waits (R39). -/
def endInterposed (s : State) (c : Nat) : State :=
  let g := s.groveAt (groveOf c)
  s.setGrove (groveOf c) { g with gangs := g.gangs.map fun e => { e with waiting := e.waiting.filter (· ≠ c) } }

/-- The slot that a fill writes. -/
def fillOf (j : Job) : Option Nat :=
  match j.op with
  | .osfill _ n _ _ | .mcast _ n _ _ => some n.val
  | .wsfill _ n _ => some n.val
  | _ => none

/-- An attempt's context stops: suspended jobs and windows end, its bindings are unbound, nothing of it waits, and a window or drain
that its core is frozen on still freezes it (R49, R65, R109). -/
def stopCtx (s : State) (c x : Nat) (t : Task) (staged : Bool) : State :=
  let s := dropMat (dropRoom s c x) c x
  let s := if (s.coreAt c).current = some x then endInterposed s c else s
  let k := s.ctxAt c x
  let co := s.coreAt c
  let s := s.setCore c { co with
    current := if co.current = some x then none else co.current
    frzUntil := Nat.max co.frzUntil k.frzUntil
    walk := match co.walk with | some w => if w.x = x then none else some w | none => none }
  s.setCtx c x { k with
    st := .ending, err := none, ready := false, claim := none, wait := .none, inflight := [], staged := [], frzUntil := 0
    ghost := some ({ t with tent := [] }, staged)
    fb := k.fb.map fun b => if b.st = .bound then { b with st := .leaving } else b
    windows := Vector.replicate 4 Window.reset
    jobs := (k.jobs.filter fun j => j.tok.isNone).map fun j =>
      match j.op with | .wopen .. | .wadv .. => { j with stop := true } | _ => j }

/-- What a stopped attempt has issued goes on under a number of its own: accesses, requests and jobs, and its contributions to
merged writes (R65). Its engine handle operations, with their requests, count as fast-weight operations and stay with the
accumulator grant and the bindings (R279, R304), and while a fast-weight operation is out so do the fills, which FWCHUNK waits
for (R277). -/
def leaveBehind (s : State) (c x : Nat) : State :=
  let k := s.ctxAt c x
  let y := spareCtx s c
  let (stay, go) := k.reqs.partition fun r => engHandleOp r.op
  let (fills, jobs) := k.jobs.partition fun j => ctxEngBusy s c x && (fillOf j).isSome
  if k.accs.isEmpty && go.isEmpty && jobs.isEmpty then s
  else
    let s := { s with redWins := s.redWins.map fun (w : Nat × RedWin) => (w.1, { w.2 with
      held := w.2.held.map fun (n : Contribution) => if n.c = ctxKey c x then { n with c := ctxKey c y } else n }) }
    let s := s.setCtx c y { k with task := none, gang := false, vGrant := 0, aGrant := 0, hostLines := [], reqs := go, jobs := jobs }
    s.setCtx c x { k with accs := [], reqs := stay, jobs := fills }

/-- A stopped attempt's grants return, but for the tiles and bindings that its fast-weight operations still use (R28, R49,
R117, R279). -/
def releaseCtx (s : State) (c x : Nat) : State :=
  let s := leaveBehind s c x
  if ctxEngBusy s c x then
    let s := freeSlots s c x
    s.setCtx c x { s.ctxAt c x with vGrant := 0, spLen := 0, gang := false, task := none }
  else freeCtxAt s c x

/-- A task's contexts stop and, unless `hold`, their grants return. The hang detector's ending of a committing task holds the
grants until its jobs and engine operations have ended (R49). -/
def endCtxs (s : State) (t : Task) (hold : Bool) : State :=
  let staged := ((s.typeOf t).map (·.staged)).getD false
  let g := groveOf (t.cores.headD 0)
  let s := t.cores.foldl (fun s c =>
    let s := stopCtx s c t.x t staged
    if hold then s else releaseCtx s c t.x) s
  if hold || t.cores.isEmpty then s else dropGang s g t.x

/-! ## Failure and cancellation (R42, R44) -/

/-- Tasks that wait on a token-carrying task complete as cancelled, and carry the token in turn. `work` holds the
tasks whose token spreads. -/
def cancelGo : Nat → State → List Nat → State
  | 0, s, _ => s
  | _ + 1, s, [] => s
  | n + 1, s, k :: work =>
    let hit := ((groveTasks s (k / 512)).map (·.1)).filter fun j =>
      (s.task? j).any fun t => t.edges.contains k && t.st = .pending
    let s := hit.foldl (fun s j => { s with tasks := Map.del s.tasks j }) s
    cancelGo n s (work ++ hit)

/-- The tokens of a failed or cancelled task spread. -/
def cancelFrom (s : State) (k : Nat) : State := cancelGo 1024 s [k]

/-- A task's save areas return to its instance's save region (R69, R382). -/
def freeAreas (s : State) (t : Task) : State :=
  match s.inst? t.inst with
  | some i => s.setInst t.inst { i with areas := i.areas.filter fun a => !t.areas.contains a.1 }
  | none => s

/-- A task fails: its contexts end, the token spreads, its instance's first failure freezes the launching queue
(R42, R44). `quiet` is an ending of the instance, which freezes no queue and names no failure. -/
def failTask (s : State) (k : Nat) (cause : W32) (quiet : Bool) : State :=
  match s.task? k with
  | none => s
  | some t =>
    let s := endCtxs (freeAreas s t) t (t.st = .committing && cause.toNat / 2 ^ 24 = 13)
    let s := if cause.toNat / 2 ^ 24 = 13 then s.count fun n => { n with hangs := n.hangs + 1 } else s
    let s := s.setTask k { t with st := .failed, token := true, cause := cause, cores := [], tent := [], deferred := []
                                  edges := [], safePt := none, areas := [] }
    let g := k / 512
    let s := s.setGrove g { s.groveAt g with fails := (s.groveAt g).fails + 1 }
    let s := if quiet then s else instFail s t.inst cause 0
    freeEnded (cancelFrom s k)

/-- What a core of an instance has been charged, with every cycle of an attempt that began at `began`, when it had been charged
`chg0`. -/
def attemptCharge (s : State) (began chg0 : Nat) : Nat := chg0 + (s.time.toNat - began)
/-- The cycles of a discarded attempt of a timed instance count as charged on its cores, for R376 too (R414); later attempts
under way there have then been charged for each of their own. -/
def chargeAttempt (s : State) (t : Task) : State :=
  match s.inst? t.inst with
  | none => s
  | some i =>
    if !i.reserved then s
    else
      let cs := t.cores.zip t.chg0
      let i := { i with charged := cs.foldl (fun m p => Map.set m p.1 (attemptCharge s t.began p.2)) i.charged }
      let fix (u : Task) : Task :=
        if u.inst = t.inst ∧ t.began ≤ u.began then
          { u with chg0 := (u.cores.zip u.chg0).map fun p =>
              if t.cores.contains p.1 then Map.at_ i.charged p.1 0 - (s.time.toNat - u.began) else p.2 }
        else u
      { s.setInst t.inst i with tasks := s.tasks.map fun e => (e.1, fix e.2) }
/-- A staged task that consumed an uncorrectable error returns to Ready (R43). -/
def retryTask (s : State) (k : Nat) : State :=
  match s.task? k with
  | none => s
  | some t =>
    let s := endCtxs (chargeAttempt s t) t false
    freeEnded (s.setTask k { t with st := .ready, retries := t.retries + 1, cores := [], tent := [], deferred := []
                                    lastIssue := s.time.toNat, readyAt := none, preempt := false })

/-! ## Commit (R35, R140, R289) -/

/-- Whether a context of a protected grove has issued a bundle that is still to be compared (R452). -/
def comparing (s : State) (c x : Nat) : Bool := (s.groveAt (groveOf c)).prot && !(s.ctxAt c x).unmatched.isEmpty

/-- Whether a context has met the conditions of R35, and the pair has compared its bundles (R453). -/
def ctxDone (s : State) (c x : Nat) : Bool :=
  let k := s.ctxAt c x
  !comparing s c x &&
  k.st = .committing && k.accs.all Acc.dropped && k.reqs.isEmpty && k.inflight.isEmpty && k.staged.isEmpty &&
    k.jobs.isEmpty && !ctxEngBusy s c x && k.err.isNone &&
    !((s.coreAt c).mq.any (·.x = x)) && (s.coreAt c).mrun.all (·.1.x ≠ x)

/-- The bytes of a tentative version, grouped by 16-byte granule in ascending address. -/
def tentGranules (m : Memory) : List (Nat × List (Option Byte)) :=
  let gs := (m.map fun c => c.1 / 16).eraseDups
  gs.map fun g => (16 * g, (List.range 16).map fun i => Map.get? m (16 * g + i))

/-- Whether a commit's writes need pool space that is not there (R351). -/
def commitHeld (s : State) (t : Task) : Bool := poolShort s ((tentGranules t.tent).map fun g => granuleOf g.1)
/-- Whether a commit waits: for pool space, or for what holds one of its writes at its home (R351, R428, R446, R459). -/
def commitWaits (s : State) (t : Task) : Bool :=
  commitHeld s t || (tentGranules t.tent).any fun g => placeWaits s (.dev g.1)

/-- The commit timestamp: above every timestamp the task has used and every lease of a line it writes (R140). -/
def commitTs (s : State) (t : Task) (lts : Nat) : Nat :=
  (tentGranules t.tent).foldl (fun n g => Nat.max n (storeTs s (lts + 1) g.1)) (lts + 1)

/-- The blocks all of whose bytes a commit writes hold good bytes again: its writes are one (R140, R456). -/
def mendTent (s : State) (m : Memory) : State :=
  (s.poison.filter fun e => e.1 % 2 = 0 && (List.range 64).all fun i => (Map.get? m (32 * e.1 + i)).isSome).foldl
    (fun (s : State) (e : Nat × Nat) => cleanBlock s e.1) s
/-- Tentative versions made visible at one commit timestamp (R140, R341). -/
def publish (s : State) (t : Task) (ts : Nat) : State :=
  (tentGranules t.tent).foldl (fun s g => writeHome (countLink s g.1) g.1 g.2 t.depth ts) (mendTent s t.tent)

/-- A task leaves the table: tasks with an edge from it are re-examined, and start above its commit timestamp (R19,
R24, R35). -/
def leaveTable (s : State) (k ts : Nat) : State :=
  let s := { s with tasks := Map.del s.tasks k }
  { s with tasks := s.tasks.map fun e =>
      if e.1 / 512 = k / 512 ∧ e.2.edges.contains k then
        let es := e.2.edges.filter (· ≠ k)
        (e.1, { e.2 with
          edges := es
          st := if es.isEmpty ∧ e.2.st = .pending then .ready else e.2.st
          ts := BitVec.ofNat 64 (Nat.max e.2.ts.toNat (ts + 1)) })
      else e }

/-! ## Deferred and pending records -/

/-- The logical time of a task's contexts: the greatest LTS. -/
def taskLts (s : State) (t : Task) : Nat := t.cores.foldl (fun n c => Nat.max n (s.ctxAt c t.x).lts.toNat) t.ts.toNat

/-- A record waits for its instance's task units, first in, first out (R27, R289); an ended instance drops it (R465). -/
def holdRecord (s : State) (n : Nat) (h : Held) : State :=
  match s.inst? n with
  | some i => if i.ended then s else s.setInst n { i with recs := i.recs ++ [h] }
  | none => s

end Sys2Proof.Machine
end

