-- ==== Sys2Proof/Machine/Checks.lean ====
section
/-! DEFINITION. What a slot operation is checked for before its bundle issues (R167, steps 3 to 8): privilege, grants,
illegal operations, footprint, translation and residency. -/

namespace Sys2Proof.Machine
open Sys2Proof

/-! ## Accesses an operation makes -/

/-- A single access or granule to be checked: its address and length, whether it is misaligned, carries a full-empty
qualifier, reads or writes for the footprint, may reach untracked regions, is an LDG's, what it is for R426, and which
form of doorbell access it is (1 LD.d, 2 ST.d, 3 AMAXN.d). -/
structure Want where
  idx : Nat
  va : Nat
  len : Nat
  mis : Bool
  fe : Bool
  rd : Bool
  wr : Bool
  sync : Bool
  ldg : Bool
  kind : Nat
  bell : Nat
  deriving DecidableEq, Repr

/-- A plain read. -/
def Want.read (va len : Nat) : Want :=
  { idx := 0, va, len, mis := decide (va % len ≠ 0), fe := false, rd := true, wr := false, sync := false, ldg := false
    kind := 0, bell := 0 }
/-- A plain write. -/
def Want.write (va len : Nat) : Want := { Want.read va len with rd := false, wr := true, kind := 1 }
/-- An atomic: a write for the footprint, read and write for the leaf (R138, R422). -/
def Want.atomic (va len : Nat) : Want := { Want.read va len with rd := false, wr := true, sync := true, kind := 2 }
/-- The same access with a full-empty qualifier (R101, R114). -/
def Want.qualified (w : Want) : Want := { w with mis := decide (w.va % 16 ≠ 0), fe := true, sync := true }

/-- Insertion by address. -/
def insWant (w : Want) : List Want → List Want
  | [] => [w]
  | h :: t => if w.va < h.va then w :: h :: t else h :: insWant w t
/-- Accesses in ascending address (R100). -/
def sortWants (ws : List Want) : List Want := ws.foldl (fun a w => insWant w a) []

/-- Whether granule j of a register holds a byte of an active lane (R228). -/
def granOn (w : Nat) (k : MaskW) (j : Nat) : Bool := bits (byteMask w k) (16 * j) 16 ≠ 0

/-- The accessed granules of a vector access of stride `st` (R227, R228). -/
def vecWants (s : State) (t : VTy) (g : VpReg) (ea st : Nat) (wr : Bool) : List Want :=
  let mis : Bool := decide (ea % 16 ≠ 0 ∨ st % 16 ≠ 0)
  let gs := (List.range 32).filter fun j => granOn t.bytes (s.rvp g) j
  sortWants (gs.map fun j =>
    let va := (ea + j * st) % 2 ^ 64
    { (if wr then Want.write va 16 else Want.read va 16) with idx := j, mis })

/-- The index of lane i of VLDX (R230). -/
def vldxIdx (t : VTy) (x : VecW) (i : Nat) : Nat := if t.bytes = 2 then lane 2 x i else lane 4 x i

/-- The scalar accesses of VLDX, by lane. -/
def vldxWants (s : State) (t : VTy) (b : VReg) (m : VMem) (g : Guard) : List Want :=
  let w := t.bytes
  let ea := (s.vea m).toNat
  let x := s.rv b
  let ls := (List.range (512 / w)).filter fun i => laneOn w (s.rvp g.g) i
  sortWants (ls.map fun i => { Want.read ((ea + vldxIdx t x i * w) % 2 ^ 64) w with idx := i, mis := decide (ea % w ≠ 0) })

/-- Where VLDW's granule 0 lies (R231). -/
def vldwBase (s : State) (k : Fin 4) (m : VMem) : Nat :=
  let w := s.me.windows[k.val]
  let x := (s.rs m.base).toNat
  (w.b.toNat + x % w.q.toNat * w.l.toNat + (m.disp.toNat * 16)) % 2 ^ 64

/-- The accesses that an operation makes, in the order in which their causes count (R100, R167). -/
def wants (s : State) (i : Instr) : List Want :=
  match i with
  | .ld sz _ _ a disp _ => [{ Want.read (s.ea a disp).toNat sz.bytes with bell := if sz = .d then 1 else 0 }]
  | .st sz _ a disp => [{ Want.write (s.ea a disp).toNat sz.bytes with bell := if sz = .d then 2 else 0 }]
  | .ldfe _ sz _ _ a disp _ => [(Want.read (s.ea a disp).toNat sz.bytes).qualified]
  | .stfe _ sz _ a disp => [(Want.write (s.ea a disp).toNat sz.bytes).qualified]
  | .ldg sz _ _ a _ disp _ => [{ Want.read (s.ea a disp).toNat sz.bytes with ldg := true }]
  | .aadd _ a _ o | .amin _ a _ o | .amax _ a _ o | .aminn _ a _ o | .aand _ a _ o | .aor _ a _ o | .axor _ a _ o
  | .axchg _ a _ o | .acas _ a _ o | .afadd _ a _ o | .red _ a _ o => [Want.atomic (s.ea a o.disp).toNat o.size.bytes]
  | .amaxn _ a _ o =>
    [{ Want.atomic (s.ea a o.disp).toNat o.size.bytes with bell := if o.size = .d then 3 else 0 }]
  | .arrive _ _ a disp _ | .binit _ a _ disp => [Want.atomic (s.ea a disp).toNat 16]
  | .waitb _ _ a _ disp _ | .waitbTry _ _ a _ disp _ => [{ Want.read (s.ea a disp).toNat 16 with sync := true }]
  | .watch _ a disp _ =>
    let va := (s.ea a disp).toNat
    (List.range 4).map fun j => { Want.read ((va + 16 * j) % 2 ^ 64) 16 with idx := j, mis := decide (va % 64 ≠ 0) }
  | .vld t _ m g => vecWants s t g.g (s.vea m).toNat 16 false
  | .vst t _ m g => vecWants s t g (s.vea m).toNat 16 true
  | .vldfe _ t _ m g => (vecWants s t g.g (s.vea m).toNat 16 false).map fun w => { w with fe := true, sync := true }
  | .vstfe _ t _ m g => (vecWants s t g (s.vea m).toNat 16 true).map fun w => { w with fe := true, sync := true }
  | .vlds t _ c m g => vecWants s t g.g (s.vea m).toNat (s.rs (c.castLE (by decide))).toNat false
  | .vsts t _ c m g => vecWants s t g (s.vea m).toNat (s.rs (c.castLE (by decide))).toNat true
  | .vldw t _ k m g => (vecWants s t g.g (vldwBase s k m) 16 false).map fun w => { w with fe := true, sync := true }
  | .vldx t _ b m g => vldxWants s t b m g
  | _ => []

/-- Whether the operand addresses of a vector access break R227's or R230's alignment, active lanes or none. -/
def vecMisaligned (s : State) (i : Instr) : Bool :=
  match i with
  | .vld _ _ m _ | .vst _ _ m _ | .vldfe _ _ _ m _ | .vstfe _ _ _ m _ => (s.vea m).toNat % 16 ≠ 0
  | .vlds _ _ c m _ | .vsts _ _ c m _ => (s.vea m).toNat % 16 ≠ 0 || (s.rs (c.castLE (by decide))).toNat % 16 ≠ 0
  | .vldx t _ _ m _ => (s.vea m).toNat % t.bytes ≠ 0
  | _ => false

/-! ## Ranges of copy jobs -/

/-- The aperture code of a range of bytes (R98), segment by segment. -/
def apertureCode (s : State) (va : Nat) : Nat → Nat → Option Nat
  | 0, _ => none
  | n + 1, len =>
    if len = 0 then none
    else
      let k := Nat.min len (grovePitch - va % grovePitch)
      let c := match apertureAt s va k with | .ok _ => none | .error c => some c
      match c, apertureCode s (va + k) n (len - k) with
      | some a, some b => some (Nat.min a b)
      | some a, none => some a
      | none, o => o

/-- The illegal-operation code of a known range (R96, R98, R110). -/
def rangeCode (s : State) (va len : Nat) : Option Nat :=
  if len = 0 then none
  else if 2 ^ 57 < va + len then some 0x40
  else
    let lo := Nat.max va (aperture * 2 ^ 32)
    if va + len ≤ aperture * 2 ^ 32 then none
    else apertureCode s lo ((va + len - lo) / grovePitch + 2) (va + len - lo)

/-- A known range of a job: whether the job writes it. -/
abbrev JobRange := Nat × Nat × Bool

/-- The smallest range of addresses that holds every row of a two-dimensional copy (R244). -/
def hull (base stride bytes rows : Nat) : Nat × Nat :=
  if rows = 0 ∨ bytes = 0 then (base, 0)
  else
    let st : Int := if stride < 2 ^ 63 then (stride : Int) else (stride : Int) - (2 ^ 64 : Nat)
    let last : Int := (base : Int) + ((rows - 1 : Nat) : Int) * st
    if last < 0 ∨ (2 ^ 64 : Nat) < last + (bytes : Int) then
      -- rows that wrap round the 64-bit space leave every range short of it
      (0, 2 ^ 64)
    else
      let l := last.toNat
      let lo := Nat.min base l
      (lo, Nat.max base l + bytes - lo)

/-- The tensor rows that a window operation starts fetching and that lie in the tensor (R110, R111). -/
def fetchRanges (t p l n : Nat) (first : Int) (count : Nat) : List JobRange :=
  (List.range (Nat.min count 1024)).filterMap fun i =>
    let x := first + (i : Nat)
    if x < 0 ∨ (n : Int) ≤ x ∨ (2 ^ 32 : Int) ≤ x then none else some ((t + x.toNat * p) % 2 ^ 64, l, false)

/-- The first row and the row count that WADV fetches (R111). -/
def wadvRows (w : Window) (k : Nat) : Int × Nat := (w.h + (w.q.toNat : Int), k)

/-- The ranges of a copy operation that are known at issue (R138, R244, R246). -/
def jobRanges (s : State) (i : Instr) : List JobRange :=
  let r (a : SReg) : Nat := (s.rs a).toNat
  let b (a : SReg) (n : Nat) : Nat := (s.rs (Fin.ofNat 64 (a.val + n))).toNat
  match i with
  | .cpy _ _ d x l | .rput _ d x l | .rget _ _ d x l => [(r d, r l, true), (r x, r l, false)]
  | .cpy2d _ _ a =>
    let h := hull (b a 0) (b a 1) (b a 4) (b a 5)
    let k := hull (b a 2) (b a 3) (b a 4) (b a 5)
    [(h.1, h.2, true), (k.1, k.2, false)]
  | .gather _ _ a | .scatter _ a =>
    let wr : Bool := match i with | .gather .. => true | _ => false
    if b a 5 = 0 ∨ b a 3 = 0 then []
    else
      let e0 := b a 4 / b a 3
      let e1 := (b a 4 + b a 5 - 1) / b a 3
      [(b a 0, b a 5, wr), (b a 1 + 4 * e0, 4 * (e1 - e0 + 1), false)]
  | .osfill _ _ x l | .mcast _ _ x l => (List.range 64).map fun n => (rowBase (r x) (r l) n, 256, false)
  | .wswrite _ _ x l => [(r x, r l, false)]
  | .wopen _ _ a => (b a 4, b a 5 * b a 2, true) :: fetchRanges (b a 0) (b a 1) (b a 2) (b a 3)
      (s.rs (Fin.ofNat 64 (a.val + 6))).toInt (b a 5)
  | .wadv _ k a =>
    let w := s.me.windows[k.val]
    let f := wadvRows w (r a)
    fetchRanges w.t.toNat w.p.toNat w.l.toNat w.n.toNat f.1 f.2
  | .rsig _ _ _ a _ => [(r a, 8, true)]
  | .cflush _ a l | .cinv _ a l => [(r a, r l, false)]
  | .groll _ _ x _ => [(b x 0, b x 1, true)]
  | _ => []

/-! ## Step 3: privilege (R58, R286) -/

/-- Registers of R58 that no context may write. -/
def sysFixed (n : Nat) : Bool := [0x000, 0x001, 0x002, 0x011, 0x012, 0x013, 0x014].contains n
/-- The numbers of R58. -/
def sysKnown (n : Nat) : Bool :=
  [0x000, 0x001, 0x002, 0x008, 0x009, 0x00A, 0x010, 0x011, 0x012, 0x013, 0x014, 0x018, 0x019, 0x01A, 0x020, 0x021,
   0x022, 0x023, 0x024].contains n

/-- The privilege code of an operation. -/
def privCode (s : State) (i : Instr) : Option Nat :=
  match i with
  | .wrsys _ n =>
    if !sysKnown n.toNat then none
    else if sysFixed n.toNat || (!s.service && n.toNat ≠ 0x010) then some 1 else none
  | .halt => if s.service then none else some 2
  | .snap .. | .gdrop .. | .groll .. | .ckpt .. => match s.myInst with | some n => if n.gen then none else some 3 | none => none
  | _ => none

/-! ## Step 4: grants (R53, R262, R275) -/

/-- Registers that a vector of `d` elements occupies. -/
def vecRegs (d : Nat) : Nat := ceilDiv d 128
/-- The length of the register block of a fast-weight operation through binding `b` (R275). -/
def fwBlock (b : Binding) (i : Instr) : Nat :=
  let q := vecRegs (2 ^ b.ldk)
  let v := vecRegs (2 ^ b.ldv)
  if b.st ≠ .bound then 1
  else
    match i with
    | .fwread .. => q
    | .fwwrite .. => q + v + 1
    | .fwstep .. => 2 * q + v + 1
    | _ => 1

/-- One past the highest vector register that an operation names. -/
def vTop (s : State) (i : Instr) : Nat :=
  let m (xs : List VReg) : Nat := xs.foldl (fun n r => Nat.max n (r.val + 1)) 0
  match i with
  | .vadd _ d a b _ | .vsub _ d a b _ | .vmul _ d a b _ | .vmin _ _ d a b _ | .vmax _ _ d a b _ | .vaddsat _ _ d a b _
  | .vsubsat _ _ d a b _ | .vmulh _ _ d a b _ | .vdiv _ d a b _ | .vand _ d a b _ | .vor _ d a b _ | .vxor _ d a b _
  | .vsel _ d a b _ _ | .vshuf _ _ d a b _ | .vdot _ _ d a b _ => m [d, a, b]
  | .vfma _ d a b c _ | .vfms _ d a b c _ | .vfnma _ d a b c _ | .vqnt _ _ _ d a b c _ | .vdqnt _ _ _ d a b c _
  | .vperm _ d a b c _ => m [d, a, b, c]
  | .vabs _ d a _ | .vneg _ d a _ | .vrcp _ d a _ | .vrsq _ d a _ | .vexp2 _ d a _ | .vlog2 _ d a _ | .vtanh _ d a _
  | .vsigm _ d a _ | .vsqrt _ d a _ | .vnot _ d a _ | .vmov _ d a _ | .vcvt _ _ _ _ _ _ d a _ | .vrot _ d a _ _
  | .vrsum _ _ d a _ | .vrmax _ _ d a _ | .vrmin _ _ d a _ | .vargmax _ _ d a _ | .vscan _ d a _ => m [d, a]
  | .vshl _ d a y _ | .vshr _ d a y _ | .vsar _ d a y _ => m (match y with | .reg b => [d, a, b] | .imm _ => [d, a])
  | .vcmp _ _ _ _ a b _ => m [a, b]
  | .vextr _ _ _ a _ => m [a]
  | .vbcast _ d _ _ | .vinsr _ d _ _ | .viota _ d _ _ | .vfromacc _ d _ _ _ => m [d]
  | .vtoacc _ _ a _ _ => m [a]
  | .vtopk _ _ _ d c a _ => m [d, c, a]
  | .vld _ d _ _ | .vldfe _ _ d _ _ | .vldw _ d _ _ _ | .vlds _ d _ _ _ => m [d]
  | .vldx _ d b _ _ => m [d, b]
  | .vst _ a _ _ | .vstfe _ _ a _ _ | .vsts _ a _ _ _ => m [a]
  | .fwread fb _ _ x | .fwfade fb x | .fwwrite _ fb x | .fwstep _ _ fb _ _ x => x.val + fwBlock s.me.fb[fb.val] i
  | _ => 0

/-- One past the highest accumulator tile that an operation names. -/
def accTop (i : Instr) : Nat :=
  match i with
  | .vfromacc _ _ a _ _ => a.val + 1
  | .vtoacc _ d _ _ _ => d.val + 1
  | .mwait m => ((List.range 8).filter fun n => tst m n).foldl (fun n k => Nat.max n (k + 1)) 0
  | .fwread _ d _ _ => d.val + 1
  | .fwstep _ _ _ d _ _ => d.val + 1
  | .fwchunk _ _ _ d _ _ _ _ noread => if noread then 0 else d.val + 1
  | _ =>
    let t := matTiles i
    (t.1.toList ++ t.2).foldl (fun n a => Nat.max n (a.val + 1)) 0

/-- Whether an operation names a register beyond the context's grant. -/
def grantBad (s : State) (i : Instr) : Bool := s.me.vGrant < vTop s i || s.me.aGrant < accTop i

/-! ## Step 5: illegal operations -/

/-- The lowest of several codes, each with its condition. -/
def lowest (cs : List (Bool × Nat)) : Option Nat :=
  cs.foldl (fun o c => if c.1 then some (match o with | some n => Nat.min n c.2 | none => c.2) else o) none

/-- Instructions that R287 forbids in a staged task. -/
def notStaged (i : Instr) : Bool :=
  match i with
  | .watch .. | .unwatch .. | .snap .. | .gdrop .. | .groll .. | .ckpt .. | .hnew .. | .hfree .. | .hfork .. | .havg ..
  | .hsnap .. | .hroll .. | .hmig .. | .hpin .. | .hunpin .. | .pgready .. | .phase _ => true
  | _ => false
/-- Instructions that R238 forbids in a staged task wherever they act. -/
def syncOp (i : Instr) : Bool :=
  match i with
  | .aadd .. | .amin .. | .amax .. | .aminn .. | .amaxn .. | .aand .. | .aor .. | .axor .. | .axchg .. | .acas ..
  | .afadd .. | .red .. | .fence _ | .arrive .. | .waitb .. | .waitbTry .. | .binit .. | .rsig .. => true
  | _ => false
/-- Qualified accesses, which R238 forbids in a staged task outside its own grant. -/
def qualOp (i : Instr) : Bool :=
  match i with
  | .ldfe .. | .stfe .. | .vldfe .. | .vstfe .. => true
  | _ => false
/-- Instructions that the service context may not issue (R286). -/
def notService (i : Instr) : Bool :=
  match i with
  | .spawn .. | .tabort _ | .tstat .. | .watch .. | .phase _ => true
  | _ => false

/-- Whether the context that acts holds an operand slot. -/
def holdsSlot (s : State) (n : Nat) : Bool := match s.myCore.slots[n]? with | some o => o.holder = some s.ctx | none => false
/-- Whether a fill is still filling an operand slot of the context. -/
def slotFilling (s : State) (n : Nat) : Bool := match s.myCore.slots[n]? with | some o => o.fill.isSome | none => false

/-- The code of one access before translation, with LDG's own (R225, R298). -/
def wantCode (s : State) (w : Want) (gen : Bool) (staged : Bool) : Option Nat :=
  let c0 := addrCode s w.va w.len w.mis w.fe
  let cs : List (Bool × Nat) := [(w.ldg && gen, 0x49), (w.ldg && inAperture w.va, 0x4A),
    (staged && !inGrant s w.va w.len, 0x4D)]
  match c0, lowest cs with
  | some a, some b => some (Nat.min a b)
  | some a, none => some a
  | none, o => o

/-- Whether a generation's versions can be read: it is live and not dropped (R225, R355). -/
def Gen.readable (k : Gen) : Bool :=
  !k.dropped && (match k.st with | .live | .draining | .checkpointed | .failed => true | _ => false)
/-- Whether a register names a readable generation. -/
def genLive (s : State) (x : W64) : Bool := x.toNat < 64 && (s.genAt x.toNat).readable

/-- The code of the first access that fails, in ascending address: WATCH's descriptor counts as four loads, each with its own lowest
code (R100, R293; DEDUCED, assumption log 96). -/
def wantsCode (s : State) (i : Instr) : Option Nat :=
  let gen : Bool := match i with | .ldg _ _ _ _ b _ _ => !genLive s (s.rs b) | _ => false
  (wants s i).findSome? fun w => wantCode s w gen (s.staged && qualOp i)

/-- VLDW's own checks, in its own order (R231). -/
def vldwCode (s : State) (k : Fin 4) (m : VMem) : Option Nat :=
  let w := s.me.windows[k.val]
  let x : Int := ((s.rs m.base).toNat : Int)
  if !w.isOpen then some 0x4C
  else if m.disp.slt 0 || w.l.toNat < m.disp.toNat * 16 + 512 then some 0x4B
  else if x < w.h ∨ w.h + (w.q.toNat : Int) ≤ x then some 0x4C
  else none

/-- Rows and columns of the operands of a matrix instruction (R254). -/
def operandShape (i : Instr) : Option ((Nat × Nat) × (Nat × Nat)) :=
  match i with
  | .mmaBf16 .. | .mmaF16 .. | .mmawI4 .. | .mmawE2m1 .. => some ((64, 128), (128, 64))
  | .mmaF32 .. => some ((64, 64), (64, 64))
  | .mmaF64 .. => some ((32, 64), (64, 32))
  | .mmaI8 .. | .mgrpI4i8 .. | .mgrpI8 .. => some ((64, 256), (256, 64))
  | _ => none

/-- The parameter registers of a matrix instruction. -/
def matPars (i : Instr) : Option (MpReg × MpReg) :=
  match i with
  | .mmaBf16 _ a b _ | .mmaF16 _ a b _ | .mmaF32 _ a b _ | .mmaF64 _ a b _ | .mmaI8 _ a b _ | .mmawI4 _ a b _
  | .mmawE2m1 _ a b _ | .mgrpI4i8 _ a b _ _ | .mgrpI8 _ a b _ _ | .mscac _ _ a b _ => some (a, b)
  | _ => none

/-- The matrix codes of R266. -/
def matCode (s : State) (i : Instr) : Option Nat :=
  match matPars i with
  | none => none
  | some (ra, rb) =>
    let pa := s.rmp ra
    let pb := s.rmp rb
    let held : Bool := (matSlots i pa pb).all (holdsSlot s)
    let shape : Bool := match operandShape i with
      | some (a, b) => decide (a.1 < mpRows pa + 1 ∨ a.2 < mpCols pa + 1 ∨ b.1 < mpRows pb + 1 ∨ b.2 < mpCols pb + 1)
      | none => false
    let G := grpSize (mpGrp pb)
    let tables : Bool := match i with
      | .mmawI4 .. | .mmawE2m1 .. =>
        let n := 128 / G
        let i4 : Bool := match i with | .mmawI4 .. => true | _ => false
        decide (16384 < mpSoff pb + n * 128 ∨ (i4 ∧ 16384 < mpZoff pb + n * 64))
      | .mgrpI4i8 _ _ _ _ g | .mgrpI8 _ _ _ _ g => decide (16384 < mpZoff pb + g.val * 64 + 64)
      | .mscac _ _ _ _ g => decide (16384 < mpSoff pa + 256 ∨ 16384 < mpSoff pb + g.val * 128 + 128)
      | _ => false
    let usesGrp : Bool := match i with
      | .mmawI4 .. | .mmawE2m1 .. | .mgrpI4i8 .. | .mgrpI8 .. | .mscac .. => true | _ => false
    let group : Bool := match i with
      | .mgrpI4i8 _ _ _ _ g | .mgrpI8 _ _ _ _ g | .mscac _ _ _ _ g => decide (256 < (g.val + 1) * G)
      | _ => false
    lowest [(!held, 0x60), (shape, 0x61), (usesGrp && mpGrp pb = 0, 0x62), (usesGrp && mpGrp pb ≠ 0 && group, 0x63),
      (usesGrp && mpGrp pb ≠ 0 && tables, 0x64)]

/-- Rows of an accumulator that an output of length d_v takes (R275). -/
def outRows (b : Binding) : Nat := ceilDiv (2 ^ b.ldv) 64

/-- The object and units of a binding's handle for the issuer. -/
def bindLook (s : State) (b : Binding) : Option (Obj × List Nat) := lookHandle s (s.myGrove.part) b.handle

/-- The fast-weight codes of R273, R275, R277 and R280. -/
def fwCode (s : State) (i : Instr) : Option Nat :=
  let fbOf (r : FbReg) : Binding := s.me.fb[r.val]
  let common (r : FbReg) (wr : Bool) : List (Bool × Nat) :=
    let b := fbOf r
    let bound : Bool := b.st = .bound
    [(bound && (bindLook s b).isNone, 0x70), (bound && wr && selOf b.handle ≠ 0, 0x72), (!bound, 0x74),
     (wr && s.staged, 0x75)]
  match i with
  | .fwbind fb h t =>
    match lookHandle s s.myGrove.part (s.rs h) with
    | none => some 0x70
    | some (o, _) => lowest [(o.tiles ≤ t.val, 0x71), ((fbOf fb).st ≠ .free, 0x73)]
  | .fwread fb _ row _ =>
    lowest (common fb false ++ [((fbOf fb).st = .bound && 64 < row.val + outRows (fbOf fb), 0x76)])
  | .fwfade fb _ => lowest (common fb true)
  | .fwwrite _ fb _ => lowest (common fb true)
  | .fwstep _ _ fb _ row _ =>
    lowest (common fb true ++ [((fbOf fb).st = .bound && 64 < row.val + outRows (fbOf fb), 0x76)])
  | .fwchunk _ _ fb _ pk pv pq n noread =>
    let b := fbOf fb
    let toks := n.val + 1
    let k := s.rmp pk
    let v := s.rmp pv
    let q := s.rmp pq
    let slots := [mpSlot k, mpSlot v, mpSslot q] ++ (if noread then [] else [mpSlot q])
    lowest (common fb true ++
      [(!slots.all (holdsSlot s), 0x60),
       (b.st = .bound && (4096 < toks * 2 ^ b.ldk || 4096 < toks * 2 ^ b.ldv ||
          (!noread && 64 < toks * outRows b) || 16384 < mpSoff q + 8 * toks), 0x77)])
  | _ => none

/-- The weight-store mode of the kernel that acts on its die: 0 none, 1 reading, 2 writing (R105). -/
def wsMode (s : State) : Nat := match s.myInst with | some i => i.img.ws | none => 0

/-- The copy codes of R246, with those of R102 (R96, R98). WADV on a closed window has no Q to hold its count against, and WOPEN
parameters outside R110 name no ring or rows to resolve: each records its own code alone (DEDUCED, assumption log 96). -/
def copyCode (s : State) (i : Instr) : Option Nat :=
  let r (a : SReg) : Nat := (s.rs a).toNat
  let b (a : SReg) (n : Nat) : Nat := (s.rs (Fin.ofNat 64 (a.val + n))).toNat
  let rc := ((jobRanges s i).filterMap fun x => rangeCode s x.1 x.2.1).map fun c => (true, c)
  let slotBad (n : Fin 16) : Bool := !holdsSlot s n.val || slotFilling s n.val
  match i with
  | .cpy _ _ d x l | .rget _ _ d x l =>
    lowest (rc ++ [(decide (2 ^ 32 < r l), 0x50), (overlap (r d) (r l) (r x) (r l), 0x58)])
  | .rput _ d x l =>
    lowest (rc ++ [(s.staged, 0x4E), (2 ^ 32 < r l, 0x50), (overlap (r d) (r l) (r x) (r l), 0x58)])
  | .cpy2d _ _ a =>
    let h := hull (b a 0) (b a 1) (b a 4) (b a 5)
    let k := hull (b a 2) (b a 3) (b a 4) (b a 5)
    lowest (rc ++ [(decide (2 ^ 32 < b a 4 ∨ 2 ^ 20 < b a 5), 0x50), (overlap h.1 h.2 k.1 k.2, 0x58)])
  | .gather _ _ a | .scatter _ a =>
    let z := b a 3
    let ok : Bool := 16 ≤ z && z ≤ 2 ^ 20 && z = 2 ^ Nat.log2 z && b a 4 % 16 = 0 && b a 5 % 16 = 0 &&
      b a 5 ≤ 2 ^ 32 && b a 1 % 4 = 0
    lowest (rc ++ [(!ok, 0x50)])
  | .osfill _ n _ _ => lowest (rc ++ [(slotBad n, 0x51)])
  | .mcast _ n _ _ => lowest (rc ++ [(slotBad n, 0x51), (!s.me.gang, 0x55)])
  -- a kernel that holds no store cannot read one (DEDUCED, assumption log 66)
  | .wsfill _ n x => lowest [(decide (wsMode s = 0), 0x45), (2 ^ 30 < r x + 16384, 0x46), (slotBad n, 0x51)]
  | .wswrite _ d _ l =>
    lowest (rc ++ [(decide (wsMode s ≠ 2), 0x45), (decide (2 ^ 30 < r d + r l ∨ 2 ^ 30 ≤ r d), 0x46),
      (decide (2 ^ 32 < r l), 0x50)])
  | .wopen _ k a =>
    let ok : Bool := b a 1 % 16 = 0 && b a 2 % 16 = 0 && 16 ≤ b a 2 && b a 2 ≤ 65536 && 1 ≤ b a 5 && b a 5 ≤ 1024 &&
      b a 4 % 16 = 0 && inAperture (b a 4) && inAperture (b a 4 + b a 5 * b a 2 - 1)
    lowest ((if ok then rc else []) ++ [(!ok, 0x52), ((s.me.windows[k.val]).isOpen, 0x53)])
  | .wadv _ k a =>
    let w := s.me.windows[k.val]
    if !w.isOpen then some 0x54
    else if r a = 0 ∨ w.q.toNat < r a then some 0x47
    else lowest rc
  | .wclose _ k => if (s.me.windows[k.val]).isOpen then none else some 0x54
  | .rsig _ _ _ a _ => lowest (rc ++ [(decide (r a % 8 ≠ 0), 0x41), (s.staged, 0x4D)])
  | .cflush _ _ l | .cinv _ _ l => lowest (rc ++ [(decide (2 ^ 32 < r l), 0x50)])
  | _ => none

/-- The instances other than `n` that hold a grant, a task or a dictionary region in a grove (R108, R286). -/
def usedByOther (s : State) (g n : Nat) : Bool :=
  s.tasks.any (fun e => e.1 / 512 = g && e.2.inst ≠ n) ||
    (s.groveAt g).dict.any (fun d => d.inst ≠ n) ||
    (List.range 8).any fun c => (List.range 8).any fun x =>
      let k := s.ctxAt (g * 8 + c) x
      k.st ≠ .free && k.inst ≠ some n

/-- The scratchpad size of a phase of an image, in bytes (R383). -/
def phaseSize (i : Image) (n : Nat) : Nat := i.phases.getD n 0 * 524288
/-- Whether a live grant of a grove reaches beyond a scratchpad size (R108). -/
def grantBeyond (s : State) (g size : Nat) : Bool := (spadGrants s g).any fun r => size < r.1 + r.2

/-- The PHASE codes of R102 and R286. -/
def phaseCode (s : State) (n : Nat) : Option Nat :=
  match s.myInst, s.me.inst with
  | some i, some k =>
    let known : Bool := n < i.img.phases.length
    lowest [(known && grantBeyond s s.g (phaseSize i.img n), 0x48), (!known, 0x80), (usedByOther s s.g k, 0x84)]
  | _, _ => none

/-- The illegal-operation code of an operation: the lowest of its causes, VLDW's own order apart (R167). -/
def illopCode (s : State) (i : Instr) : Option Nat :=
  let own : Option Nat :=
    match i with
    | .vldw _ _ k m _ =>
      match vldwCode s k m with
      | some c => some c
      | none => wantsCode s i
    | .rdsys _ n | .wrsys _ n => if sysKnown n.toNat then none else some 0x81
    | .phase n => phaseCode s n.val
    | .groll _ _ b _ =>
      let base := (s.rs b).toNat
      let len := (s.rs (Fin.ofNat 64 (b.val + 1))).toNat
      lowest [(2 ^ 57 < base + len, 0x40), (overlap base len (aperture * 2 ^ 32) (2 ^ 32), 0x4A),
        (base % 4096 ≠ 0 || len % 4096 ≠ 0 || len = 0 || 2 ^ 32 < len, 0x85)]
    | .binit _ _ b _ =>
      let n := (bits (s.rs b) 32 17).toNat
      match wantsCode s i, decide (n = 0 ∨ 2 ^ 16 < n) with
      | some c, true => some (Nat.min c 0x57)
      | some c, false => some c
      | none, true => some 0x57
      | none, false => none
    | _ =>
      match wantsCode s i with
      | some c => some c
      | none =>
        if vecMisaligned s i then some 0x41
        else
          match matCode s i with
          | some c => some c
          | none =>
            match fwCode s i with
            | some c => some c
            | none => copyCode s i
  let rules := lowest [(s.staged && notStaged i, 0x82), (s.staged && syncOp i, 0x4D), (s.service && notService i, 0x83)]
  match own, rules with
  | some a, some b => some (Nat.min a b)
  | some a, none => some a
  | none, o => o

/-! ## Step 6: the footprint (R138) -/

/-- The footprint code of an operation. -/
def footCodeOf (s : State) (i : Instr) : Option Nat :=
  match (wants s i).findSome? fun w => footCode s w.va w.len w.rd w.wr w.sync with
  | some c => some c
  | none =>
    lowest ((jobRanges s i).filterMap fun x =>
      if x.2.1 = 0 then none else (footCode s x.1 x.2.1 (!x.2.2) x.2.2 false).map fun c => (true, c))

/-! ## Step 7: translation (R99, R422) -/

/-- What a leaf alone reveals of an access (R36, R225, R395), lowest first. -/
def leafCode (s : State) (w : Want) (p : Place) : Option Nat :=
  match p with
  | .dev _ | .spad .. => none
  | .bell q off =>
    let k := s.queueAt q
    let form : Bool := match w.bell with
      | 1 => off < 0x30
      | 2 => off = 0x00 || off = 0x18 || (s.service && off = 0x28)
      | 3 => off = 0x00 || off = 0x18
      | _ => false
    lowest [(s.staged && w.wr, 0x4E), (w.ldg, 0x4F), (!(qDevenq k.desc && form), 0x90)]
  | _ => lowest [(s.staged && w.wr, 0x4E), (w.ldg, 0x4F)]

/-- The finding of translation for one access. -/
def wantLeads (s : State) (w : Want) : Verdict :=
  let rd : Bool := w.rd || w.kind = 2
  match resolve s w.va w.len rd w.wr with
  | .ok p =>
    match leafCode s w p with
    | some c => .trap ⟨7, 3, c, s.slot.num, w.va, w.kind, 0⟩
    | none => if p.hole w.len then .hole else .pass
  | .miss => .miss ⟨s.ctx, w.va, rd, w.wr, s.slot.num, s.time.toNat⟩
  | .bad _ => .pass

/-- The finding of translation for an operation: its lowest-addressed failing granule. -/
def transVerdict (s : State) (i : Instr) : Verdict := (wants s i).foldl (fun v w => v.or (wantLeads s w)) .pass

/-! ## Step 8: residency (R274, R304, R327) -/

/-- The absence of one object (R274). -/
def absentTrap (s : State) (h : W64) : Option Trap :=
  match lookHandle s s.myGrove.part h with
  | none => none
  | some _ => (absentCode s (objKey h) s.g).map fun c => ⟨8, 8, c, s.slot.num, 0, 0, objKey h⟩

/-- The handles of an engine handle operation (R304, R307). -/
def engHandles (s : State) (i : Instr) : List W64 :=
  match i with
  | .hfork _ a _ | .hsnap _ a _ => [s.rs a]
  | .hroll _ a b _ => [s.rs a, s.rs b]
  | .havg _ a b n _ => s.blk a (n.val + 1) ++ [s.rs b]
  | _ => []

/-- The cause of the lowest code, the first of several (R167). -/
def lowestTrap (ts : List Trap) : Option Trap :=
  ts.foldl (fun o t => match o with | some a => if t.code < a.code then some t else some a | none => some t) none

/-- The residency finding of an operation: the lowest code among its handles. R327's finding is made by the operation's own
raise. -/
def absentVerdict (s : State) (i : Instr) (raiseBad : Bool) : Verdict :=
  let hs := match i with
    | .fwread fb .. | .fwfade fb _ | .fwwrite _ fb _ | .fwstep _ _ fb .. | .fwchunk _ _ fb .. => [(s.me.fb[fb.val]).handle]
    | _ => engHandles s i
  match lowestTrap (hs.filterMap (absentTrap s)) with
  | some t => .trap t
  | none =>
    match hs with
    | h :: _ => if raiseBad then .trap ⟨8, 8, 4, s.slot.num, 0, 0, objKey h⟩ else .pass
    | [] => .pass

end Sys2Proof.Machine
end

