-- ==== Sys2Proof/Machine/Requests.lean ====
section
/-! DEFINITION. What the units outside the core answer (R282-R311, R314): the grove task unit, the watch table, the
generation controller, the handle directory, the task unit's pager answers and sapwood. -/

namespace Sys2Proof.Machine
open Sys2Proof

/-! ## Statuses (R283) -/

/-- A status of R283. -/
inductive Status | ok | full | refused | none | denied | busy | exhausted | limit | pinned | deferred | noroom
  deriving DecidableEq, Repr
/-- The value of a status. -/
def Status.num : Status → Nat
  | .ok => 0 | .full => 1 | .refused => 2 | .none => 3 | .denied => 4 | .busy => 5 | .exhausted => 6 | .limit => 7
  | .pinned => 8 | .deferred => 9 | .noroom => 10
/-- A status as an answer. -/
def Status.word (x : Status) : W64 := BitVec.ofNat 64 x.num

/-- The register a request answers into. -/
def reqDest (i : Instr) : SReg :=
  match i with
  | .spawn d _ _ | .spawnk d _ _ _ | .tstat d _ _ | .watch d _ _ _ | .unwatch d _ _ | .wstat d _ _ | .snap d _
  | .gdrop d _ _ | .groll d _ _ _ | .ckpt d _ _ _ | .gstat d _ _ | .hnew d _ _ | .hfree d _ _ | .hfork d _ _
  | .havg d _ _ _ _ | .hsnap d _ _ | .hroll d _ _ _ | .hmig d _ _ _ | .hpin d _ _ | .hunpin d _ _ | .hstat d _ _
  | .pgready d _ _ _ | .svc d _ _ _ => d
  | _ => 0

/-- The partition of the context that acts: its grove's (R450). -/
def State.part (s : State) : BitVec 4 := s.myGrove.part
/-- The partition an instance was launched from (R394). -/
def instPart (s : State) (n : Nat) : BitVec 4 :=
  match s.inst? n with | some i => qPart i.desc | none => 0

/-! ## Tasks (R288-R291) -/

/-- A task creation's answer. -/
def spawnWord (id : Nat) (x : Status) : W64 := BitVec.ofNat 64 (id * 2 ^ 32 + x.num)

/-- A staged creator's record deferred to its commit (R289). -/
def deferRecord (s : State) (target : Option Nat) (r : Rec) : State :=
  match s.me.task.bind fun k => (s.task? k).map fun t => (k, t) with
  | some (k, t) => s.setTask k { t with deferred := t.deferred ++ [(target, r)] }
  | none => s

/-- SPAWN's answer (R288, R289, R465). -/
def spawnAnswer (s : State) (blk : List W64) : State × W64 :=
  match s.me.inst, s.myInst with
  | some n, some i =>
    let r := recOf blk
    if i.ended then (s, spawnWord 0 .none)
    else if recRefused i.img r then (s, spawnWord 0 .refused)
    else if s.staged then (deferRecord s none r, spawnWord 0 .deferred)
    else
      let o := mkOffer (spawnRank s.core s.ctx) i n r (setIndex i s.g) s.depth s.me.lts.toNat
      if offerRoom s o then
        let (s, id) := acceptOffer s o
        (s, spawnWord id .ok)
      else (s, spawnWord 0 .full)
  | _, _ => (s, spawnWord 0 .none)

/-- SPAWNK's answer (R288, R289, R451, R465). -/
def spawnkAnswer (s : State) (blk : List W64) (y : W64) : State × W64 :=
  let n := y.toNat
  match s.live? n with
  | none => (s, spawnWord 0 .none)
  | some i =>
    let r := recOf blk
    if 2 ^ 20 ≤ n ∨ i.ended then (s, spawnWord 0 .none)
    else if instPart s n ≠ s.part then (s, spawnWord 0 .denied)
    else if recRefused i.img r then (s, spawnWord 0 .refused)
    else if s.staged then (deferRecord s (some n) r, spawnWord 0 .deferred)
    else
      let o := mkOffer (spawnRank s.core s.ctx) i n r 0 0 s.me.lts.toNat
      if offerRoom s o then
        let (s, id) := acceptOffer s o
        (s, spawnWord id .ok)
      else (s, spawnWord 0 .full)

/-- The state number of a task (R291). -/
def TaskSt.num : TaskSt → Nat
  | .pending => 1 | .ready => 2 | .running => 3 | .parked => 4 | .preempted => 5 | .committing => 6 | .failed => 7

/-- TSTAT's answer. -/
def tstatAnswer (s : State) (x : W64) : W64 :=
  match s.me.inst, s.myInst with
  | some n, some i =>
    match i.img.groves[(bits x 25 7).toNat]? with
    | none => 0
    | some g =>
      match s.task? (taskKey g (bits x 16 9).toNat) with
      | some t =>
        if t.inst = n ∧ t.seq % 2 ^ 16 = (bits x 0 16).toNat then BitVec.ofNat 64 t.st.num else 0
      | none => 0
  | _, _ => 0

/-! ## Watches (R292-R295) -/

/-- Whether the descriptor word at an offset breaks its rows (R292). -/
def watchWordBad (d : BitVec 512) (off : Nat) : Bool :=
  match off with
  | 0x08 =>
    bits d 112 16 ≠ 0 || bits d 102 2 ≠ 0 || bits d 96 2 ≠ 0 || bits d 76 4 ≠ 0 || bits d 70 2 ≠ 0 ||
      wDepth d = 0 || 1 < wCoal d || wGran d < 4 || 12 < wGran d || wLen d < Nat.max 6 (wGran d) || 40 < wLen d
  | 0x10 => bits d 160 32 ≠ 0 || wRate d = 0
  | 0x20 | 0x28 | 0x30 | 0x38 =>
    let w := 8 * off
    bits d (w + 12) 20 ≠ 0 || 32 < (bits d (w + 6) 6).toNat
  | _ => false

/-- The offset of the first descriptor word found invalid by steps 1 to 3 of R293. -/
def watchDescBad (d : BitVec 512) (types : Nat) : Option Nat :=
  match [0x08, 0x10, 0x18, 0x20, 0x28, 0x30, 0x38].find? (watchWordBad d) with
  | some o => some o
  | none =>
    if wBase d % 2 ^ wLen d ≠ 0 then some 0
    else if types ≤ (wType d).toNat then some 8 else none

/-- The physical address of a range that lies in the heap window or in one page, of device memory (R293, step 4). A walk that reads poison
finds no page (DESIGN CHOICE, assumption log 101). -/
def watchRange (s : State) (asid : Nat) (base limit off va len : Nat) : Option Nat :=
  let dev (pa : Nat) : Option Nat := if pa + len ≤ devSize then some pa else none
  if 2 ^ 57 ≤ va ∨ 2 ^ 57 < va + len ∨ overlap va len (aperture * 2 ^ 32) (2 ^ 32) then none
  else if base ≤ va ∧ va + len ≤ base + limit then dev ((va + off) % 2 ^ 64)
  else if overlap va len base limit then none
  else
    match walkPoison s asid va, walk s asid va with
    | none, some e => if e.tgt = 0 ∧ va % 2 ^ e.k + len ≤ 2 ^ e.k then dev (e.pa + va % 2 ^ e.k) else none
    | _, _ => none

/-- The lowest free index of a die's watch table (R335). -/
def freeWatch (s : State) (d : Nat) : Option Nat := (List.range 1024).find? fun i => (Map.get? s.watches (d * 1024 + i)).isNone

/-- An entry installed. -/
def installWatch (s : State) (e n : Nat) (static : Bool) (pa : Nat) (d : BitVec 512) : State :=
  { s with watches := Map.set s.watches e ⟨n, static, pa, 2 ^ wLen d, d, false, 0, 0, [], 0, 0⟩ }

/-- WATCH's answer once its descriptor has been read (R293). An entry of an instance that has been ended is freed as it is installed
(R346, R465; DEDUCED, assumption log 99). -/
def watchAnswer (s : State) (d : BitVec 512) : State × W64 :=
  let refuse (o : Nat) : State × W64 := (s, BitVec.ofNat 64 (o * 256 + Status.refused.num))
  match s.me.inst, s.myInst, s.myTask with
  | some n, some i, some t =>
    match watchDescBad d i.img.types.length with
    | some o => refuse o
    | none =>
      let va := wBase d
      let len := 2 ^ wLen d
      let k := s.me
      match watchRange s s.asid k.heapBase.toNat k.heapLimit.toNat k.heapOff.toNat va len with
      | none => refuse 0
      | some pa =>
        if !t.regions.any (fun r => r.base ≤ va && va + len ≤ r.base + r.len) then refuse 0
        else
          match freeWatch s s.die with
          | some e =>
            let s' := installWatch s (s.die * 1024 + e) n false pa d
            (if i.ended then s else s', BitVec.ofNat 64 ((s.die * 1024 + e) * 2 ^ 16))
          | none => (s, Status.full.word)
  | _, _, _ => (s, Status.none.word)

/-- UNWATCH's answer. -/
def unwatchAnswer (s : State) (x : W64) : State × W64 :=
  match Map.get? s.watches x.toNat with
  | none => (s, Status.none.word)
  | some w =>
    if s.me.inst = some w.inst then ({ s with watches := Map.del s.watches x.toNat }, Status.ok.word)
    else (s, Status.denied.word)

/-- WSTAT's answer. -/
def wstatAnswer (s : State) (x : W64) : W64 :=
  match Map.get? s.watches x.toNat with
  | none => 0
  | some w =>
    if s.me.inst ≠ some w.inst then 0
    else BitVec.ofNat 64 (w.shoots.toNat * 2 ^ 32 + w.pend.length % 2 ^ 16 * 2 ^ 16 +
      (if w.disabled then w.why * 256 + 2 else 1))

/-! ## Generations (R296-R300) -/

/-- Whether a generation number is taken. -/
def genTaken (s : State) (n : Nat) : Bool := let k := s.genAt n; k.st ≠ .free || k.dropped
/-- Generations that count towards the 64 of R296. -/
def gensTaken (s : State) : Nat := ((List.range 64).filter (genTaken s)).length

/-- SNAP's answer: a number that no generation holds (DESIGN CHOICE, assumption log 17) enters Cutting. -/
def snapAnswer (s : State) : State × W64 :=
  let fr := (List.range 64).filter fun n => !genTaken s n
  match fr with
  | [] => (s.count fun k => { k with snapFail := k.snapFail + 1 }, Status.limit.word)
  | _ =>
    if poolCap s ≤ s.copies.length then (s.count fun k => { k with snapFail := k.snapFail + 1 }, Status.exhausted.word)
    else
      let n := fr.getD (s.free 9400 % fr.length) 0
      let s := s.count fun k => { k with snapOk := k.snapOk + 1 }
      (s.setGen n { Gen.reset with st := .cutting }, BitVec.ofNat 64 (n * 256))

/-- Whether a restore of a generation is outstanding (R297, R298). -/
def rollOut (s : State) (n : Nat) : Bool :=
  s.ctxs.any fun e => e.2.jobs.any fun j => match j.op with | .groll .. => j.arg 0 = n && !j.moving | _ => false

/-- The generation a register names, unless it is free for the instructions of R297. -/
def genNamed (s : State) (x : W64) : Option (Nat × Gen) :=
  if 64 ≤ x.toNat then none
  else
    let k := s.genAt x.toNat
    if k.st = .free ∨ k.dropped then none else some (x.toNat, k)

/-- A generation freed, with the copies that only it drew (R297, R353). -/
def freeGen (s : State) (n : Nat) : State := freeCopies (s.setGen n Gen.reset)

/-- GDROP's answer (R297, R355). -/
def gdropAnswer (s : State) (x : W64) : State × W64 :=
  match genNamed s x with
  | none => (s, Status.none.word)
  | some (n, k) =>
    if k.st = .cutting then (s, Status.busy.word)
    else if rollOut s n then
      (s.setGen n { k with dropped := true, st := if k.st = .draining then .live else k.st }, Status.ok.word)
    else (freeGen s n, Status.ok.word)

/-- GROLL's answer: its job is accepted, or goes (R298). -/
def grollAnswer (s : State) (ord : Nat) (x : W64) : State × W64 :=
  let k := s.me
  let drop := s.setMe { k with jobs := k.jobs.filter fun j => j.ord ≠ ord || j.slot ≠ 0 }
  match genNamed s x with
  | none => (drop, Status.none.word)
  | some (_, g) =>
    if g.st = .cutting then (drop, Status.busy.word)
    else
      (s.setMe { k with jobs := k.jobs.map fun j =>
          if j.ord = ord ∧ j.slot = 0 then { j with moving := false, cut := g.cut } else j }, Status.ok.word)

/-- CKPT's answer. A generation that has been checkpointed keeps its state (R355; DEDUCED, assumption log 24). A target that another
generation is checkpointed to, or draining into, is taken, and what is written there takes the place of what it holds (DESIGN CHOICE,
assumption log 113). -/
def ckptAnswer (s : State) (x y : W64) : State × W64 :=
  match genNamed s x with
  | none => (s, Status.none.word)
  | some (n, k) =>
    if 64 ≤ y.toNat ∨ (Map.get? s.targets y.toNat).isNone then (s, Status.refused.word)
    else if k.st = .cutting ∨ k.st = .draining then (s, Status.busy.word)
    else if k.st = .live then (s.setGen n { k with st := .draining, target := y.toNat, done := 0 }, Status.ok.word)
    else (s, Status.ok.word)

/-- The state number of a generation (R300). -/
def GenSt.num : GenSt → Nat
  | .free => 0 | .cutting => 1 | .live => 2 | .draining => 3 | .checkpointed => 4 | .failed => 5

/-- Live and cutting generations; a dropped one counts as free for GSTAT (R297, R300). -/
def gensLive (s : State) : Nat := ((List.range 64).filter fun n => let k := s.genAt n; k.st ≠ .free && !k.dropped).length
/-- GSTAT's answer. -/
def gstatAnswer (s : State) (x : W64) : W64 :=
  if 128 ≤ x.toNat then 0xFF
  else if tst x 6 then
    BitVec.ofNat 64 (gensLive s * 2 ^ 32 + (poolCap s - s.copies.length) / 256)
  else
    match genNamed s x with
    | none => 0
    | some (_, k) => BitVec.ofNat 64 (k.done * 2 ^ 32 + k.st.num)

/-! ## State objects (R301-R310) -/

/-- Object numbers of this chip in use, those of operations under way among them. -/
def usedObjects (s : State) : List Nat :=
  (s.objs.map (·.1)) ++ (allEngOps s).map fun o => objKey o.new
/-- An object number of a home chip that no object has; which one, the directory chooses (DESIGN CHOICE, assumption log 17). -/
def newObject (s : State) (chip : Nat) : Nat :=
  let used := usedObjects s
  chip * 2 ^ 32 + firstFree ((used.filter fun k => k / 2 ^ 32 = chip).map (· % 2 ^ 32)) (2 ^ 32) used.length
    (s.free 9300 % (2 ^ 32 - 1) + 1)

/-- An object of the given shape, resident or in the state tier. -/
def blankObj (s : State) (wh : Where) (ldk ldv tiles : Nat) (half : Bool) (live : List Nat) (part : BitVec 4) : Obj :=
  { wh, ldk, ldv, tiles, half, live, snaps := [], nextSel := 1, pins := 0, decl := 0, lastUse := s.time.toNat
    waiters := [], roomFor := [], res := false, held := 0, extra := 0, part }

/-- Units that now hold zeros. -/
def zeroUnits (s : State) (us : List Nat) : State :=
  { s with units := s.units.filter (fun e => !us.contains e.1), badUnits := s.badUnits.filter fun u => !us.contains u }

/-- Whether HNEW refuses an object's description (R302). -/
def hnewBad (x : W64) : Bool :=
  let ldv := (bits x 12 4).toNat
  let ldk := (bits x 8 4).toNat
  decide (bits x 17 47 ≠ 0 ∨ bits x 6 2 ≠ 0 ∨ ldv < 3 ∨ 8 < ldv ∨ ldk < 3 ∨ 8 < ldk ∨
    4194304 < ((bits x 0 6).toNat + 1) * 2 ^ ldk * 2 ^ ldv * (if tst x 16 then 2 else 4))
/-- HNEW's answer (R302). With neither the grove nor the state tier able to hold the object, a case the spec leaves out, it is
NOROOM (DESIGN CHOICE, assumption log 75). -/
def hnewAnswer (s : State) (x : W64) : State × W64 :=
  let half := tst x 16
  let ldv := (bits x 12 4).toNat
  let ldk := (bits x 8 4).toNat
  let tiles := (bits x 0 6).toNat + 1
  let size := tiles * 2 ^ ldk * 2 ^ ldv * (if half then 2 else 4)
  if hnewBad x then (s, handleFail Status.refused.num)
  else
    let key := newObject s s.chip
    let us := newUnits s (unitsOf size)
    let wh := if us.length ≤ freeCharge s s.chip s.g then Where.resident s.chip s.g else .tier s.chip
    if wh = .tier s.chip ∧ !tierRoom s s.chip us.length then (s, handleFail Status.noroom.num)
    else ((zeroUnits s us).setObj key (blankObj s wh ldk ldv tiles half us s.part), handleOf key 0)

/-- HFREE's answer; `none` while operations on the object are under way (R303). -/
def hfreeAnswer (s : State) (part : BitVec 4) (h : W64) : Option (State × W64) :=
  match lookHandle s part h with
  | none => some (s, Status.none.word)
  | some (o, _) =>
    let key := objKey h
    let moving : Bool := match o.wh with | .moving .. => true | _ => false
    if moving then some (s, Status.busy.word)
    else if selOf h = 0 ∧ o.pins ≠ 0 then some (s, Status.pinned.word)
    else if objBusy s key then none
    else if selOf h = 0 then
      let s := freeObj (wakeWaiters s key) key
      some ((match o.wh with | .resident c g => seekAgain s c g | _ => s), Status.ok.word)
    else
      let s := s.setObj key { o with snaps := Map.del o.snaps (selOf h) }
      some ((match o.wh with | .resident c g => seekAgain s c g | _ => s), Status.ok.word)

/-- Whether a chip takes objects: this one, or another chip that a port reaches (DESIGN CHOICE, assumption log 12). -/
def chipReached (s : State) (chip : Nat) : Bool := chip = s.chip || s.ports.any fun e => e.2.st = .up

/-- HMIG's answer (R308); NOROOM for a state tier that is full (DESIGN CHOICE, assumption log 75). -/
def hmigAnswer (s : State) (part : BitVec 4) (h y : W64) : State × W64 :=
  match lookHandle s part h with
  | none => (s, Status.none.word)
  | some (o, _) =>
    let chip := (bits y 52 12).toNat
    let g := (bits y 0 7).toNat
    let key := objKey h
    if selOf h ≠ 0 ∨ bits y 7 45 ≠ 0 ∨ (96 ≤ g ∧ g ≠ 127) ∨ !chipReached s chip then (s, Status.refused.word)
    else if o.wh = (if g = 127 then .tier chip else .resident chip g) then (s, Status.ok.word)
    else
      match o.wh with
      | .moving .. => (s, Status.busy.word)
      | _ =>
        if o.pins ≠ 0 then (s, Status.pinned.word)
        else if g ≠ 127 ∧ 4096 < chargeMoved s key + pinnedCharge s chip g then (s, Status.noroom.word)
        else if g = 127 ∧ !tierRoom s chip o.units.length then (s, Status.noroom.word)
        else (acceptMove s key chip g, Status.ok.word)

/-- HPIN's answer (R309). -/
def hpinAnswer (s : State) (part : BitVec 4) (h : W64) : State × W64 :=
  match lookHandle s part h with
  | none => (s, Status.none.word)
  | some (o, _) =>
    let key := objKey h
    match o.wh with
    | .resident chip g =>
      let add := if o.pins = 0 then charge s key else 0
      if o.pins = 255 ∨ 3072 < pinnedCharge s chip g + add then (s, Status.limit.word)
      else (s.setObj key { o with pins := o.pins + 1 }, Status.ok.word)
    | _ => if o.pins = 255 then (s, Status.limit.word) else (s, Status.noroom.word)

/-- HUNPIN's answer: at 0 the earliest touch from another grove moves the object (R309, R325). -/
def hunpinAnswer (s : State) (part : BitVec 4) (h : W64) : State × W64 :=
  match lookHandle s part h with
  | none => (s, Status.none.word)
  | some (o, _) =>
    let key := objKey h
    if o.pins = 0 then (s, Status.limit.word)
    else
      let s := s.setObj key { o with pins := o.pins - 1 }
      match o.wh with
      | .resident c g =>
        if o.pins = 1 then
          match o.waiters.find? (fun w => w.place s ≠ (c, g)) with
          | some w => (acceptMove s key (w.place s).1 (w.place s).2, Status.ok.word)
          | none => (seekAgain s c g, Status.ok.word)
        else (s, Status.ok.word)
      | _ => (s, Status.ok.word)

/-- HSTAT's answer (R310). -/
def hstatAnswer (s : State) (h : W64) : W64 :=
  match lookHandle s s.part h with
  | none => BitVec.ofNat 64 (0x7F * 2 ^ 16)
  | some (o, _) =>
    let (chip, g, w) : Nat × Nat × Nat := match o.wh with
      | .resident c g => (c, g, 1) | .tier c => (c, 0x7F, 2) | .moving c _ _ _ => (c, 0x7F, 3)
    BitVec.ofNat 64 (chip * 2 ^ 52 + o.decl * 2 ^ 32 + o.pins * 2 ^ 24 + g * 2 ^ 16 + w)

/-! ## Engine handle operations (R304-R307, R322, R327) -/

/-- A snapshot of selector `n` holding the given units. -/
def effSnap (s : State) (key n : Nat) (us : List Nat) : State :=
  match s.obj? key with
  | some o => s.setObj key { o with snaps := Map.set o.snaps n us }
  | none => s
/-- A fork of an object holding the given units, in the grove that the object is in or is leaving: it is as if no move had been
accepted (R331). -/
def effFork (s : State) (key new : Nat) (us : List Nat) : State :=
  match s.obj? key with
  | some o =>
    let wh := match o.wh with | .moving c g .. => if g = 127 then Where.tier c else .resident c g | w => w
    s.setObj new (blankObj s wh o.ldk o.ldv o.tiles o.half us o.part)
  | none => s
/-- The live state of an object takes the content of the given units; units that it shares are copied first (R306, R320;
DEDUCED, assumption log 69). -/
def effRoll (s : State) (key : Nat) (us : List Nat) : State :=
  (List.range us.length).foldl (fun t k => writeUnit t key k (unitAt t (us.getD k 0))) s

/-- The state after the effect of a fork or snapshot on sharing; no other operation raises a charge (R320, R321). -/
def effOf (s : State) (part : BitVec 4) (i : Instr) (h : W64) (new : Nat) (sel : Nat) : State :=
  match lookHandle s part h with
  | none => s
  | some (_, us) =>
    match i with
    | .hsnap .. => effSnap s (objKey h) sel us
    | .hfork .. => effFork s (objKey h) new us
    | _ => s

/-- Units [lo, hi) of an object's live state, as a write of them leaves their sharing (R320). -/
def unshare (s : State) (key lo hi : Nat) : State :=
  (List.range (hi - lo)).foldl (fun s i => writeUnit s key (lo + i) 0) s
/-- The checks of the home directory on an engine handle operation (R305-R307, R322), on the machine as the operations before it
leave it: a failure, or the new selector or object. -/
def engCheck (s : State) (part : BitVec 4) (i : Instr) (srcs : List W64) (h y : W64) : Except Status W64 :=
  match i with
  | .hsnap .. =>
    match lookHandle s part h with
    | none => .error .none
    | some (o, _) =>
      if selOf h ≠ 0 then .error .refused
      else if 2 ^ 18 ≤ o.nextSel then .error .limit
      else
        let t := effOf s part i h 0 o.nextSel
        if 4096 < charge t (objKey h) then .error .limit else .ok (handleOf (objKey h) o.nextSel)
  | .hfork .. =>
    match lookHandle s part h with
    | none => .error .none
    | some (o, _) =>
      let n := newObject s o.chip
      let t := effOf s part i h n 0
      if 4096 < charge t (objKey h) ∨ 4096 < charge t n then .error .limit else .ok (handleOf n 0)
  | .hroll .. =>
    match lookHandle s part h, lookHandle s part y with
    | some _, some _ =>
      if selOf h ≠ 0 ∨ selOf y = 0 ∨ objKey h ≠ objKey y then .error .refused else .ok 0
    | _, _ => .error .none
  | .havg .. =>
    let os := (srcs ++ [y]).map fun x => lookHandle s part x
    match lookHandle s part y with
    | none => .error .none
    | some (d, _) =>
      if os.any (·.isNone) then .error .none
      else if selOf y ≠ 0 ∨ os.any (fun o => match o with
          | some (o, _) => o.tiles ≠ d.tiles || o.ldk ≠ d.ldk || o.ldv ≠ d.ldv || o.half ≠ d.half
          | none => true) then .error .refused
      else
        let keys := ((srcs ++ [y]).map objKey).eraseDups
        let total := keys.foldl (fun (n : Nat) k => n + (match s.obj? k with | some o => o.size | none => 0)) 0
        if 2097152 < total then .error .limit else .ok 0
  | _ => .ok 0

/-- What an engine operation under way leaves of who shares which units. A snapshot or fork that the directory has still to answer is
taken as it will be answered (R305, R322). -/
def effShare (s : State) (part : BitVec 4) (o : EngOp) : State :=
  match s.obj? (objKey o.handle) with
  | none => s
  | some ob =>
    match o.op with
    | .hsnap .. | .hfork .. =>
      if o.go then effOf s part o.op o.handle (objKey o.new) (selOf o.new)
      else
        match engCheck s part o.op [] o.handle 0 with
        | .ok n =>
          let t := effOf s part o.op o.handle (objKey n) (selOf n)
          match o.op, t.obj? (objKey o.handle) with
          | .hsnap .., some b => t.setObj (objKey o.handle) { b with nextSel := b.nextSel + 1 }
          | _, _ => t
        | .error _ => s
    | .hroll .. | .havg .. => unshare s (objKey o.handle) 0 ob.live.length
    | .fwread .. => s
    | _ => unshare s (objKey o.handle) (o.tile * ob.tileBytes / 1024) (ceilDiv ((o.tile + 1) * ob.tileBytes) 1024)
/-- The machine as the engine operations under way, issued before `ord`, will leave who shares which units: what the directory
checks an engine handle operation against, since it takes effect after them (R304, R305). -/
def effQueued (s : State) (part : BitVec 4) (ord : Nat) : State :=
  (((allEngOps s).filter fun o => o.ord < ord).foldl (fun a o => insOrd o a) []).foldl (fun s o => effShare s part o) s

/-- The raise in the charge of a grove that an engine handle operation makes on the machine it will meet; none where the
directory refuses it (R321, R322, R327). -/
def engRaise (s : State) (part : BitVec 4) (i : Instr) (h : W64) : Nat :=
  match engCheck s part i [] h 0, s.obj? (objKey h) with
  | .ok n, some o =>
    match o.wh with
    | .resident c g | .moving c g .. => usedCharge (effOf s part i h (objKey n) (selOf n)) c g - usedCharge s c g
    | .tier _ => 0
  | _, _ => 0

/-- The raise in charge that an engine handle operation of the context that acts needs beyond what is under way (R327). -/
def raiseOf (s : State) (i : Instr) : Nat :=
  match i with
  | .hfork _ a _ | .hsnap _ a _ => engRaise (effQueued s s.part s.nextOrd) s.part i (s.rs a)
  | _ => 0
/-- The raise that a parked context waits for, as it stands now. -/
def waiterNeed (s : State) (w : Waiter) : Nat :=
  match (s.ctxAt w.c w.x).ask with
  | some i => raiseOf { s with core := w.c, ctx := w.x } i
  | none => w.need

/-- Units reserved for the context that acts towards an object's raise (R327). -/
def roomHeld (s : State) (key : Nat) : Nat :=
  match s.obj? key with
  | none => 0
  | some o => o.roomFor.foldl (fun n w => if w.c = s.core ∧ w.x = s.ctx ∧ w.got then n + w.need else n) 0

/-- An engine operation of the core that acts, changed or removed. -/
def mapEng (s : State) (x ord : Nat) (f : EngOp → Option EngOp) : State :=
  let k := s.myCore
  s.setMyCore { k with eq := k.eq.filterMap fun o => if o.x = x ∧ o.ord = ord ∧ engHandleOp o.op then f o else some o }

/-- The reservation of an engine handle operation under way. -/
def heldRaise (s : State) (ord : Nat) : Nat :=
  s.myCore.eq.foldl (fun n o => if o.x = s.ctx ∧ o.ord = ord ∧ engHandleOp o.op then n + o.tile else n) 0
/-- The directory's check of a request, on the machine that the operation will meet. A raise that has grown since its issue is no matter of
it: the operation then waits for room at its place (R321, R322; DEDUCED, assumption log 86). -/
def dirCheck (s : State) (r : Req) : Except Status W64 := engCheck (effQueued s s.part r.ord) s.part r.op r.blk r.x r.y
/-- The directory's answer to an engine handle operation: it may start, or it leaves the queue (R304), which lets moves that wait
for room seek it (R326). -/
def dirAnswer (s : State) (r : Req) : State × W64 :=
  let handles : Bool := match r.op with | .hsnap .. | .hfork .. => true | _ => false
  match dirCheck s r with
  | .ok n =>
    let s := mapEng s s.ctx r.ord fun o => some { o with go := true, new := n }
    let s := match r.op, s.obj? (objKey r.x) with
      | .hsnap .., some o => s.setObj (objKey r.x) { o with nextSel := o.nextSel + 1 }
      | _, _ => s
    (s, if handles then n else Status.ok.word)
  | .error e =>
    let held := heldRaise s r.ord
    let s := mapEng s s.ctx r.ord fun _ => none
    let s := match s.obj? (objKey r.x) with
      | some o => s.setObj (objKey r.x) { o with extra := o.extra - held }
      | none => s
    (seekAgain s s.chip s.g, if handles then handleFail e.num else e.word)

/-! ## Pager answers (R311, R466) -/

/-- A queue halts with a MALFORMED record, which `sig` repeats; its DETAIL is the address that faulted, where one did (R402,
R409, R410; DEDUCED, assumption log 68). -/
def haltQueue (s : State) (q opc : Nat) (tag : BitVec 16) (detail : Nat) (addr : Nat := 0) (sig : Nat := 0) : State :=
  let k := s.queueAt q
  let s := s.setQueue q { k with st := .halted, detail := detail, token := none, hdr := none }
  signalRecord s q (recordBytes k.head.toNat opc 0 tag 1 0 detail 0 s.time.toNat addr) sig 0 []

/-- The opcode and tag of a packet. -/
def packetTag (i : Instr) : Nat × BitVec 16 :=
  match encPkt i with
  | some f => (f.opc.toNat, f.hdr.tag)
  | none => (0, 0)

/-- The address whose fault holds a queue: of its ring, of a WAITSIG's word, or of a payload. -/
def heldAddr (s : State) (q : Nat) : Nat :=
  let k := s.queueAt q
  match k.fetched with
  | some (.waitsig _ addr ..) => addr.toNat
  | some (.wrenq _ src dst len ..) =>
    match payloadFault s (asidOf k.desc) src.toNat dst.toNat len.toNat with
    | some (va, _) => va
    | none => 0
  | _ => qRing k.desc + 64 * (k.head.toNat % 2 ^ qLog k.desc)
/-- A queue's page fault answered (R399, R407, R413, R466). -/
def queueReady (s : State) (q : Nat) (fail : Bool) : State :=
  let k := s.queueAt q
  let (opc, tag) : Nat × BitVec 16 := match k.fetched with | some i => packetTag i | none => headTag k
  match k.st with
  | .fetchFault =>
    if k.readFault then
      if fail then haltQueue (s.setQueue q { k with token := none, readFault := false }) q opc tag 7 (heldAddr s q)
      else s.setQueue q { k with st := .active, token := none, readFault := false, hdr := none, fetched := none }
    else if fail then
      s.setQueue q { k with st := .halted, detail := 0x0C, token := none, held := k.held.drop 1 }
    else releaseHeld (s.setQueue q { k with st := .active, token := none }) q
  | .payloadFault =>
    if fail then haltQueue (s.setQueue q { k with token := none }) q opc tag 7 (heldAddr s q)
    else s.setQueue q { k with st := .active, token := none }
  | _ =>
    if k.readFault || k.held.isEmpty then s.setQueue q { k with token := none, readFault := false }
    else releaseHeld (s.setQueue q { k with token := none, held := if fail then k.held.drop 1 else k.held }) q

/-- A job of a context, changed or removed. -/
def mapJob (s : State) (c x ord slot : Nat) (f : Job → Option Job) : State :=
  let k := s.ctxAt c x
  s.setCtx c x { k with jobs := k.jobs.filterMap fun j => if j.ord = ord ∧ j.slot = slot then f j else some j }

/-- Whether a context has taken a cause, a pre-emption apart. -/
def hasCause (k : Ctx) : Bool := match k.err with | some t => t.cls ≠ 14 | none => false
/-- A context's job fails: it ends, and its task takes the cause (R246-R248). An attempt that is ending only loses the
job. -/
def jobFail (s : State) (c x ord slot : Nat) (cls code : Nat) : State :=
  let s := mapJob s c x ord slot fun _ => none
  let k := s.ctxAt c x
  if k.st = .ending ∨ k.st = .free ∨ hasCause k then freeEnded s
  else s.setCtx c x { k with err := some ⟨0, cls, code, slot, 0, 0, 0⟩ }

/-- A waiter of a token answered: disposition 1 when `fail` (R311). -/
def waiterReady (s : State) (t : Nat) (fail : Bool) (w : TokWaiter) : State :=
  match w with
  | .ctx c x =>
    let k := s.ctxAt c x
    if k.st = .parked ∧ k.wait = .token t then
      if fail then
        match k.task with
        | some n => failTask s n k.tcause false
        | none => s
      else wake s c x
    else s
  | .job c x ord slot code =>
    let k := s.ctxAt c x
    match k.jobs.find? (fun j => j.ord = ord && j.slot = slot && j.tok = some t) with
    | some _ =>
      if fail then jobFail s c x ord slot 7 code
      else mapJob s c x ord slot fun j => some { j with tok := none }
    | none => s
  | .queue q => if (s.queueAt q).token = some t then queueReady s q fail else s

/-- An upcall answered: every waiter (R311). -/
def answerUpcall (s : State) (u : Upcall) (fail : Bool) : State :=
  let s := { s with upcalls := s.upcalls.filter fun v => v.tok ≠ u.tok }
  u.waiters.foldl (fun s w => waiterReady s u.tok fail w) s

/-- PGREADY's answer (R311). -/
def pgreadyAnswer (s : State) (x y : W64) : State × W64 :=
  match s.upcalls.find? (fun u => u.tok = x.toNat) with
  | none => (s, Status.none.word)
  | some u =>
    if s.me.inst ≠ some u.inst then (s, Status.denied.word)
    else if 2 ≤ y.toNat then (s, Status.refused.word)
    else (answerUpcall s u (y = 1), Status.ok.word)

/-- Every upcall to an instance that has been ended is answered as disposition 1 (R465). -/
def dropUpcalls (s : State) (n : Nat) : State :=
  (s.upcalls.filter fun u => u.inst = n && u.record.isSome).foldl (fun s u => answerUpcall s u true) s

/-! ## Sapwood's services (R447, R448) -/

/-- An unknown service's answer. -/
def svcUnknown : W64 := BitVec.allOnes 64

/-- Where a byte of a service buffer lies, as its caller's address leads (R96, R447). A doorbell page and storage that does not exist are
no buffer (DEDUCED, assumption log 8). -/
def bufLeads (s : State) (wr : Bool) (va : Nat) : Option Place :=
  let p : Option Place :=
    if inAperture va then (apertureAt s va 1).toOption
    else
      match heapAt s.me va with
      | some pa => some (.dev pa)
      | none => (walk s s.asid va).bind fun e => if e.r && (!wr || e.w) then some (e.place va) else none
  p.bind fun p => match p with | .bell .. => none | p => if p.hole 1 then none else some p
/-- A service buffer in parts, page by page: where each lies and its length; `none` where it is misaligned, outside the caller's footprint
or not translated (R447). -/
def svcBuffer (s : State) (va len align : Nat) (wr : Bool) : Option (List (Place × Nat)) :=
  if va % align ≠ 0 ∨ (rangeCode s va len).isSome ∨ (footCode s va len true wr false).isSome then none
  else
    (pageParts va len).foldr (fun x ps => match bufLeads s wr x.2.1, ps with
      | some p, some ps => some ((p, x.2.2) :: ps)
      | _, _ => none) (some [])
/-- What a test says of some walk that a buffer or a range needs: one of a page that neither the aperture nor the heap window holds. -/
def rangeWalks (s : State) (va len : Nat) (f : Nat → Bool) : Bool :=
  (pagesOf va len).any fun a => !inAperture a && (heapAt s.me a).isNone && f a
/-- The bytes of a service buffer. -/
def bufBytes (s : State) (ps : List (Place × Nat)) : List Byte := ps.flatMap fun x => readPlace s x.1 x.2
/-- A service buffer read (R122). -/
def bufRead (s : State) (ps : List (Place × Nat)) : State := ps.foldl (fun s x => outRead s x.1 x.2) s
/-- Bytes written over a service buffer. -/
def bufWrite (s : State) (bs : List Byte) : List (Place × Nat) → State
  | [] => s
  | x :: t => bufWrite (writeSpan s x.1 (bs.take x.2)) (bs.drop x.2) t
/-- Whether a service buffer holds poison. -/
def bufBad (s : State) (ps : List (Place × Nat)) : Bool :=
  ps.any fun x => (List.range (ceilDiv (x.1.addr % 64 + x.2) 64)).any fun i => (poisonOf s (x.1.shift (64 * i - x.1.addr % 64))).isSome

/-- STATUS written into a request block (R418). -/
def reqStatus (s : State) (pa : Nat) (x : Status) : State :=
  outWrite s (.dev (pa + 1)) [BitVec.ofNat 8 x.num]

/-- A request block submitted (R418): refused at once, or under way. -/
def submitReq (s : State) (pa : Nat) : State :=
  let f := RF.ofWord (ofLe 512 (s.mem.readN pa 64))
  match decodeReq f with
  | some i => { s with reqs := s.reqs ++ [⟨pa, i, f, [], false⟩] }
  | none => reqStatus s pa .refused

/-- The report of R448, but for its signatures. -/
def attestBody (s : State) (nonce : List Byte) : List Byte :=
  leBytes 4 1 ++ leBytes 2 (s.ifsel.toNat / 16 % 16) ++ leBytes 2 (s.ifsel.toNat % 16) ++
  leBytes 8 s.time.toNat ++ leBytes 64 Config.attestKeysHash.toNat ++ nonce ++
  (s.meas.toList.flatMap fun m => leBytes 48 m.toNat) ++ leBytes 4 s.remap.length ++ leBytes 4 s.part.toNat ++
  leBytes 40 0

/-- The whole report, 0xF80 bytes. -/
def attestReport (s : State) (nonce : List Byte) : List Byte :=
  let body := attestBody s nonce
  let ml := (Config.mlSign body).take 3309
  body ++ ((Config.edSign body).take 64 ++ List.replicate (64 - (Config.edSign body).length) 0) ++
    ml ++ List.replicate (0xF80 - 0x280 - ml.length) 0

/-- Measurement register i extended with a digest (R443). -/
def extendMeas (s : State) (i : Nat) (d : BitVec 384) : State :=
  if h : i < 8 then
    { s with meas := s.meas.set i (Config.sha384 (leBytes 48 (s.meas[i]).toNat ++ leBytes 48 d.toNat)) }
  else s

/-- Whether the caller was launched from a queue with CTL set. -/
def svcAllowed (s : State) : Bool := match s.myInst with | some i => qCtl i.desc | none => false

/-- The buffer of each service: its length, alignment, and whether it is written. -/
def svcShape (service : Nat) : Option (Nat × Nat × Bool) :=
  match service with
  | 1 => some (64, 64, true)
  | 2 => some (4096, 4096, true)
  | 3 => some (56, 1, false)
  | _ => none
/-- A service on its buffer: DENIED first, then REFUSED (R283, R447). Sapwood that reads poison there, or in a walk for it, cannot handle it, and answers all
ones as after its reload (R440, R456; DEDUCED, assumption log 98). -/
def svcOn (s : State) (x : W64) (service : Nat) (f : State → List (Place × Nat) → State × W64) : State × W64 :=
  if !svcAllowed s then (s, Status.denied.word)
  else
    match svcShape service with
    | none => (s, Status.refused.word)
    | some (len, align, wr) =>
      if rangeWalks s x.toNat len fun a => (walkPoison s s.asid a).isSome then (s, svcUnknown)
      else
        match svcBuffer s x.toNat len align wr with
        | some ps =>
          let s := (pagesOf x.toNat len).foldl jobWalked s
          if bufBad s ps then (s, svcUnknown) else f (bufRead s ps) ps
        | none => (s, Status.refused.word)
/-- FABREQ, whose block lies in device memory (R418, R447). -/
def svcFabreq (s : State) (x : W64) : State × W64 :=
  svcOn s x 1 fun s ps => match ps with
    | [(.dev pa, _)] => (submitReq s pa, Status.ok.word)
    | _ => (s, Status.refused.word)
/-- ATTEST (R447, R448). -/
def svcAttest (s : State) (x : W64) : State × W64 :=
  svcOn s x 2 fun s ps => (bufWrite s (attestReport s ((bufBytes s ps).take 64)) ps, Status.ok.word)
/-- MEXT (R443, R447). -/
def svcMext (s : State) (x : W64) : State × W64 :=
  svcOn s x 3 fun s ps =>
    let bs := bufBytes s ps
    let i := leNat (bs.take 8)
    if i < 4 ∨ 7 < i then (s, Status.refused.word) else (extendMeas s i (ofLe 384 (bs.drop 8)), Status.ok.word)

/-- SVC's answer (R314, R447). What sapwood and heartwood do for it comes after the caller's accesses, and before its later ones, in the
memory order. -/
def svcAnswer (s : State) (service : BitVec 16) (x : W64) : State × W64 :=
  let t := meetOut s
  let r := match service.toNat with
    | 1 => svcFabreq t x
    | 2 => svcAttest t x
    | 3 => svcMext t x
    | _ => (s, svcUnknown)
  if (svcShape service.toNat).isSome then (meetOut r.1, r.2) else r

/-! ## Any request -/

/-- Whether an engine operation that the directory has answered has still to make the object or snapshot of a handle. -/
def EngOp.makes (o : EngOp) (h : W64) : Bool :=
  o.go && (match o.op with
    | .hsnap .. => o.new = h
    | .hfork .. => objKey o.new = objKey h
    | _ => false)
/-- Whether the engine of a core other than `c` has still to make the object or snapshot of a handle, by an operation issued before
`ord`. -/
def madeElsewhere (s : State) (c ord : Nat) (h : W64) : Bool :=
  s.cores.any fun e => e.1 ≠ c && e.2.engOps.any fun o => o.ord < ord && o.makes h
/-- Whether an earlier snapshot or fork of the same object has still to be answered: the directory answers the requests for one object in
the order in which they reach it (R324; that of issue: DESIGN CHOICE, assumption log 86). -/
def answersBehind (s : State) (r : Req) : Bool :=
  (allEngOps s).any fun o => o.ord < r.ord && !o.go && objKey o.handle = objKey r.x &&
    (match o.op with | .hsnap .. | .hfork .. => true | _ => false)
/-- Whether a request waits for an object or snapshot that it names to be made. The spec gives this wait to FWBIND alone (R305); that
the directory answers nothing else about a handle before its object is there, an engine handle operation of the same engine apart,
which follows it in engine order, is the model's (DESIGN CHOICE, assumption log 86). -/
def reqPending (s : State) (r : Req) : Bool :=
  match r.op with
  | .hfree .. | .hmig .. | .hpin .. | .hunpin .. | .hstat .. => (allEngOps s).any (·.makes r.x)
  | .hfork .. | .hsnap .. | .hroll .. | .havg .. => answersBehind s r || (r.x :: r.y :: r.blk).any (madeElsewhere s s.core r.ord)
  | _ => false
/-- Whether the memory that a service of sapwood reads or writes is held, by a controller or for pool space, or a walk for it or for WATCH's
range (R351, R428). -/
def svcHeld (s : State) (r : Req) : Bool :=
  match r.op with
  | .svc _ _ n _ =>
    match svcShape n.toNat with
    | some (len, align, wr) =>
      rangeWalks s r.x.toNat len (walkHeld s s.asid) ||
        match svcBuffer s r.x.toNat len align wr with
        | some ps => ps.any fun x => partWaits s x.1 x.2 || (wr && partHeld s x.1 x.2)
        | none => false
    | none => false
  | .watch .. => match r.desc with
    | some d => decide (wBase d < 2 ^ 57) && rangeWalks s (wBase d) 1 (walkHeld s s.asid)
    | none => false
  | _ => false
/-- The answer of a request of the context that acts; `none` while it cannot be given. -/
def answerOf (s : State) (r : Req) : Option (State × W64) :=
  if reqPending s r || svcHeld s r then none else
  match r.op with
  | .spawn .. => some (spawnAnswer s r.blk)
  | .spawnk .. => some (spawnkAnswer s r.blk r.y)
  | .tstat .. => some (s, tstatAnswer s r.x)
  | .watch .. => r.desc.map fun d => watchAnswer (jobWalked s (wBase d)) d
  | .unwatch .. => some (unwatchAnswer s r.x)
  | .wstat .. => some (s, wstatAnswer s r.x)
  | .snap .. => some (snapAnswer s)
  | .gdrop .. => some (gdropAnswer s r.x)
  | .groll .. => some (grollAnswer s r.ord r.x)
  | .ckpt .. => some (ckptAnswer s r.x r.y)
  | .gstat .. => some (s, gstatAnswer s r.x)
  | .hnew .. => some (hnewAnswer s r.x)
  | .hfree .. => hfreeAnswer s s.part r.x
  | .hfork .. | .hsnap .. | .hroll .. | .havg .. => some (dirAnswer s r)
  | .hmig .. => some (hmigAnswer s s.part r.x r.y)
  | .hpin .. => some (hpinAnswer s s.part r.x)
  | .hunpin .. => some (hunpinAnswer s s.part r.x)
  | .hstat .. => some (s, hstatAnswer s r.x)
  | .pgready .. => some (pgreadyAnswer s r.x r.y)
  | .svc _ _ n _ => some (svcAnswer s n r.x)
  | _ => none

/-- Whether a request follows every access that its context made before it (R289, R296); the others are no accesses and are
ordered behind none (R282). -/
def reqOrdered (i : Instr) : Bool :=
  match i with
  | .spawn .. | .spawnk .. | .snap .. => true
  | _ => false
/-- Whether a request creates a task record (R288). -/
def reqSpawns (i : Instr) : Bool :=
  match i with
  | .spawn .. | .spawnk .. => true
  | _ => false
/-- Whether a request may be answered: once it has left the core's edge (R452), a SPAWN after those that its context issued before it, and in its turn among the records
of one cycle (R23), and every request that R289 or R296 orders once each earlier access has been performed. -/
def reqReady (s : State) (r : Req) : Bool :=
  edgeOpen s r.ord && (!reqOrdered r.op || ((!reqSpawns r.op || s.staged || inTurn s (spawnRank s.core s.ctx)) &&
    s.me.accs.all (fun a => !a.ordered || r.ord ≤ a.ord) &&
    s.me.reqs.all fun q => !reqOrdered q.op || r.ord ≤ q.ord))

/-- A request answered, its answer on its way to land (R282). -/
def giveAnswer (s : State) (r : Req) : Option State :=
  if reqReady s r then
    (answerOf s r).map fun p =>
      let s := p.1
      let s := s.setMe { s.me with reqs := s.me.reqs.filter fun q => q.ord ≠ r.ord }
      landData s (.s (reqDest r.op) p.2) r.ord 0 r.bound false
  else none

/-- Every request of the context answered, in order. -/
def answerAll (s : State) : List Req → Option State
  | [] => some s
  | r :: t => (giveAnswer s r).bind fun s => answerAll s t

end Sys2Proof.Machine
end

