-- ==== Sys2Proof/Machine/Units.lean ====
section
/-! DEFINITION. The matrix unit's queue and scoreboard (R260-R263) and the outer-product engine's queue (R272-R281,
R304). -/

namespace Sys2Proof.Machine
open Sys2Proof

/-! ## Dependences (R219, R260, R279) -/

/-- Whether two matrix operations share a tile. -/
def sharesTile (a b : Instr) : Bool :=
  let x := matTiles a
  let y := matTiles b
  let xs := x.1.toList ++ x.2
  (y.1.toList ++ y.2).any fun t => xs.contains t

/-- The tile that a fast-weight operation writes (R275, R277). -/
def fwTile (i : Instr) : Option AccReg :=
  match i with
  | .fwread _ d _ _ => some d
  | .fwstep _ _ _ d _ _ => some d
  | .fwchunk _ _ _ d _ _ _ _ noread => if noread then none else some d
  | _ => none

/-- The operations queued or under way in a matrix unit, oldest first. -/
def Core.matOps (k : Core) : List MatOp := k.mrun.map (·.1) ++ k.mq

/-- Whether a VTOACC of the context issued before `ord` to tile `t` has not landed. -/
def toAccOut (k : Ctx) (ord : Nat) (t : AccReg) : Bool :=
  k.inflight.any fun l => l.ord < ord && (match l.wr with | .acc r _ _ => r = t | _ => false)

/-- The slots that an engine operation reads (R277). -/
def engSlots (o : EngOp) : List Nat :=
  match o.op with
  | .fwchunk _ _ _ _ _ _ _ _ noread =>
    let m (n : Nat) : BitVec 128 := o.mps.getD n 0
    [mpSlot (m 0), mpSlot (m 1), mpSslot (m 2)] ++ (if noread then [] else [mpSlot (m 2)])
  | _ => []

/-- Whether a slot is still being filled by a job of the context older than `ord`. -/
def fillOut (s : State) (c x ord n : Nat) : Bool :=
  (s.ctxAt c x).jobs.any fun j => j.ord < ord && !j.finished && fillOf j = some n

/-- Whether a matrix operation's dependences are met: operations that share a tile start in issue order, and what comes from
elsewhere, a fast-weight operation's output, a VTOACC or a fill, is there (R260). -/
def matReady (s : State) (c : Nat) (o : MatOp) : Bool :=
  let k := s.coreAt c
  let x := s.ctxAt c o.x
  let ts := (matTiles o.op).1.toList ++ (matTiles o.op).2
  k.mq.all (fun p => p.x ≠ o.x || o.ord ≤ p.ord || !sharesTile p.op o.op) &&
    k.engOps.all (fun e => e.x ≠ o.x || o.ord ≤ e.ord || (match fwTile e.op with | some t => !ts.contains t | none => true)) &&
    ts.all (fun t => !toAccOut x o.ord t) &&
    (matSlots o.op o.pa o.pb).all fun n => !fillOut s c o.x o.ord n

/-! ## The matrix unit (R260, R261) -/

/-- An operation's tile written and its flags raised (R61, R261). -/
def matApply (s : State) (c : Nat) (o : MatOp) : State :=
  let k := s.ctxAt c o.x
  let co := s.coreAt c
  let slot (n : Nat) : TileW := (co.slots[n]?.map (·.data)).getD 0
  match (matTiles o.op).1 with
  | none => s
  | some d =>
    let r := matResult o.op o.pa o.pb slot fun a => k.acc[a.val]
    s.setCtx c o.x ({ k with acc := k.acc.set d.val r.1 }.raise r.2)

/-- Whether an operation that has started has run for its occupancy. The spec bounds its completion from above only (R261); that
none completes while it occupies the array is the model's (DESIGN CHOICE, assumption log 85). -/
def matDone (k : Core) (r : MatOp × Nat) : Bool := decide (r.2 + (matCycles r.1.op r.1.pb).1 ≤ k.cyc)

/-- Whether an operation that has started has reached its completion bound (R261). -/
def matBound (k : Core) (r : MatOp × Nat) : Bool := decide (r.2 + (matCycles r.1.op r.1.pb).2 ≤ k.cyc)

/-- Whether the array is free: every operation that has started has run for its occupancy (R261). -/
def matFree (k : Core) : Bool := k.mrun.all (matDone k)

/-- The oldest queued operation whose dependences are met starts on a free array. -/
def matStart (s : State) (c : Nat) : Option State :=
  let k := s.coreAt c
  if !matFree k then none
  else
    (k.mq.find? (matReady s c)).map fun o =>
      s.setCore c { k with
        mq := k.mq.filter fun p => !(p.x = o.x && p.ord = o.ord)
        mrun := k.mrun ++ [(o, k.cyc)] }

/-- Whether an operation that has started is before another of its context that shares a tile: it updates the tile first (R260). -/
def matBefore (r q : MatOp × Nat) : Bool := r.1.x = q.1.x && r.1.ord < q.1.ord && sharesTile r.1.op q.1.op

/-- Whether an operation that has started can complete: it has run for its occupancy, and those it shares a tile with have
completed before it (R260, R261). -/
def matCan (k : Core) (r : MatOp × Nat) : Bool := matDone k r && !k.mrun.any fun q => matBefore q r

/-- The operations that complete on a cycle, in the order they started: those at their completion bound, and those that must update
a tile before one of them (R260, R261). -/
def matDue (k : Core) : List (MatOp × Nat) :=
  k.mrun.foldr (fun r due => if matBound k r || due.any (matBefore r) then r :: due else due) []

/-- An operation that has started completes. -/
def matFinish (s : State) (c : Nat) (o : MatOp) : State :=
  let k := s.coreAt c
  matApply (s.setCore c { k with mrun := k.mrun.filter fun r => !(r.1.x = o.x && r.1.ord = o.ord) }) c o

/-- Whether a context has a matrix operation queued or started. -/
def matOut (s : State) (c x : Nat) : Bool := (s.coreAt c).matOps.any (·.x = x)

/-! ## The outer-product engine (R272, R276-R281, R304) -/

/-- Whether the engine's oldest operation may start: once it has left the core's edge (R452), a handle operation only once the
directory has answered OK, and FWCHUNK only once the earlier fills of the slots it reads have ended (R260, R277). -/
def engReady (s : State) (c : Nat) : Bool :=
  let k := s.coreAt c
  k.erun.isNone &&
    (match k.eq with
     | o :: _ => edgeOpen { s with core := c, ctx := o.x } o.ord && (!engHandleOp o.op || o.go) && (engSlots o).all fun n => !fillOut s c o.x o.ord n
     | [] => false)

/-- The engine's oldest operation starts. -/
def engStart (s : State) (c : Nat) : Option State :=
  if engReady s c then
    let k := s.coreAt c
    match k.eq with
    | o :: t => some (s.setCore c { k with eq := t, erun := some (o, s.time.toNat) })
    | [] => none
  else none

/-- Whether a rollback must wait for operations of other engines on its object that were issued before it (R274, R304). -/
def rollWaits (s : State) (c : Nat) (o : EngOp) : Bool :=
  match o.op with
  | .hroll .. =>
    s.cores.any fun e => e.1 ≠ c &&
      e.2.engOps.any fun p => p.ord < o.ord && p.names (objKey o.handle)
  | _ => false

/-- Elements of `n` f32 values from byte `off` of a slot. -/
def slotElem (x : TileW) (off e : Nat) : Nat := tileAt x (off + 4 * e) 4

/-- The tile and output of n tokens of a chunk (R277): the tile, the output's bits and mask, and the flags. -/
def fwChunk (half hebb post noread : Bool) (dk dv cr n : Nat) (kx vx qx cx : TileW) (soff : Nat) (w : FwTile) :
    FwTile × (TileW × TileW) × FFlags :=
  (List.range n).foldl (fun r t =>
    let beta := tileAt cx (soff + 8 * t) 4
    let lam := tileAt cx (soff + 8 * t + 4) 4
    let (w', y, f) := fwStep half hebb post noread dk dv beta lam (slotElem qx (t * dk * 4)) (slotElem kx (t * dk * 4))
      (slotElem vx (t * dv * 4)) r.1
    let o := if noread then (0, 0) else fwOutput (t * cr) y
    (w', (r.2.1.1 ||| o.1, r.2.1.2 ||| o.2), r.2.2 ||| f)) (w, (0, 0), 0)

/-- The new tile, the output rows and the flags of a fast-weight operation on tile w (R275-R277). FWCHUNK reads its slots as they are
when it completes: of a failed task, whose slots are released before (R117), what they hold then (DESIGN CHOICE, assumption
log 106). -/
def fwResult (s : State) (c : Nat) (o : EngOp) (ob : Obj) (w : FwTile) : FwTile × (TileW × TileW) × FFlags :=
  let dk := ob.dk
  let dv := ob.dv
  let cq := vecRegs dk
  let cv := vecRegs dv
  let slot (n : Nat) : TileW := ((s.coreAt c).slots[n]?.map (·.data)).getD 0
  let m (n : Nat) : BitVec 128 := o.mps.getD n 0
  match o.op with
  | .fwread _ _ row _ =>
    let (y, f) := fwRead dk dv w (vecElem o.vecs 0)
    (w, fwOutput row.val y, f)
  | .fwfade _ _ =>
    let (w', f) := fwFade ob.half (vecElem o.vecs 0 0) w
    (w', (0, 0), f)
  | .fwwrite hebb _ _ =>
    let (w', f) := fwWrite ob.half hebb dk dv (vecElem o.vecs (cq + cv) 0) (vecElem o.vecs 0) (vecElem o.vecs cq) w
    (w', (0, 0), f)
  | .fwstep hebb post _ _ row _ =>
    let b := 2 * cq + cv
    let (w', y, f) := fwStep ob.half hebb post false dk dv (vecElem o.vecs b 0) (vecElem o.vecs b 1) (vecElem o.vecs 0)
      (vecElem o.vecs cq) (vecElem o.vecs (2 * cq)) w
    (w', fwOutput row.val y, f)
  | .fwchunk hebb post _ _ _ _ _ n noread =>
    fwChunk ob.half hebb post noread dk dv (ceilDiv dv 64) (n.val + 1) (slot (mpSlot (m 0))) (slot (mpSlot (m 1)))
      (slot (mpSlot (m 2))) (slot (mpSslot (m 2))) (mpSoff (m 2)) w
  | _ => (w, (0, 0), 0)

/-- Whether a tile holds poisoned units (R280, R328). -/
def tileBad (s : State) (ob : Obj) (us : List Nat) (t : Nat) : Bool :=
  let lo := t * ob.tileBytes / 1024
  let hi := ceilDiv ((t + 1) * ob.tileBytes) 1024
  (List.range (hi - lo)).any fun i => s.badUnits.contains (us.getD (lo + i) 0)

/-- A context takes a cause that no bundle of its own raises (R65, R248); an attempt that is ending keeps on ending. -/
def setCause (s : State) (c x : Nat) (t : Trap) : State :=
  let k := s.ctxAt c x
  if k.st = .ending ∨ k.st = .free ∨ hasCause k then s else s.setCtx c x { k with err := some t }

/-- A fast-weight operation performed (R276-R278). -/
def fwApply (s : State) (c : Nat) (o : EngOp) : State :=
  match lookHandle s ((s.groveAt (groveOf c)).part) o.handle with
  | none => s
  | some (ob, us) =>
    let key := objKey o.handle
    if tileBad s ob us o.tile then
      setCause (s.setObj key { ob with lastUse := s.time.toNat }) c o.x ⟨0, 10, 2, 3, 0, 0, 0⟩
    else
      let w := fwLoad s ob us o.tile
      let (w', y, f) := fwResult s c o ob w
      let wr : Bool := match o.op with | .fwread .. => false | _ => true
      let s := if wr then writeState s key (o.tile * ob.tileBytes) ob.tileBytes (fwPack ob w') else s
      let s := match s.obj? key with | some b => s.setObj key { b with lastUse := s.time.toNat } | none => s
      let k := s.ctxAt c o.x
      let k := match fwTile o.op with
        | some d => { k with acc := k.acc.set d.val ((k.acc[d.val] &&& ~~~y.2) ||| (y.1 &&& y.2)) }
        | none => k
      s.setCtx c o.x (k.raise f)

/-- Element n of a state widened to f32. -/
def stateElem (s : State) (ob : Obj) (us : List Nat) (n : Nat) : Nat :=
  let e := stateAt s us (n * ob.esize) ob.esize
  if ob.half then e * 65536 else e

/-- HAVG performed (R93, R307): every source value is read before any element is written; the slot of an error is the
operation's (DEDUCED, assumption log 69). -/
def avgApply (s : State) (c : Nat) (o : EngOp) : State :=
  let part := (s.groveAt (groveOf c)).part
  match s.obj? (objKey o.handle) with
  | none => s
  | some d =>
    let srcs := o.srcs.filterMap fun h => lookHandle s part h
    let n := d.tiles * d.dk * d.dv
    let bad := srcs.any fun x => x.2.any fun u => s.badUnits.contains u
    if bad then setCause s c o.x ⟨0, 10, 2, 0, 0, 0, 0⟩
    else
      let r := (List.range n).map fun e => havgElem d.half (srcs.map fun x => stateElem s x.1 x.2 e)
      let bytes := packNat d.esize (r.map fun e => if d.half then e.1 / 65536 else e.1)
      let s := writeState s (objKey o.handle) 0 d.size bytes
      s.setCtx c o.x ((s.ctxAt c o.x).raise (joinFlags (r.map (·.2))))

/-- HROLL performed (R306): a snapshot that holds uncorrectable state is not copied (R280; DEDUCED, assumption log 69). -/
def rollApply (s : State) (c : Nat) (o : EngOp) : State :=
  match lookHandle s ((s.groveAt (groveOf c)).part) (o.srcs.getD 0 0) with
  | none => s
  | some (_, us) =>
    if us.any fun u => s.badUnits.contains u then setCause s c o.x ⟨0, 10, 2, 0, 0, 0, 0⟩
    else effRoll s (objKey o.handle) us

/-- The reservation of an engine handle operation returned (R327). -/
def releaseExtra (s : State) (o : EngOp) : State :=
  match s.obj? (objKey o.handle) with
  | some b => s.setObj (objKey o.handle) { b with extra := b.extra - o.tile }
  | none => s

/-- Operations of an engine that satisfy a test are performed no more: their reservations return, and what waits for room seeks it
(R326, R327). -/
def dropEng (s : State) (c : Nat) (f : EngOp → Bool) : State :=
  let k := s.coreAt c
  let s' := (k.engOps.filter fun o => f o && engHandleOp o.op).foldl releaseExtra s
  let run := match k.erun with | some r => if f r.1 then none else some r | none => none
  seekAgain (s'.setCore c { k with eq := k.eq.filter fun o => !f o, erun := run }) s.chip (groveOf c)

/-- Objects named by an operation used now (R324). -/
def useObjects (s : State) (keys : List Nat) : State :=
  keys.foldl (fun s k => match s.obj? k with | some b => s.setObj k { b with lastUse := s.time.toNat } | none => s) s

/-- An engine handle operation performed at its place (R304-R307). -/
def handleApply (s : State) (c : Nat) (o : EngOp) : State :=
  let part := (s.groveAt (groveOf c)).part
  let s := match o.op with
    | .havg .. => avgApply s c o
    | .hroll .. => rollApply s c o
    | _ => effOf s part o.op o.handle (objKey o.new) (selOf o.new)
  useObjects (releaseExtra s o) ((objKey o.handle :: o.srcs.map objKey).eraseDups)

/-- Bindings that have been unbound become free once their operations have completed (R279). -/
def settleBindings (s : State) (c x : Nat) : State :=
  let k := s.ctxAt c x
  let ops := (s.coreAt c).engOps
  let busy (n : Nat) : Bool := ops.any fun o => o.x = x && o.fb = n && !engHandleOp o.op
  s.setCtx c x { k with fb := Vector.ofFn fun (i : Fin 4) =>
      let b := k.fb[i.val]
      if b.st = .leaving && !busy i.val then Binding.reset else b }

/-- The engine's operation completes (R281, R304). -/
def engFinish (s : State) (c : Nat) : State :=
  let k := s.coreAt c
  match k.erun with
  | none => s
  | some (o, _) =>
    let s := s.setCore c { k with erun := none }
    let s := if engHandleOp o.op then handleApply s c o else fwApply s c o
    let s := recheckMove (settleBindings s c o.x) (objKey o.handle)
    freeEnded (seekAgain s s.chip (groveOf c))

/-- The charge that a snapshot or fork lacks room for at its place: a later operation of another engine has raised what it needs
beyond its reservation, and the sum of the charges never exceeds 4,096 (R321; DEDUCED, assumption log 86). -/
def engLack (s : State) (c : Nat) (o : EngOp) : Nat :=
  match o.op with
  | .hsnap .. | .hfork .. =>
    let g := groveOf c
    let t := effOf s (s.groveAt g).part o.op o.handle (objKey o.new) (selOf o.new)
    usedCharge t s.chip g - usedCharge s s.chip g - (o.tile + freeCharge s s.chip g)
  | _ => 0

/-- Whether the engine's operation can complete. -/
def engDue (s : State) (c : Nat) : Bool :=
  match (s.coreAt c).erun with
  | some (o, _) => !rollWaits s c o && engLack s c o = 0
  | none => false

/-- Room sought for an operation that lacks it at its place (R326). -/
def engSeek (s : State) (c : Nat) : State :=
  match (s.coreAt c).erun with
  | some (o, _) =>
    let g := groveOf c
    let n := engLack s c o
    if n = 0 then s else evictGo s s.chip g (n + freeCharge s s.chip g) (candidates s s.chip g (objKey o.handle))
  | none => s

end Sys2Proof.Machine
end

