-- ==== Sys2Proof/Machine/Ops.lean ====
section
/-! DEFINITION. The operations every meaning is made of: freezes (R109), the choice of context (R31), taking a cause and
draining (R41, R42, R62, R65), what holds a bundle's issue, the checks of a bundle (R167), and issuing accesses,
requests, jobs and unit operations. -/

namespace Sys2Proof.Machine
open Sys2Proof

/-! ## Freezes (R109) -/

/-- Whether a result of context `x` of core `c` has not landed by its landing cycle (R220, R282). What an attempt that has ended still
awaits is landed nowhere, and freezes nothing. -/
def lateCtx (s : State) (c x : Nat) : Bool :=
  let k := s.ctxAt c x
  let now := (s.coreAt c).cyc
  k.st ≠ .ending && (k.accs.any (fun a => a.op.hasDest && a.bound ≤ now) || k.reqs.any fun r => r.bound ≤ now)

/-- Whether the core is frozen on a request of context `x` (R58, R109). -/
def frozenOn (s : State) (c x : Nat) : Bool :=
  lateCtx s c x || s.time.toNat < (s.ctxAt c x).frzUntil ||
    (match (s.coreAt c).walk with | some w => w.x = x | none => false)

/-- Whether a core freezes for a cause of its own: a context's, or one that a context which has gone had met. -/
def ownFrozen (s : State) (c : Nat) : Bool :=
  s.time.toNat < (s.coreAt c).frzUntil || (List.range 9).any (frozenOn s c)

/-- A job or access of context `x` of core `c` freezes its core until a cycle of SYS.TIME (R106, R108): a context that has gone is
charged no frozen cycles. -/
def State.freezeTill (s : State) (c x till : Nat) : State :=
  let k := s.ctxAt c x
  if 9 ≤ x ∨ k.st = .ending then s.setCore c { s.coreAt c with frzUntil := Nat.max (s.coreAt c).frzUntil till }
  else s.setCtx c x { k with frzUntil := Nat.max k.frzUntil till }

/-- The cores whose freezes stop core `c`: itself, and the grove while a gang run issues (R38). -/
def freezeDomain (s : State) (c : Nat) : List Nat :=
  match (s.coreAt c).current with
  | some x => if (s.ctxAt c x).gang then (List.range 8).map (groveOf c * 8 + ·) else [c]
  | none => [c]

/-- Whether a core is frozen. -/
def coreFrozen (s : State) (c : Nat) : Bool := (freezeDomain s c).any (ownFrozen s)

/-- The landing-buffer entries a core has in use (R54, R282). -/
def bufUsed (s : State) (c : Nat) : Nat :=
  (List.range 9).foldl (fun n x =>
    let k := s.ctxAt c x
    n + (k.accs.filter fun a => a.op.hasDest || (match a.op with | .failed .. => !a.dropped && a.slot < lostMark | _ => false)).length +
      k.reqs.length + ((k.inflight ++ k.staged).filter (·.buf)).length) 0

/-! ## The choice of context (R30, R31, R39) -/

/-- The age of a ready context (R31). -/
def ageOf (s : State) (c x : Nat) : Nat := (s.coreAt c).cyc - (s.ctxAt c x).since

/-- Whether a gang other than context `x`'s has been chosen on some core of a grove and has not yielded: no second gang is
chosen meanwhile, which could leave both with cores that the other holds (DESIGN CHOICE, assumption log 70). -/
def gangTaken (s : State) (g x : Nat) : Bool :=
  (s.groveAt g).gangs.any fun e => e.x ≠ x &&
    (List.range 8).any fun i => (s.coreAt (g * 8 + i)).current = some e.x

/-- Whether a context is ready. -/
def isReady (s : State) (c x : Nat) : Bool :=
  let k := s.ctxAt c x
  k.ready && k.st = .running && k.err.isNone && !(k.gang && gangTaken s (groveOf c) x)

/-- The better of two contexts under R31's rules 2 to 4; `aged` applies rule 1's order. -/
def better (s : State) (c : Nat) (aged : Bool) (a b : Nat) : Nat :=
  let ra := (s.ctxAt c a).role.rank
  let rb := (s.ctxAt c b).role.rank
  if !aged && ra ≠ rb then (if ra < rb then a else b)
  else if ageOf s c b ≤ ageOf s c a then a else b

/-- The first of a list by a choice between two, earlier ones winning ties. -/
def pickBest (f : Nat → Nat → Nat) : List Nat → Option Nat
  | [] => none
  | a :: t => some (t.foldl f a)

/-- The context that a core chooses next (R31). -/
def chooseCtx (s : State) (c : Nat) : Option Nat :=
  let rs := (List.range 8).filter (isReady s c)
  let aged := rs.filter fun x => (s.coreAt c).ageLimit.toNat < ageOf s c x
  match pickBest (better s c true) aged with
  | some x => some x
  | none => pickBest (better s c false) rs

/-- Whether a core waits for a gang that has yielded to go on: it has ended its interposed run (R39). -/
def gangBlocks (s : State) (c : Nat) : Bool :=
  (s.groveAt (groveOf c)).gangs.any fun g => g.yielded && !g.waiting.contains c

/-- A core takes up a context, which stops being ready. -/
def takeCtx (s : State) (c x : Nat) : State :=
  (s.setCore c { s.coreAt c with current := some x }).setCtx c x { s.ctxAt c x with ready := false }

/-- A core without a run chooses a context, which stops being ready (R31); a frozen core's sequencer stands still (R109). -/
def selectCtx (s : State) (c : Nat) : State :=
  if (s.coreAt c).current.isSome || gangBlocks s c || coreFrozen s c then s
  else
    match chooseCtx s c with
    | none => s
    | some x => takeCtx s c x

/-- The run of context `x` on core `c` ends, and the core chooses (R30, R31). -/
def endRun (s : State) (c x : Nat) : State :=
  let k := s.coreAt c
  if k.current = some x then selectCtx (endInterposed (s.setCore c { k with current := none }) c) c else s

/-- The cores on which the task of a context runs: all eight of its grove for a gang (R37). -/
def mates (s : State) (c x : Nat) : List Nat :=
  if (s.ctxAt c x).gang then (List.range 8).map (groveOf c * 8 + ·) else [c]

/-- A gang run ends: every core may run one other context, and those that find none are done (R39). Another gang of the
grove that has yielded before waits for these runs with it, since R39 says nothing of two gangs (DESIGN CHOICE, assumption
log 70). -/
def gangYield (s : State) (g x : Nat) : State :=
  let cs := (List.range 8).map (g * 8 + ·)
  let s := cs.foldl (fun s c =>
    let k := s.coreAt c
    if k.current = some x then s.setCore c { k with current := none } else s) s
  let gr := s.groveAt g
  let s := s.setGrove g { gr with gangs := gr.gangs.map fun e =>
    if e.x = x then { e with yielded := true, waiting := cs } else if e.yielded then { e with waiting := cs } else e }
  cs.foldl (fun s c =>
    let s := selectCtx s c
    if (s.coreAt c).current.isNone then endInterposed s c else s) s

/-! ## Transfers (R57, R162, R191) -/

/-- A pending transfer whose delay bundles have issued takes effect: squash-marked operations that have not landed are
killed. -/
def transferNow (k : Ctx) : Ctx :=
  match k.delay, k.target with
  | 0, some t =>
    { k with
      pc := t
      target := none
      inflight := k.inflight.filter fun l => !l.squash
      accs := k.accs.filter fun a => !a.squash }
  | _, _ => k

/-! ## Taking a cause (R41, R42, R62-R65) -/

/-- A context drained: its accesses performed, its requests answered and its results landed; `none` where something must wait, as
its matrix operations are waited for, which their unit completes in its own time (R65, R261, R263), and in a protected grove the
comparison of its last bundles (R452, R453). -/
def drainCtx (s : State) (c x : Nat) : Option State :=
  if matOut s c x || comparing s c x then none
  else
    let t := { s with core := c, ctx := x }
    (drainAccs t t.me.accs).bind fun t =>
      (answerAll t t.me.reqs).map fun t => { t.landAll c x with core := s.core, ctx := s.ctx }

/-- Contexts drained, in order. -/
def drainAll (s : State) (x : Nat) : List Nat → Option State
  | [] => some s
  | c :: t => (drainCtx s c x).bind fun s => drainAll s x t

/-- SYS.TADDR, SYS.TCAUSE and SYS.TXFER written (R62). -/
def recordTrap (k : Ctx) (cause : W32) : Ctx :=
  let v : Nat := match k.target with | some t => 2 ^ 63 + t.toNat | none => 0
  { k with taddr := k.pc, tcause := cause, txfer := BitVec.ofNat 64 (v + k.delay * 2 ^ 56) }

/-- A context parks for a cause of class 7 or 8 (R41, R247, R274, R327, R426). An object that has left the grove before the context
parks for room in it is brought back as one that was absent. -/
def parkWait (s : State) (c x : Nat) (t : Trap) : State :=
  let k := s.ctxAt c x
  if t.cls = 7 ∧ t.code = 3 then s.setCtx c x { k with wait := .jobs (if t.va = 0 then none else some (t.va - 1, t.acc)) }
  else if t.cls = 7 then
    let a := { s with core := c, ctx := x }
    match upcall s a.asid t.va 0 t.acc t.code (.ctx c x) with
    | (s, some n) => s.setCtx c x { s.ctxAt c x with wait := .token n }
    | (s, none) => match k.task with | some n => failTask s n k.tcause false | none => s
  else
    match s.obj? t.obj with
    | none => wake s c x
    | some o =>
      if t.code = 4 ∧ (absentCode s t.obj (groveOf c)).isNone then
        let s := s.setObj t.obj { o with roomFor := o.roomFor ++ [⟨c, x, t.acc, false⟩] }
        evictFor (s.setCtx c x { k with wait := .room t.obj }) s.chip (groveOf c) t.obj
      else touch (s.setCtx c x { k with wait := .object t.obj }) t.obj c x

/-- A task parks (R41). -/
def parkTask (s : State) (c x n : Nat) (cs : List Nat) (t : Trap) : State :=
  let s := cs.foldl (fun s c => s.setCtx c x { s.ctxAt c x with st := .parked, ready := false }) s
  let s := match s.task? n with | some k => s.setTask n { k with st := .parked } | none => s
  let g := s.groveAt (groveOf c)
  let s := if t.cls = 8 then s.count fun k => { k with stabs := k.stabs + 1 } else s
  parkWait (s.setGrove (groveOf c) { g with parks := g.parks + 1 }) c x t

/-- Whether a cause parks its task (R41): a page fault or an absent state, but not the page fault that ends a job (R247). -/
def Trap.parks (t : Trap) : Bool := t.cls = 8 || (t.cls = 7 && t.step ≠ 0)

/-- The cause of a task that its instance's ending ends (R42, R408): it freezes no queue and names no failure. -/
def endTrap : Trap := ⟨0, 13, 0x43, noSlot, 0, 0, 0⟩
/-- Whether a cause is that of an instance's ending. -/
def Trap.quiet (t : Trap) : Bool := t.cls = 13 && t.code = 0x43

/-- A halted service context wakes on a service event (R316). -/
def wakeService (s : State) (c : Nat) : State :=
  let k := s.ctxAt c 8
  if k.st = .halted then s.setCtx c 8 { k with st := .running, nextAt := Nat.max k.nextAt (s.coreAt c).cyc } else s

/-- What a drained cause does to its task: it parks, is retried, or fails (R41-R43, R63). Every cause of a task context is taken
for one that sapwood handles, and wakes the service context of its core (R316; DESIGN CHOICE, assumption log 76). -/
def trapOutcome (s : State) (c x : Nat) (cs : List Nat) (t : Trap) : State :=
  let k := s.ctxAt c x
  let s := s.count fun n => { n with
    eccUnc := if t.cls = 10 then n.eccUnc + 1 else n.eccUnc
    integ := if t.cls = 11 then n.integ + 1 else n.integ }
  match k.task with
  | none => s.setCtx c x { k with st := .parked, ready := false }
  | some n =>
    let s := wakeService s c
    if t.parks then parkTask s c x n cs t
    else
      match s.task? n with
      | none => s
      | some r =>
        let staged := ((s.typeOf r).map (·.staged)).getD false
        if (t.cls = 10 ∨ t.cls = 11) ∧ staged ∧ r.retries < (s.groveAt (groveOf c)).retry.toNat then retryTask s n
        else failTask s n (causeWord t.cls t.slot t.code) t.quiet

/-- The failed accesses of a context that satisfy a test, as a cause (R456). -/
def failedAcc (k : Ctx) (f : Acc → Bool) : Option Trap :=
  k.accs.findSome? fun a => match a.op with
    | .failed cls code => if f a then some ⟨0, cls, code, a.slot % lostMark, 0, 0, 0⟩ else none
    | _ => none
/-- The failed reads of a context, as a cause: a dropped write waits for its commit check (R434, R456). -/
def failedRead (k : Ctx) : Option Trap := failedAcc k fun a => !a.dropped

/-- A cause taken by a context, or by one core of a gang, carried out: its run ends, it drains, the trap registers are
written, and the task parks, is retried or fails. Where the drain must wait, the cause stays to be taken. -/
def settleCause (s : State) (c x : Nat) : State :=
  let cs := mates s c x
  match cs.findSome? fun c => if hasCause (s.ctxAt c x) then ((s.ctxAt c x).err).map fun t => (c, t) else none with
  | none => s
  | some (c0, t) =>
    let s := cs.foldl (fun s c => endRun (s.setCtx c x (transferNow (s.ctxAt c x))) c x) s
    match drainAll s x cs with
    | none => s
    | some s =>
      let bad := cs.findSome? fun c => failedRead (s.ctxAt c x)
      let t := if t.parks then bad.getD t else t
      let w := causeWord t.cls t.slot t.code
      let s := cs.foldl (fun s c =>
        let k := recordTrap (s.ctxAt c x) w
        s.setCtx c x { k with
          err := none, accs := k.accs.filter Acc.dropped, holdSince := none, frzSince := none, claim := none }) s
      trapOutcome s c0 x cs t

/-- Every cause that waits to be taken is tried. -/
def settleAll (s : State) : State :=
  (s.ctxs.filter fun e => e.2.err.isSome).foldl (fun s e => settleCause s (keyCore e.1) (keyCtx e.1)) s

/-- Whether a context has taken a cause that fails or retries its task. -/
def failing (k : Ctx) : Bool := hasCause k && (match k.err with | some t => !t.parks | none => false)

/-- A task failed by a unit other than its context: a running or committing one takes the cause on its first core, unless it has one
that fails it already, and fails once it has drained, for which its suspended jobs are waited for no more (R42, R49, R65). A parked or
pre-empted one has drained before. -/
def killTask (s : State) (k : Nat) (e : Trap) : State :=
  match s.task? k with
  | none => s
  | some t =>
    match t.cores.head? with
    | none => failTask s k (causeWord e.cls e.slot e.code) e.quiet
    | some c =>
      if t.st = .parked then failTask s k (causeWord e.cls e.slot e.code) e.quiet
      else
        let own := t.cores.any fun c => failing (s.ctxAt c t.x)
        let s := t.cores.foldl (fun s d =>
          let k := s.ctxAt d t.x
          s.setCtx d t.x { k with
            jobs := k.jobs.filter fun j => j.tok.isNone
            err := if failing k then k.err else if d = c ∧ !own then some e else none }) s
        settleCause s c t.x

/-- The context that acts takes a cause: the one way a bundle's checks, its traps and its parks take effect. -/
def raiseTrap (s : State) (t : Trap) : State := settleCause (s.setMe { s.me with err := some t }) s.core s.ctx

/-! ## What holds a bundle's issue (R33) -/

/-- A bundle being issued: its operations by slot. -/
abbrev Ops := List (Slot × Instr)

/-- Whether an operation reserves a landing-buffer entry (R54, R282). -/
def needsBuf (i : Instr) : Bool :=
  match i with
  | .ld .. | .ldfe .. | .ldg .. | .arrive .. | .waitb .. | .waitbTry .. | .vld .. | .vldfe .. | .vldw .. | .vlds ..
  | .vldx .. => true
  | .aadd d .. | .amin d .. | .amax d .. | .aminn d .. | .amaxn d .. | .aand d .. | .aor d .. | .axor d .. | .axchg d ..
  | .acas d .. | .afadd d .. => d ≠ 0
  | .spawn .. | .spawnk .. | .tstat .. | .watch .. | .unwatch .. | .wstat .. | .snap .. | .gdrop .. | .groll .. | .ckpt ..
  | .gstat .. | .hnew .. | .hfree .. | .hfork .. | .havg .. | .hsnap .. | .hroll .. | .hmig .. | .hpin .. | .hunpin ..
  | .hstat .. | .pgready .. | .svc .. => true
  | _ => false

/-- Whether an operation starts a job that counts towards the 16 of R243. -/
def startsJob (i : Instr) : Bool :=
  match i with
  | .cpy .. | .cpy2d .. | .gather .. | .scatter .. | .osfill .. | .wsfill .. | .wswrite .. | .wopen .. | .wadv ..
  | .rput .. | .rget .. | .rsig .. | .mcast .. | .spin .. | .spout .. | .cflush .. | .cinv .. | .groll .. => true
  | _ => false

/-- Whether an operation enters the matrix unit's queue (R260). -/
def matrixOp (i : Instr) : Bool := (matTiles i).1.isSome

/-- Whether an operation enters the engine's queue (R272, R304). -/
def engineOp (i : Instr) : Bool :=
  match i with
  | .fwread .. | .fwfade .. | .fwwrite .. | .fwstep .. | .fwchunk .. => true
  | _ => engHandleOp i

/-- Matrix operations of the context that acts, queued or under way. -/
def State.myMat (s : State) : List MatOp := s.myCore.matOps.filter fun o => o.x = s.ctx
/-- Engine operations of the context that acts, queued or under way. -/
def State.myEng (s : State) : List EngOp := s.myCore.engOps.filter fun o => o.x = s.ctx

/-- Whether a matrix operation of the context that reads or writes a tile is not complete. -/
def matOnTile (s : State) (t : AccReg) : Bool :=
  s.myMat.any fun o => (matTiles o.op).1 = some t || (matTiles o.op).2.contains t
/-- Whether a fast-weight operation of the context that writes a tile is not complete. -/
def engOnTile (s : State) (t : AccReg) : Bool := s.myEng.any fun o => fwTile o.op = some t

/-- Whether an operation waits under the accumulator scoreboard (R219, R262, R279). -/
def tileHold (s : State) (i : Instr) : Bool :=
  match i with
  | .vfromacc _ _ a _ _ => matOnTile s a || engOnTile s a
  | .vtoacc _ d _ _ _ => matOnTile s d || engOnTile s d || s.me.inflight.any fun l => l.src = some d
  | .mwait m => (List.range 8).any fun n => (m = 0 || tst m n) &&
      (matOnTile s (Fin.ofNat 8 n) || engOnTile s (Fin.ofNat 8 n))
  | _ =>
    match fwTile i with
    | some t => matOnTile s t || toAccOut s.me s.nextOrd t
    | none => false

/-- Whether FWBIND's handle is that of an object or snapshot that an engine operation is still to make (R305). -/
def bindPending (s : State) (i : Instr) : Bool :=
  match i with
  | .fwbind _ h _ =>
    let x := s.rs h
    (allEngOps s).any fun o => o.go && o.new = x && (match o.op with | .hsnap .. | .hfork .. => true | _ => false)
  | _ => false

/-- Whether MRELEASE waits for the readers and writers of a slot (R259). -/
def slotBusy (s : State) (n : Nat) : Bool :=
  s.myMat.any (fun o => (matSlots o.op o.pa o.pb).contains n) || s.myEng.any (fun o => (engSlots o).contains n) ||
    fillOut s s.core s.ctx s.nextOrd n

/-- Whether a copy job is one that CWAIT with a tag waits for (R249). -/
def waitedJob (tag : Nat) (j : Job) : Bool := tag = 0 || j.tag = tag

/-- Whether a job has been suspended by a page fault (R247). -/
def Job.suspended (j : Job) : Bool := j.tok.isSome

/-- Whether an earlier access of the context is held for lack of pool space (R351). -/
def writeWaits (s : State) : Bool :=
  s.me.accs.any fun a => a.pieces.any fun p => placeHeld s p.pl && a.writesNow s p

/-- Whether an operation makes an access of device memory or scratchpad, or is SNAP (R351). -/
def heldBehind (s : State) (i : Instr) : Bool :=
  (wants s i).any (fun w => match resolve s w.va w.len w.rd w.wr with | .ok (.dev _) | .ok (.spad ..) => true | _ => false) ||
    (match i with | .snap .. => true | _ => false)

/-- Whether a FENCE of the context is not complete (R131, R232), and the suspended job that it waits for. -/
def fenceOut (s : State) : Bool × Option Job :=
  match s.me.fence with
  | none => (false, none)
  | some (ord, wide) =>
    let js := s.me.jobs.filter fun j => j.ord < ord && !j.finished
    let far : Bool := wide && (s.me.accs.any (fun a => a.ord ≤ ord && a.ordered) ||
      s.redWins.any fun w => w.2.held.any fun c => c.c = ctxKey s.core s.ctx)
    (!js.isEmpty || far, js.find? (·.suspended))

/-- Whether an operation waits for its own reasons, the .wf stores apart. -/
def opHold (s : State) (i : Instr) : Bool :=
  tileHold s i || bindPending s i || (writeWaits s && heldBehind s i) ||
    (match i with
     | .cwait c => s.me.jobs.any (waitedJob c.tag.val)
     | .mrelease m => (List.range 16).any fun n => tst m n && holdsSlot s n && slotBusy s n
     | .fwwait m => s.myEng.any fun o => engHandleOp o.op || m = 0 || tst m o.fb
     | _ => false)

/-- Whether a bundle waits for room in a queue, for a job to complete, for a FENCE, or for one of its operations, landing-buffer
entries and .wf stores apart. Of the engine's operations, that which it is performing does not count against its queue of 8, as
R260 says of the matrix unit and R272 leaves open (DESIGN CHOICE, assumption log 87). -/
def bundleHold (s : State) (ops : Ops) : Bool :=
  let n (f : Instr → Bool) : Nat := (ops.filter fun o => f o.2).length
  (0 < n startsJob && 16 < s.me.jobs.length + n startsJob) ||
    (0 < n matrixOp && 16 < s.myCore.mq.length + n matrixOp) ||
    (0 < n engineOp && 8 < s.myCore.eq.length + n engineOp) ||
    (fenceOut s).1 || ops.any fun o => opHold { s with slot := o.1 } o.2

/-- The landing-buffer entries that a bundle reserves (R54). -/
def bufWants (ops : Ops) : Nat := (ops.filter fun o => needsBuf o.2).length

/-- Whether a core lacks landing-buffer entries for `n` (R54). -/
def bufShort (s : State) (c n : Nat) : Bool := 0 < n && 256 < bufUsed s c + n

/-- The suspended job of its context that an operation reaches, if any, and parks for: an LDG, which R136 orders behind no job,
reaches none (R225, R247). -/
def reachesSuspended (s : State) (i : Instr) : Option Job :=
  s.me.jobs.find? fun j => j.suspended && ((match i with | .cwait c => waitedJob c.tag.val j | _ => false) ||
    (!j.finished && (wants s i).any fun w => !w.ldg && (j.writesOver s w.va w.len || (w.wr && j.readsOver s w.va w.len))))

/-- The park of a bundle at a suspended job: at a CWAIT, an access ordered behind it, a FENCE, or a copy operation for which the
jobs outstanding, all suspended, leave no room (R243, R247). The cause's address names the job waited for, by its issue order, and
its access the job's slot; address 0 is any job. R167 gives this park no place in the order of causes: the model takes it after step 8 and
TRAP (DESIGN CHOICE, assumption log 112). -/
def suspendedPark (s : State) (ops : Ops) : Option Trap :=
  let full : Bool := decide (16 < s.me.jobs.length + (ops.filter fun o => startsJob o.2).length) && s.me.jobs.all (·.suspended)
  match (fenceOut s).2 with
  | some j => some ⟨9, 7, 3, noSlot, j.ord + 1, j.slot, 0⟩
  | none => ops.findSome? fun o =>
    match reachesSuspended { s with slot := o.1 } o.2 with
    | some j => some ⟨9, 7, 3, o.1.num, j.ord + 1, j.slot, 0⟩
    | none => if full && startsJob o.2 then some ⟨9, 7, 3, o.1.num, 0, 0, 0⟩ else none

/-! ## Stores that wait while full (R114, R115) -/

/-- The accesses of a .wf store, with the number of its first granule in `Ctx.wfDone`. -/
def wfWants (s : State) (o : Slot × Instr) : List Want :=
  match o.2 with
  | .stfe .wf .. | .vstfe .wf .. => wants { s with slot := o.1 } o.2
  | _ => []

/-- The end of the PHASE drain that an access meets at its issue, if any (R108). -/
def drainTill (s : State) (p : Place) : Nat :=
  let g := match p with | .spad g _ => g | _ => s.g
  if drainBlocks s s.g p then match (s.groveAt g).drain with | some d => d.till | none => 0 else 0

/-- The bit of `Ctx.wfDone` for a granule. -/
def wfBit (o : Slot) (idx : Nat) : Nat := (if o = .v1 then 32 else 0) + idx

/-- The granules of a .wf store that it has still to perform. -/
def wfLeft (s : State) (o : Slot × Instr) : List Want :=
  (wfWants s o).filter fun w => !tst s.me.wfDone (wfBit o.1 w.idx)

/-- Whether a granule of a .wf store is full. -/
def wfFull (s : State) (w : Want) : Bool :=
  match resolve s w.va w.len w.rd w.wr with
  | .ok p => isFull s p
  | _ => false

/-- The .wf store of an earlier bundle of a protected grove that has still to perform a granule (R452): it holds the next bundle as it
would hold its own (DEDUCED, assumption log 71). -/
def wfBehind (k : Ctx) : Option Acc := k.accs.find? fun a => a.isWf && !a.pieces.isEmpty

/-- Whether some granule is full that a bundle's .wf stores, or an earlier one, have still to perform (R115). -/
def wfWaits (s : State) (ops : Ops) : Bool :=
  (wfBehind s.me).isSome || ops.any fun o => (wfLeft s o).any (wfFull s)

/-- Whether a granule that is empty may be performed while the bundle is held: no job, drain or controller stands before it. -/
def wfReady (s : State) (w : Want) : Bool :=
  match resolve s w.va w.len w.rd w.wr with
  | .ok p => (blockingJob s s.nextOrd w.va w.len true).isNone && !drainBlocks s s.g p && !placeWaits s p && !isFull s p
  | _ => false

/-- The bytes that a .wf store writes at a granule. -/
def wfBytes (s : State) (o : Slot × Instr) (w : Want) : List (Option Byte) :=
  let s := { s with slot := o.1 }
  match o.2 with
  | .stfe _ _ b _ _ => (leBytes w.len (s.rs b).toNat).map some
  | .vstfe _ t a _ g => maskedBytes (s.rv a) (byteMask t.bytes (s.rvp g)) (16 * w.idx) 16
  | _ => []

/-- One granule of a held .wf store performed. -/
def wfPerform (s : State) (o : Slot × Instr) (w : Want) : State :=
  match resolve s w.va w.len w.rd w.wr with
  | .ok p =>
    let s := writePart (markFull s p true) p (wfBytes s o w) s.wfOrd o.1.num
    s.setMe { s.me with wfDone := s.me.wfDone ||| BitVec.ofNat 64 (2 ^ wfBit o.1 w.idx) }
  | _ => s

/-- The .wf stores of a bundle that its hold performs: those before which no other access of the bundle comes, where nothing waits
at the core's edge for its bundle to issue (R115, R121, R452; DEDUCED, assumption log 71). -/
def wfFirst (s : State) (ops : Ops) : Ops :=
  if s.myGrove.prot then []
  else ops.takeWhile fun o => (wants { s with slot := o.1 } o.2).isEmpty || !(wfWants s o).isEmpty
/-- The granules of a held bundle's .wf stores that are empty are performed, in the slots' order: those of the first slot that
has any left, once every earlier access of the context has been performed (R115, R121). -/
def wfPart (s : State) : Ops → State
  | [] => s
  | o :: t =>
    let ws := wfLeft s o
    if ws.isEmpty then wfPart s t
    else
      match drainAccs s s.me.accs with
      | some u =>
        let u := ws.foldl (fun s w => if wfReady s w then wfPerform s o w else s) u
        if (wfLeft u o).isEmpty then wfPart u t else u
      | none => s
/-- Whether .wf stores hold a bundle: a granule is full, or they cannot yet perform every granule (R115). -/
def wfHold (s : State) (ops : Ops) : Bool :=
  let ws := wfFirst s ops
  wfWaits s ops || (ws.any (fun o => !(wfLeft s o).isEmpty) && ws.any fun o => !(wfLeft (wfPart s ws) o).isEmpty)
/-- The end of the drains that the granules which .wf stores have still to perform meet, if any (R108). -/
def wfDrain (s : State) (ops : Ops) : Nat :=
  (ops.flatMap fun o => wfLeft s o).foldl (fun n w => match resolve s w.va w.len w.rd w.wr with
    | .ok p => Nat.max n (drainTill s p)
    | _ => n) 0
/-- A bundle held by .wf stores on the core that acts: they perform what they can, and a wait for a full granule is timed from its
start (R115, R116). Where every granule left is empty and a drain serves none of them, the core freezes until its end, as for any
access (R108; DEDUCED, assumption log 71). -/
def wfHeld (s : State) (ops : Ops) : State :=
  let full := wfWaits s ops
  let s := wfPart s (wfFirst s ops)
  if full then s.setMe { s.me with holdSince := some (s.me.holdSince.getD s.myCore.cyc) }
  else s.freezeTill s.core s.ctx (wfDrain s ops)

/-! ## MCLAIM (R258) -/

/-- Whether every slot of a mask is free or held by context `x`. -/
def claimable (k : Core) (x : Nat) (m : BitVec 16) : Bool :=
  (List.range 16).all fun n => !tst m n ||
    (match k.slots[n]? with | some o => o.holder.isNone || o.holder = some x | none => true)

/-- The mask that a bundle claims and cannot have. -/
def claimMissed (s : State) (ops : Ops) : Option (BitVec 16) :=
  ops.findSome? fun o => match o.2 with
    | .mclaim m => if claimable s.myCore s.ctx m then none else some m
    | _ => none

/-- A context that cannot claim ends its run and is not ready (R258). -/
def claimWait (s : State) (m : BitVec 16) : State :=
  let cs := mates s s.core s.ctx
  let s := cs.foldl (fun s c => s.setCtx c s.ctx { s.ctxAt c s.ctx with claim := some m, ready := false }) s
  if s.me.gang then gangYield s s.g s.ctx else endRun s s.core s.ctx

/-- Contexts whose claimed slots are all free become ready (R258). -/
def wakeClaims (s : State) (c : Nat) : State :=
  (List.range 8).foldl (fun s x =>
    let k := s.ctxAt c x
    match k.claim with
    | some m =>
      if k.st = .running ∧ claimable (s.coreAt c) x m then
        selectCtx (s.setCtx c x { k with claim := none, ready := true, since := (s.coreAt c).cyc }) c
      else s
    | none => s) s

/-! ## The checks of a bundle (R167) -/

/-- The first operation, in slot order, in which a check finds a code, as a cause. -/
def firstCode (s : State) (ops : Ops) (step cls : Nat) (f : State → Instr → Option Nat) : Option Trap :=
  ops.findSome? fun o => (f { s with slot := o.1 } o.2).map fun n => ⟨step, cls, n, o.1.num, 0, 0, 0⟩

/-- The grant code: 0 (DEDUCED, assumption log 16). -/
def grantCode (s : State) (i : Instr) : Option Nat := if grantBad s i then some 0 else none

/-- The illegal-operation finding of an operation. An FWBIND that waits for its handle has none yet, and with it no later check of
its bundle (R167, R273, R305). -/
def illopVerdict (s : State) (i : Instr) : Verdict :=
  if bindPending s i then .hold
  else match illopCode s i with
    | some n => .trap ⟨5, 3, n, s.slot.num, 0, 0, 0⟩
    | none => .pass

/-- Whether a raise does not fit the grove with what is reserved for this context (R327). -/
def raiseBad (s : State) (i : Instr) : Bool :=
  match engHandles s i with
  | h :: _ => 0 < raiseOf s i && freeCharge s s.chip s.g + roomHeld s (objKey h) < raiseOf s i
  | [] => false

/-- The residency finding of an operation; a code 4 carries the raise it needs. -/
def residency (s : State) (i : Instr) : Verdict :=
  match absentVerdict s i (raiseBad s i) with
  | .trap t => .trap (if t.code = 4 then { t with acc := raiseOf s i } else t)
  | v => v

/-- The first finding among a bundle's operations, in slot order. -/
def firstVerdict (s : State) (ops : Ops) (f : State → Instr → Verdict) : Verdict :=
  ops.foldl (fun v o => v.or (f { s with slot := o.1 } o.2)) .pass

/-- A TRAP instruction of a bundle that has passed every check (R313). -/
def trapOp (ops : Ops) : Option Trap :=
  ops.findSome? fun o => match o.2 with
    | .trap code => some ⟨9, 9, code.toNat, o.1.num, 0, 0, 0⟩
    | _ => none

/-- Steps 3 to 8 of R167, and TRAP. -/
def checkOps (s : State) (ops : Ops) : Verdict :=
  match firstCode s ops 3 4 privCode with
  | some t => .trap t
  | none =>
    match firstCode s ops 4 5 grantCode with
    | some t => .trap t
    | none =>
      match firstVerdict s ops illopVerdict with
      | .pass =>
        match firstCode s ops 6 6 footCodeOf with
        | some t => .trap t
        | none =>
          match firstVerdict s ops transVerdict with
          | .pass =>
            match firstVerdict s ops residency with
            | .pass => match trapOp ops with | some t => .trap t | none => .pass
            | v => v
          | v => v
      | v => v

/-- What stands before a bundle's issue on one core: a cause, a walk, an access to storage that does not exist, an issue
delay, a claim that cannot be had, too few landing-buffer entries, or a .wf store that cannot be performed yet. -/
inductive Stop
  | trap (t : Trap)
  | miss (w : Walk)
  | hole
  | hold
  | claim (m : BitVec 16)
  | room (n : Nat)
  | full
  deriving DecidableEq, Repr

/-- What comes of a bundle that does not issue. -/
def Stop.out (s : State) (ops : Ops) : Stop → Out
  | .trap t =>
    let i := (ops.find? fun o => o.1.num = t.slot).map (·.2)
    .next (raiseTrap (if t.cls = 8 ∧ t.code = 4 then s.setMe { s.me with ask := i } else s) t)
  | .miss w => .next (s.setMyCore { s.myCore with walk := some w })
  | .hole => .fault .noDeviceMemory
  | .hold => .next s
  | .claim m => .next (claimWait s m)
  | .room n => .next (s.setMyCore { s.myCore with bufNeed := n })
  | .full =>
    let t := (mates s s.core s.ctx).foldl (fun (t : State) (c : Nat) => wfHeld { t with core := c } ops) s
    .next { t with core := s.core }

/-- The checks of a bundle and what holds it, on one core: what stops it, or the state in which it issues. -/
def precheck (s : State) (ops : Ops) : Except Stop State :=
  match checkOps s ops with
  | .trap t => .error (.trap t)
  | .miss w => .error (.miss w)
  | .hole => .error .hole
  | .hold => .error .hold
  | .pass =>
    match suspendedPark s ops with
    | some t => .error (.trap t)
    | none =>
      match claimMissed s ops with
      | some m => .error (.claim m)
      | none =>
        if bundleHold s ops then .error .hold
        else if bufShort s s.core (bufWants ops) then .error (.room (bufWants ops))
        else if wfHold s ops then .error .full
        else .ok s

/-- The meaning of a slot operation that R167 checks: its effect, once its checks pass and nothing holds it. In a
bundle, the checks of all its operations come first. -/
def guarded (s : State) (i : Instr) (eff : State → State) : Out :=
  if s.checked then .next (eff s)
  else
    match precheck s [(s.slot, i)] with
    | .ok s => .next (eff s)
    | .error e => e.out s [(s.slot, i)]

/-! ## Issuing accesses, requests, jobs and unit operations -/

/-- The accesses of an operation as pieces. -/
def piecesOf (s : State) (ws : List Want) : List Piece :=
  ws.filterMap fun w => match resolve s w.va w.len w.rd w.wr with
    | .ok p => some ⟨w.idx, w.va, p, w.len⟩
    | _ => none

/-- An access issued: its core freezes until the end of a drain of grove memory that it meets (R108). -/
def State.addAcc (s : State) (op : AccOp) (ws : List Want) (land : Nat) : State :=
  let ps := piecesOf s ws
  let till := ps.foldl (fun n p => Nat.max n (drainTill s p.pl)) s.me.frzUntil
  let a : Acc := ⟨s.nextOrd, s.slot.num, op, ps, s.myCore.cyc + land, s.squash⟩
  s.setMe { s.me with accs := s.me.accs ++ [a], frzUntil := till }

/-- A vector load issued: with no granule to read, its register is formed at once from its inactive lanes (R198, R228). -/
def State.addVload (s : State) (fe : Option FeLoad) (d : VReg) (base : VecW) (k : MaskW) (ws : List Want) (land : Nat) :
    State :=
  if ws.isEmpty then s.stageWith (.v d base) land 0 true none else s.addAcc (.vload fe d base k 0) ws land

/-- A .wf store issued: the granules that it has still to perform are performed at once, behind what its context has issued
before; where they cannot all be, its bundle does not issue (R115), but in a protected grove, where they wait at the core's edge
(R452). -/
def State.addWf (s : State) (op : AccOp) (ws : List Want) : State :=
  let ws := ws.filter fun w => !tst s.me.wfDone (wfBit s.slot w.idx)
  if ws.isEmpty then s
  else
    let s := s.addAcc op ws 0
    (drainAccs s s.me.accs).getD s

/-- A request issued (R282). -/
def State.addReq (s : State) (i : Instr) (x y : W64) (blk : List W64) (land : Nat) : State :=
  let r : Req := ⟨s.nextOrd, i, x, y, blk, s.myCore.cyc + land, none, s.time.toNat⟩
  s.setMe { s.me with reqs := s.me.reqs ++ [r] }

/-- A job issued (R242). -/
def State.addJob (s : State) (i : Instr) (tag : Nat) (args : List W64) (yw moving : Bool) : State :=
  let j : Job := ⟨s.nextOrd, s.slot.num, tag, i, args, 0, 0, none, [], false, 0, moving, yw, saveRange s, []⟩
  s.setMe { s.me with jobs := s.me.jobs ++ [j], ywJob := if yw then some s.nextOrd else s.me.ywJob }

/-- A matrix-unit operation queued (R260). -/
def State.addMat (s : State) (i : Instr) : State :=
  let (pa, pb) : BitVec 128 × BitVec 128 := match matPars i with | some (a, b) => (s.rmp a, s.rmp b) | none => (0, 0)
  s.setMyCore { s.myCore with mq := s.myCore.mq ++ [⟨s.ctx, s.nextOrd, i, pa, pb, s.squash⟩] }

/-- A fast-weight operation queued with its inputs (R272, R275, R277). -/
def State.addFw (s : State) (i : Instr) (fb : FbReg) (vecs : List VecW) (mps : List (BitVec 128)) : State :=
  let b := s.me.fb[fb.val]
  s.setMyCore { s.myCore with
    eq := s.myCore.eq ++ [⟨s.ctx, s.nextOrd, i, b.handle, b.tile, fb.val, vecs, mps, [], false, 0⟩] }

/-- The register block of a fast-weight operation, from v[x] upward (R275). -/
def State.vecBlock (s : State) (fb : FbReg) (i : Instr) (x : VReg) : List VecW :=
  (List.range (fwBlock s.me.fb[fb.val] i)).map fun n => s.rv (Fin.ofNat 32 (x.val + n))

/-- An engine handle operation queued and sent to the directory, with the reservation its raise needs (R304, R327). -/
def State.addHandle (s : State) (i : Instr) (h : W64) (srcs : List W64) (x y : W64) (blk : List W64) (land : Nat) : State :=
  let up := raiseOf s i
  let s : State := match s.obj? (objKey h) with
    | some o =>
      let mine := o.roomFor.filter fun (w : Waiter) => w.c = s.core && w.x = s.ctx
      let held := mine.foldl (fun (n : Nat) (w : Waiter) => if w.got then n + w.need else n) 0
      s.setObj (objKey h) { o with
        roomFor := o.roomFor.filter fun (w : Waiter) => !(w.c = s.core && w.x = s.ctx)
        extra := o.extra - held + up }
    | none => s
  let s := s.setMyCore { s.myCore with
    eq := s.myCore.eq ++ [⟨s.ctx, s.nextOrd, i, h, up, 0, [], [], srcs, false, 0⟩] }
  s.addReq i x y blk land

end Sys2Proof.Machine
end

