-- ==== Sys2Proof/Machine/Fetch.lean ====
section
/-! DEFINITION. Fetching from the index stream (R153, R154): what a bundle's halfword leads to, and the address of the
bundle after it. -/

namespace Sys2Proof.Machine
open Sys2Proof

/-- What the sequencer finds at an address: an illegal index, or a bundle and whether it is a literal. -/
inductive Fetched
  | illegal (code : Nat)
  | bundle (w : BundleW) (literal : Bool)
  deriving DecidableEq, Repr

/-- The marker of a literal bundle. -/
def literalMark : W16 := 0xFFFF

/-- A literal's bits: halfword i gives bundle bits [16i+15:16i]. -/
def literalOf : List W16 → Nat
  | [] => 0
  | h :: t => h.toNat + 2 ^ 16 * literalOf t

/-- The sequencer's action on the halfword at an address (R153). -/
def fetchAt (i : Image) (pc : Nat) : Fetched :=
  match i.code.drop pc with
  | [] => .illegal 3
  | h :: t =>
    if h = literalMark then
      if t.length < 24 then .illegal 3 else .bundle (BitVec.ofNat 384 (literalOf (t.take 24))) true
    else if 0x2000 ≤ h.toNat then .illegal 1
    else match i.dict[h.toNat]? with
      | some w => .bundle w false
      | none => .illegal 2

/-- The halfwords that a bundle at an address takes up. -/
def bundleLen (i : Image) (pc : Nat) : Nat :=
  match i.code[pc]? with
  | some h => if h = literalMark then 25 else 1
  | none => 1

/-- The address of the bundle after the one at an address; past halfword 0xFFFFFFFF it wraps to 0, since the spec gives the program
counter no width beyond that of an address (DESIGN CHOICE, assumption log 82). -/
def afterBundle (i : Image) (pc : W32) : W32 := pc + BitVec.ofNat 32 (bundleLen i pc.toNat)

/-- The image of the instance of a context; that of sapwood in a service context (R439). -/
def imageAt (s : State) (c x : Nat) : Option Image :=
  match (s.ctxAt c x).inst.bind s.inst? with
  | some i => some i.img
  | none => if x = 8 then s.sapwood else none

/-- The address that a context's next bundle has: the target of a transfer whose delay bundles have issued, else the
program counter (R161). -/
def issuePc (k : Ctx) : W32 := match k.delay, k.target with | 0, some t => t | _, _ => k.pc

end Sys2Proof.Machine
end

