-- ==== Sys2Proof/Machine/Scalar.lean ====
section
/-! DEFINITION. The scalar instructions on integers, bits, predicates and sequencing registers (R169-R185). -/

namespace Sys2Proof.Machine
open Sys2Proof

/-- A result for s[D] put in flight with latency bound L (R169). -/
def landS (s : State) (d : SReg) (x : W64) (L : Nat) : Out := .next (s.stage (.s d x) L 0)
/-- A result for p[D], of latency bound 1. -/
def landP (s : State) (d : PReg) (x : Bool) : Out := .next (s.stage (.p d x) 1 0)

/-- A division's quotient and remainder, signed (R173, R174). -/
def sdivRem (x y : W64) : W64 × W64 :=
  if y = 0 then (BitVec.allOnes 64, x) else (BitVec.ofInt 64 (x.toInt.tdiv y.toInt), BitVec.ofInt 64 (x.toInt.tmod y.toInt))
/-- A division's quotient and remainder, unsigned. -/
def udivRem (x y : W64) : W64 × W64 :=
  if y = 0 then (BitVec.allOnes 64, x) else (BitVec.ofNat 64 (x.toNat / y.toNat), BitVec.ofNat 64 (x.toNat % y.toNat))

/-- The shift amount y[5:0] (R173). -/
def shiftOf (y : W64) : Nat := (bits y 0 6).toNat
/-- The number of set bits. -/
def popCount (x : W64) : Nat := (List.range 64).foldl (fun n i => if tst x i then n + 1 else n) 0
/-- Zero bits above the most significant set bit (R175). -/
def leadZeros (x : W64) : Nat := if x = 0 then 64 else 63 - Nat.log2 x.toNat
/-- Zero bits below the least significant set bit. -/
def trailZeros (x : W64) : Nat := ((List.range 64).find? fun i => tst x i).getD 64

/-- NOP does nothing (R171). -/
def execNop (s : State) : Out := .next s
/-- ADD (R173). -/
def execAdd (d a : SReg) (y : Src2) (s : State) : Out := landS s d (s.rs a + s.src2 y) 1
/-- SUB (R173). -/
def execSub (d a : SReg) (y : Src2) (s : State) : Out := landS s d (s.rs a - s.src2 y) 1
/-- MUL (R173). -/
def execMul (d a : SReg) (y : Src2) (s : State) : Out := landS s d (s.rs a * s.src2 y) 3
/-- MULH: bits [127:64] of the signed product (R173). -/
def execMulh (d a : SReg) (y : Src2) (s : State) : Out :=
  landS s d (BitVec.ofInt 64 (((s.rs a).toInt * (s.src2 y).toInt) / 2 ^ 64)) 3
/-- MULHN: bits [127:64] of the unsigned product (R173). -/
def execMulhn (d a : SReg) (y : Src2) (s : State) : Out :=
  landS s d (BitVec.ofNat 64 ((s.rs a).toNat * (s.src2 y).toNat / 2 ^ 64)) 3
/-- DIV (R173, R174). -/
def execDiv (d a : SReg) (y : Src2) (s : State) : Out := landS s d (sdivRem (s.rs a) (s.src2 y)).1 20
/-- DIVN (R173, R174). -/
def execDivn (d a : SReg) (y : Src2) (s : State) : Out := landS s d (udivRem (s.rs a) (s.src2 y)).1 20
/-- REM (R173, R174). -/
def execRem (d a : SReg) (y : Src2) (s : State) : Out := landS s d (sdivRem (s.rs a) (s.src2 y)).2 20
/-- REMN (R173, R174). -/
def execRemn (d a : SReg) (y : Src2) (s : State) : Out := landS s d (udivRem (s.rs a) (s.src2 y)).2 20
/-- AND (R173). -/
def execAnd (d a : SReg) (y : Src2) (s : State) : Out := landS s d (s.rs a &&& s.src2 y) 1
/-- OR (R173). -/
def execOr (d a : SReg) (y : Src2) (s : State) : Out := landS s d (s.rs a ||| s.src2 y) 1
/-- XOR (R173). -/
def execXor (d a : SReg) (y : Src2) (s : State) : Out := landS s d (s.rs a ^^^ s.src2 y) 1
/-- ANDN (R173). -/
def execAndn (d a : SReg) (y : Src2) (s : State) : Out := landS s d (s.rs a &&& ~~~(s.src2 y)) 1
/-- SHL (R173). -/
def execShl (d a : SReg) (y : Src2) (s : State) : Out := landS s d (s.rs a <<< shiftOf (s.src2 y)) 1
/-- SHR (R173). -/
def execShr (d a : SReg) (y : Src2) (s : State) : Out := landS s d (s.rs a >>> shiftOf (s.src2 y)) 1
/-- SAR (R173). -/
def execSar (d a : SReg) (y : Src2) (s : State) : Out := landS s d ((s.rs a).sshiftRight (shiftOf (s.src2 y))) 1
/-- ROL (R173). -/
def execRol (d a : SReg) (y : Src2) (s : State) : Out := landS s d ((s.rs a).rotateLeft (shiftOf (s.src2 y))) 1
/-- MIN (R173). -/
def execMin (d a : SReg) (y : Src2) (s : State) : Out :=
  let (x, y) := (s.rs a, s.src2 y); landS s d (if y.slt x then y else x) 1
/-- MAX (R173). -/
def execMax (d a : SReg) (y : Src2) (s : State) : Out :=
  let (x, y) := (s.rs a, s.src2 y); landS s d (if x.slt y then y else x) 1
/-- MINN (R173). -/
def execMinn (d a : SReg) (y : Src2) (s : State) : Out :=
  let (x, y) := (s.rs a, s.src2 y); landS s d (if y.ult x then y else x) 1
/-- MAXN (R173). -/
def execMaxn (d a : SReg) (y : Src2) (s : State) : Out :=
  let (x, y) := (s.rs a, s.src2 y); landS s d (if x.ult y then y else x) 1
/-- CLZ (R175). -/
def execClz (d a : SReg) (s : State) : Out := landS s d (BitVec.ofNat 64 (leadZeros (s.rs a))) 1
/-- CTZ (R175). -/
def execCtz (d a : SReg) (s : State) : Out := landS s d (BitVec.ofNat 64 (trailZeros (s.rs a))) 1
/-- POPC (R175). -/
def execPopc (d a : SReg) (s : State) : Out := landS s d (BitVec.ofNat 64 (popCount (s.rs a))) 1
/-- SEXT of the low w + 1 bits (R176). -/
def execSext (d a : SReg) (w : Fin 64) (s : State) : Out := landS s d (sextFrom (w.val + 1) (s.rs a)) 1
/-- ZEXT of the low w + 1 bits (R176). -/
def execZext (d a : SReg) (w : Fin 64) (s : State) : Out := landS s d (zextFrom (w.val + 1) (s.rs a)) 1
/-- SEL (R178). -/
def execSel (d a b : SReg) (neg : Bool) (p : PReg) (s : State) : Out :=
  landS s d (if xor (s.rp p) neg then s.rs a else s.rs b) 1
/-- MOVI (R179). -/
def execMovi (d : SReg) (v : BitVec 34) (s : State) : Out := landS s d (v.signExtend 64) 1
/-- MOVHI (R179). -/
def execMovhi (d : SReg) (v : BitVec 30) (s : State) : Out := landS s d (v ++ bits (s.rs d) 0 34) 1
/-- BFX (R177). -/
def execBfx (d a : SReg) (pos : BitVec 6) (len : BitVec 7) (s : State) : Out :=
  landS s d (zextFrom len.toNat (s.rs a >>> pos.toNat)) 1
/-- BFI (R177). -/
def execBfi (d a : SReg) (pos : BitVec 6) (len : BitVec 7) (s : State) : Out :=
  let m : W64 := zextFrom len.toNat (BitVec.allOnes 64) <<< pos.toNat
  landS s d ((s.rs d &&& ~~~m) ||| ((s.rs a <<< pos.toNat) &&& m)) 1
/-- CMP (R180). -/
def execCmp (c : ICond) (n : Bool) (d : PReg) (a : SReg) (y : Src2) (s : State) : Out :=
  landP s d (icond c n (s.rs a) (s.src2 y))
/-- PAND (R181). -/
def execPand (d a b : PReg) (nb na : Bool) (s : State) : Out := landP s d (xor (s.rp a) na && xor (s.rp b) nb)
/-- POR (R181). -/
def execPor (d a b : PReg) (nb na : Bool) (s : State) : Out := landP s d (xor (s.rp a) na || xor (s.rp b) nb)
/-- PXOR (R181). -/
def execPxor (d a b : PReg) (nb na : Bool) (s : State) : Out := landP s d (xor (xor (s.rp a) na) (xor (s.rp b) nb))
/-- PNOT (R181). -/
def execPnot (d a : PReg) (s : State) : Out := landP s d (!s.rp a)
/-- PMOV (R181). -/
def execPmov (d a : PReg) (s : State) : Out := landP s d (s.rp a)
/-- BTA (R182). -/
def execBta (d : BReg) (t : BitVec 32) (s : State) : Out := .next (s.stage (.b d t) 1 0)
/-- BTR, write form (R183). -/
def execBtrWrite (d : BReg) (a : SReg) (off : BitVec 34) (s : State) : Out :=
  .next (s.stage (.b d ((s.rs a + off.signExtend 64).setWidth 32)) 1 0)
/-- BTR, read form (R183). -/
def execBtrRead (d : SReg) (a : BReg) (s : State) : Out := landS s d ((s.rb a).setWidth 64) 1
/-- LOOP, write form (R184). -/
def execLoopWrite (d : LReg) (y : Src2) (s : State) : Out := .next (s.stage (.lc d ((s.src2 y).setWidth 32)) 1 0)
/-- LOOP, read form (R184). -/
def execLoopRead (d : SReg) (a : LReg) (s : State) : Out := landS s d ((s.rlc a).setWidth 64) 1
/-- RDPC (R185). -/
def execRdpc (d : SReg) (off : BitVec 34) (s : State) : Out := landS s d (s.here.setWidth 64 + off.signExtend 64) 1

/-! ## Floating point (R186-R189) -/

/-- A float result for s[D] with its flags: the low bits, zeros above (R186). -/
def landF (s : State) (d : SReg) (r : Nat × FFlags) (L : Nat) : Out := .next (s.stage (.s d (BitVec.ofNat 64 r.1)) L r.2)
/-- An operand's bits in its format (R186). -/
def fop (s : State) (f : SFmt) (a : SReg) : Nat := (s.rs a).toNat % 2 ^ (sfmt f).width
/-- The latency bound of FDIV and FSQRT (R169). -/
def slowL (f : SFmt) : Nat := if f = .f64 then 22 else 12

/-- FADD (R187). -/
def execFadd (f : SFmt) (d a b : SReg) (s : State) : Out := landF s d (faddBits (sfmt f) (fop s f a) (fop s f b)) 4
/-- FSUB (R187). -/
def execFsub (f : SFmt) (d a b : SReg) (s : State) : Out := landF s d (fsubBits (sfmt f) (fop s f a) (fop s f b)) 4
/-- FMUL (R187). -/
def execFmul (f : SFmt) (d a b : SReg) (s : State) : Out := landF s d (fmulBits (sfmt f) (fop s f a) (fop s f b)) 4
/-- FFMA (R94, R187). -/
def execFfma (f : SFmt) (d a b c : SReg) (s : State) : Out :=
  landF s d (ffmaBits (sfmt f) false false (fop s f a) (fop s f b) (fop s f c)) 4
/-- FDIV (R187). -/
def execFdiv (f : SFmt) (d a b : SReg) (s : State) : Out :=
  landF s d (fdivBits (sfmt f) (fop s f a) (fop s f b)) (slowL f)
/-- FSQRT (R187). -/
def execFsqrt (f : SFmt) (d a : SReg) (s : State) : Out := landF s d (fsqrtBits (sfmt f) (fop s f a)) (slowL f)
/-- FMIN (R81, R187). -/
def execFmin (f : SFmt) (d a b : SReg) (s : State) : Out := landF s d (fminBits (sfmt f) (fop s f a) (fop s f b), 0) 4
/-- FMAX (R81, R187). -/
def execFmax (f : SFmt) (d a b : SReg) (s : State) : Out := landF s d (fmaxBits (sfmt f) (fop s f a) (fop s f b), 0) 4
/-- FCMP (R81, R188). -/
def execFcmp (c : FCond) (f : SFmt) (d : PReg) (a b : SReg) (s : State) : Out :=
  .next (s.stage (.p d (fcond c (unpack (sfmt f) (fop s f a)) (unpack (sfmt f) (fop s f b)))) 4 0)

/-- The value of an integer source of FCVT (R189). -/
def cvtInt (t : CvtTy) (x : W64) : Int :=
  match t with
  | .i64 => x.toInt
  | .u64 => (x.toNat : Int)
  | .i32 => (bits x 0 32).toInt
  | _ => ((bits x 0 32).toNat : Int)
/-- Width and signedness of an integer type. -/
def cvtShape : CvtTy → Bool × Nat
  | .i64 => (true, 64) | .u64 => (false, 64) | .i32 => (true, 32) | _ => (false, 32)
/-- Whether a type is an integer type. -/
def isIntTy (t : CvtTy) : Bool := match t with | .i64 | .u64 | .i32 | .u32 => true | _ => false

/-- The result of FCVT and its flags (R82, R189). -/
def fcvtBits (m : RMode) (src dst : CvtTy) (x : W64) : W64 × FFlags :=
  if isIntTy src then
    let r := cvtIF (cfmt dst) m (cvtInt src x)
    (BitVec.ofNat 64 r.1, r.2)
  else
    let v := x.toNat % 2 ^ (cfmt src).width
    if isIntTy dst then
      let (sg, w) := cvtShape dst
      let r := cvtFI (cfmt src) sg w m v
      (if sg then sextFrom w (BitVec.ofNat 64 r.1) else BitVec.ofNat 64 r.1, r.2)
    else
      let r := cvtFF (cfmt src) (cfmt dst) m v
      (BitVec.ofNat 64 r.1, r.2)

/-- FCVT (R189). -/
def execFcvt (d a : SReg) (m : RMode) (src dst : CvtTy) (s : State) : Out :=
  let r := fcvtBits m src dst (s.rs a)
  .next (s.stage (.s d r.1) 4 r.2)

end Sys2Proof.Machine
end

