-- ==== Sys2Proof/Machine/Vector.lean ====
section
/-! DEFINITION. The vector instructions (R197-R219): lane-wise arithmetic, special functions, logic, predicates,
conversions, permutations, reductions and accumulator transfers. -/

namespace Sys2Proof.Machine
open Sys2Proof

/-! ## Shared forms -/

/-- Whether a lane type is a float type. -/
def floatTy (t : VTy) : Bool := match t with | .f32 | .bf16 | .f16 | .f64 => true | _ => false

/-- A lane-wise instruction: v[D] formed under its guard and put in flight (R198). -/
def vlanes (s : State) (i : Instr) (t : VTy) (d : VReg) (g : Guard) (L : Nat) (f : State → Nat → Nat × FFlags) : Out :=
  guarded s i fun s =>
    let r := guardMap t.bytes (s.rvp g.g) g.z (s.rv d) (f s)
    s.stage (.v d r.1) L r.2

/-- A whole vector register put in flight. -/
def vwhole (s : State) (i : Instr) (d : VReg) (L : Nat) (f : State → VecW × FFlags) : Out :=
  guarded s i fun s => let r := f s; s.stage (.v d r.1) L r.2

/-- Lane i of v[a]. -/
def vl (s : State) (t : VTy) (a : VReg) (i : Nat) : Nat := lane t.bytes (s.rv a) i
/-- An integer result wrapped at the lane width. -/
def wrapLane (t : VTy) (x : Int) : Nat × FFlags := (wrapNat (8 * t.bytes) x, 0)
/-- A two-operand operation by type: the float form, or the integer form on unsigned lanes. -/
def lane2 (t : VTy) (f : Fmt → Nat → Nat → Nat × FFlags) (g : Int → Int → Int) (x y : Nat) : Nat × FFlags :=
  if floatTy t then f (vfmt t) x y else wrapLane t (g x y)
/-- A fused operation by type (R94). -/
def lane3 (t : VTy) (np nc : Bool) (g : Int → Int → Int → Int) (x y z : Nat) : Nat × FFlags :=
  if floatTy t then ffmaBits (vfmt t) np nc x y z else wrapLane t (g x y z)
/-- A special function of a float lane. -/
def lane1 (t : VTy) (f : Fmt → Nat → Nat × FFlags) (x : Nat) : Nat × FFlags := f (vfmt t) x

/-! ## Arithmetic (R202) -/

/-- VADD. -/
def execVadd (t : VTy) (d a b : VReg) (g : Guard) (s : State) : Out :=
  vlanes s (.vadd t d a b g) t d g 4 fun s i => lane2 t faddBits (· + ·) (vl s t a i) (vl s t b i)
/-- VSUB. -/
def execVsub (t : VTy) (d a b : VReg) (g : Guard) (s : State) : Out :=
  vlanes s (.vsub t d a b g) t d g 4 fun s i => lane2 t fsubBits (· - ·) (vl s t a i) (vl s t b i)
/-- VMUL. -/
def execVmul (t : VTy) (d a b : VReg) (g : Guard) (s : State) : Out :=
  vlanes s (.vmul t d a b g) t d g 4 fun s i => lane2 t fmulBits (· * ·) (vl s t a i) (vl s t b i)
/-- VFMA. -/
def execVfma (t : VTy) (d a b c : VReg) (g : Guard) (s : State) : Out :=
  vlanes s (.vfma t d a b c g) t d g 4 fun s i =>
    lane3 t false false (fun x y z => x * y + z) (vl s t a i) (vl s t b i) (vl s t c i)
/-- VFMS. -/
def execVfms (t : VTy) (d a b c : VReg) (g : Guard) (s : State) : Out :=
  vlanes s (.vfms t d a b c g) t d g 4 fun s i =>
    lane3 t false true (fun x y z => x * y - z) (vl s t a i) (vl s t b i) (vl s t c i)
/-- VFNMA. -/
def execVfnma (t : VTy) (d a b c : VReg) (g : Guard) (s : State) : Out :=
  vlanes s (.vfnma t d a b c g) t d g 4 fun s i =>
    lane3 t true false (fun x y z => z - x * y) (vl s t a i) (vl s t b i) (vl s t c i)

/-- The smaller of two lanes, or the larger when `big` (R81, R202). -/
def laneSel (t : VTy) (n big : Bool) (x y : Nat) : Nat :=
  if floatTy t then (if big then fmaxBits (vfmt t) x y else fminBits (vfmt t) x y)
  else
    let (p, q) := (laneInt t.bytes n x, laneInt t.bytes n y)
    if big then (if p < q then y else x) else (if q < p then y else x)
/-- VMIN. -/
def execVmin (t : VTy) (n : Bool) (d a b : VReg) (g : Guard) (s : State) : Out :=
  vlanes s (.vmin t n d a b g) t d g 4 fun s i => (laneSel t n false (vl s t a i) (vl s t b i), 0)
/-- VMAX. -/
def execVmax (t : VTy) (n : Bool) (d a b : VReg) (g : Guard) (s : State) : Out :=
  vlanes s (.vmax t n d a b g) t d g 4 fun s i => (laneSel t n true (vl s t a i) (vl s t b i), 0)
/-- VABS. -/
def execVabs (t : VTy) (d a : VReg) (g : Guard) (s : State) : Out :=
  vlanes s (.vabs t d a g) t d g 4 fun s i =>
    let x := vl s t a i
    if floatTy t then (fabsBits (vfmt t) x, 0) else wrapLane t (laneInt t.bytes false x).natAbs
/-- VNEG. -/
def execVneg (t : VTy) (d a : VReg) (g : Guard) (s : State) : Out :=
  vlanes s (.vneg t d a g) t d g 4 fun s i =>
    let x := vl s t a i
    if floatTy t then (fnegBits (vfmt t) x, 0) else wrapLane t (-(x : Int))
/-- An exact result clamped to the lane's signed range, or to its unsigned range (R83). -/
def satLane (t : VTy) (n : Bool) (x : Int) : Nat × FFlags :=
  (if n then satU (8 * t.bytes) x else satS (8 * t.bytes) x, 0)
/-- VADDSAT. -/
def execVaddsat (t : VTy) (n : Bool) (d a b : VReg) (g : Guard) (s : State) : Out :=
  vlanes s (.vaddsat t n d a b g) t d g 4 fun s i =>
    satLane t n (laneInt t.bytes n (vl s t a i) + laneInt t.bytes n (vl s t b i))
/-- VSUBSAT. -/
def execVsubsat (t : VTy) (n : Bool) (d a b : VReg) (g : Guard) (s : State) : Out :=
  vlanes s (.vsubsat t n d a b g) t d g 4 fun s i =>
    satLane t n (laneInt t.bytes n (vl s t a i) - laneInt t.bytes n (vl s t b i))
/-- VMULH. -/
def execVmulh (t : VTy) (n : Bool) (d a b : VReg) (g : Guard) (s : State) : Out :=
  vlanes s (.vmulh t n d a b g) t d g 4 fun s i =>
    wrapLane t (laneInt t.bytes n (vl s t a i) * laneInt t.bytes n (vl s t b i) / (2 ^ (8 * t.bytes) : Nat))

/-! ## Special functions (R203) -/

/-- VRCP. -/
def execVrcp (t : VTy) (d a : VReg) (g : Guard) (s : State) : Out :=
  vlanes s (.vrcp t d a g) t d g 12 fun s i => lane1 t rcpBits (vl s t a i)
/-- VRSQ. -/
def execVrsq (t : VTy) (d a : VReg) (g : Guard) (s : State) : Out :=
  vlanes s (.vrsq t d a g) t d g 12 fun s i => lane1 t rsqBits (vl s t a i)
/-- VEXP2. -/
def execVexp2 (t : VTy) (d a : VReg) (g : Guard) (s : State) : Out :=
  vlanes s (.vexp2 t d a g) t d g 12 fun s i => lane1 t exp2Bits (vl s t a i)
/-- VLOG2. -/
def execVlog2 (t : VTy) (d a : VReg) (g : Guard) (s : State) : Out :=
  vlanes s (.vlog2 t d a g) t d g 12 fun s i => lane1 t log2Bits (vl s t a i)
/-- VTANH. -/
def execVtanh (t : VTy) (d a : VReg) (g : Guard) (s : State) : Out :=
  vlanes s (.vtanh t d a g) t d g 12 fun s i => lane1 t tanhBits (vl s t a i)
/-- VSIGM. -/
def execVsigm (t : VTy) (d a : VReg) (g : Guard) (s : State) : Out :=
  vlanes s (.vsigm t d a g) t d g 12 fun s i => lane1 t sigmBits (vl s t a i)
/-- The latency bound of VSQRT and VDIV (R201). -/
def vslowL (t : VTy) : Nat := if t = .f64 then 28 else 14
/-- VSQRT. -/
def execVsqrt (t : VTy) (d a : VReg) (g : Guard) (s : State) : Out :=
  vlanes s (.vsqrt t d a g) t d g (vslowL t) fun s i => lane1 t fsqrtBits (vl s t a i)
/-- VDIV. -/
def execVdiv (t : VTy) (d a b : VReg) (g : Guard) (s : State) : Out :=
  vlanes s (.vdiv t d a b g) t d g (vslowL t) fun s i => fdivBits (vfmt t) (vl s t a i) (vl s t b i)

/-! ## Logic and shifts (R204, R205) -/

/-- VAND. -/
def execVand (t : VTy) (d a b : VReg) (g : Guard) (s : State) : Out :=
  vlanes s (.vand t d a b g) t d g 2 fun s i => (vl s t a i &&& vl s t b i, 0)
/-- VOR. -/
def execVor (t : VTy) (d a b : VReg) (g : Guard) (s : State) : Out :=
  vlanes s (.vor t d a b g) t d g 2 fun s i => (vl s t a i ||| vl s t b i, 0)
/-- VXOR. -/
def execVxor (t : VTy) (d a b : VReg) (g : Guard) (s : State) : Out :=
  vlanes s (.vxor t d a b g) t d g 2 fun s i => (vl s t a i ^^^ vl s t b i, 0)
/-- VNOT. -/
def execVnot (t : VTy) (d a : VReg) (g : Guard) (s : State) : Out :=
  vlanes s (.vnot t d a g) t d g 2 fun s i => (2 ^ (8 * t.bytes) - 1 - vl s t a i, 0)
/-- The shift amount of lane i (R205). -/
def vamt (s : State) (t : VTy) (y : VAmt) (i : Nat) : Nat :=
  match y with
  | .reg b => vl s t b i
  | .imm v => v.toNat
/-- VSHL. -/
def execVshl (t : VTy) (d a : VReg) (y : VAmt) (g : Guard) (s : State) : Out :=
  vlanes s (.vshl t d a y g) t d g 2 fun s i =>
    let n := vamt s t y i
    (if 8 * t.bytes ≤ n then 0 else (vl s t a i <<< n) % 2 ^ (8 * t.bytes), 0)
/-- VSHR. -/
def execVshr (t : VTy) (d a : VReg) (y : VAmt) (g : Guard) (s : State) : Out :=
  vlanes s (.vshr t d a y g) t d g 2 fun s i =>
    let n := vamt s t y i
    (if 8 * t.bytes ≤ n then 0 else vl s t a i >>> n, 0)
/-- VSAR. -/
def execVsar (t : VTy) (d a : VReg) (y : VAmt) (g : Guard) (s : State) : Out :=
  vlanes s (.vsar t d a y g) t d g 2 fun s i =>
    let n := Nat.min (vamt s t y i) (8 * t.bytes)
    wrapLane t (laneInt t.bytes false (vl s t a i) / (2 ^ n : Nat))

/-! ## Comparison, selection and predicates (R206-R209) -/

/-- The condition of VCMP on two lanes. -/
def vcond (c : FCond) (t : VTy) (n : Bool) (x y : Nat) : Bool :=
  if floatTy t then fcond c (unpack (vfmt t) x) (unpack (vfmt t) y)
  else vicond c (laneInt t.bytes n x) (laneInt t.bytes n y)
/-- VCMP (R206). -/
def execVcmp (c : FCond) (t : VTy) (n : Bool) (d : VpReg) (a b : VReg) (g : Guard) (s : State) : Out :=
  guarded s (.vcmp c t n d a b g) fun s =>
    s.stage (.vp d (guardPred t.bytes (s.rvp g.g) g.z (s.rvp d) fun i => vcond c t n (vl s t a i) (vl s t b i))) 2 0
/-- VSEL (R207). -/
def execVsel (t : VTy) (d a b : VReg) (sel : VpReg) (g : Guard) (s : State) : Out :=
  vlanes s (.vsel t d a b sel g) t d g 2 fun s i =>
    (if laneOn t.bytes (s.rvp sel) i then vl s t a i else vl s t b i, 0)
/-- A vector predicate, inverted when `n`. -/
def vpx (s : State) (a : VpReg) (n : Bool) : MaskW := if n then ~~~(s.rvp a) else s.rvp a
/-- VPAND (R208). -/
def execVpand (d a b : VpReg) (nb na : Bool) (s : State) : Out :=
  .next (s.stage (.vp d (vpx s a na &&& vpx s b nb)) 2 0)
/-- VPOR (R208). -/
def execVpor (d a b : VpReg) (nb na : Bool) (s : State) : Out :=
  .next (s.stage (.vp d (vpx s a na ||| vpx s b nb)) 2 0)
/-- VPNOT (R208). -/
def execVpnot (d a : VpReg) (s : State) : Out := .next (s.stage (.vp d (~~~(s.rvp a))) 2 0)
/-- The active lanes of a guard. -/
def activeLanes (s : State) (t : VTy) (g : VpReg) : List Nat := (List.range (512 / t.bytes)).filter (laneOn t.bytes (s.rvp g))
/-- VANY (R209). -/
def execVany (t : VTy) (d : PReg) (a g : VpReg) (s : State) : Out :=
  .next (s.stage (.p d ((activeLanes s t g).any (laneOn t.bytes (s.rvp a)))) 2 0)
/-- VALL (R209). -/
def execVall (t : VTy) (d : PReg) (a g : VpReg) (s : State) : Out :=
  .next (s.stage (.p d ((activeLanes s t g).all (laneOn t.bytes (s.rvp a)))) 2 0)
/-- VPCNT (R209). -/
def execVpcnt (t : VTy) (d : SReg) (a g : VpReg) (s : State) : Out :=
  landS s d (BitVec.ofNat 64 ((activeLanes s t g).filter (laneOn t.bytes (s.rvp a))).length) 2

/-! ## Conversions (R210, R211) -/

/-- Lanes of the wider of two types (R210). -/
def pairLanes (dst src : VTy) : Nat := 512 / Nat.max dst.bytes src.bytes
/-- The source lane that destination lane j takes, or none where the destination keeps its content (R210). -/
def srcLane (dst src : VTy) (part j : Nat) : Option Nat :=
  let n := pairLanes dst src
  if dst.bytes ≤ src.bytes then (if part * n ≤ j ∧ j < part * n + n then some (j - part * n) else none)
  else some (part * n + j)
/-- A conversion's destination: lanes that pair with a source lane follow the guard, the others are kept. -/
def convLanes (s : State) (i : Instr) (dst src : VTy) (part : Nat) (d : VReg) (g : Guard)
    (f : State → Nat → Nat → Nat × FFlags) : Out :=
  guarded s i fun s =>
    let old := s.rv d
    let k := s.rvp g.g
    let r := (List.range (512 / dst.bytes)).map fun j =>
      match srcLane dst src part j with
      | none => (lane dst.bytes old j, (0 : FFlags))
      | some x => if laneOn dst.bytes k j then f s x j else (if g.z then 0 else lane dst.bytes old j, 0)
    s.stage (.v d (pack dst.bytes (r.map (·.1)))) 4 (joinFlags (r.map (·.2)))

/-- One lane converted (R82, R210). -/
def vcvtLane (dst src : VTy) (n sat : Bool) (m : RMode) (x : Nat) : Nat × FFlags :=
  let w := 8 * dst.bytes
  if floatTy src then
    if floatTy dst then cvtFF (vfmt src) (vfmt dst) m x else cvtFI (vfmt src) (!n) w m x
  else
    let v := laneInt src.bytes n x
    if floatTy dst then cvtIF (vfmt dst) m v
    else (if sat then (if n then satU w v else satS w v) else wrapNat w v, 0)
/-- VCVT (R210). -/
def execVcvt (dst src : VTy) (n sat : Bool) (m : RMode) (part : Fin 8) (d a : VReg) (g : Guard) (s : State) : Out :=
  convLanes s (.vcvt dst src n sat m part d a g) dst src part.val d g fun s x _ =>
    vcvtLane dst src n sat m (vl s src a x)
/-- VQNT (R86, R211). -/
def execVqnt (dst src : VTy) (part : Fin 8) (d a b c : VReg) (g : Guard) (s : State) : Out :=
  convLanes s (.vqnt dst src part d a b c g) dst src part.val d g fun s x j =>
    quant (vfmt src) (8 * dst.bytes) (vl s src a x) (vl s src b x) (laneInt dst.bytes false (vl s dst c j))
/-- VDQNT (R86, R211). -/
def execVdqnt (dst src : VTy) (part : Fin 8) (d a b c : VReg) (g : Guard) (s : State) : Out :=
  convLanes s (.vdqnt dst src part d a b c g) dst src part.val d g fun s x j =>
    dequant (vfmt dst) (vfmt dst) (vl s dst b j)
      (intVal (laneInt src.bytes false (vl s src a x) - laneInt src.bytes false (vl s src c x)))

/-! ## Movement and permutation (R212-R214) -/

/-- VMOV (R212). -/
def execVmov (t : VTy) (d a : VReg) (g : Guard) (s : State) : Out :=
  vlanes s (.vmov t d a g) t d g 2 fun s i => (vl s t a i, 0)
/-- VBCAST (R212). -/
def execVbcast (t : VTy) (d : VReg) (x : SReg) (g : Guard) (s : State) : Out :=
  vlanes s (.vbcast t d x g) t d g 2 fun s _ => ((s.rs x).toNat % 2 ^ (8 * t.bytes), 0)
/-- A lane index or amount (R213, R214). -/
def idxVal (s : State) (t : VTy) (i : Idx) : Nat :=
  match i with
  | .reg x => (s.rs x).toNat % (512 / t.bytes)
  | .imm v => v.toNat
/-- VEXTR (R213). -/
def execVextr (t : VTy) (n : Bool) (d : SReg) (a : VReg) (i : Idx) (s : State) : Out :=
  guarded s (.vextr t n d a i) fun s =>
    let x := vl s t a (idxVal s t i)
    s.stage (.s d (if floatTy t || n then BitVec.ofNat 64 x else BitVec.ofInt 64 (laneInt t.bytes false x))) 2 0
/-- VINSR (R213). -/
def execVinsr (t : VTy) (d : VReg) (x : SReg) (i : Idx) (s : State) : Out :=
  vwhole s (.vinsr t d x i) d 2 fun s =>
    let j := idxVal s t i
    (pack t.bytes ((List.range (512 / t.bytes)).map fun k =>
      if k = j then (s.rs x).toNat else lane t.bytes (s.rv d) k), 0)
/-- The index that lane i of VPERM takes (R214). -/
def permIdx (s : State) (t : VTy) (b c : VReg) (i : Nat) : Nat :=
  if t.bytes = 1 then (if i < 256 then lane 2 (s.rv b) i else lane 2 (s.rv c) (i - 256)) else vl s t b i
/-- VPERM (R214). -/
def execVperm (t : VTy) (d a b c : VReg) (g : Guard) (s : State) : Out :=
  vlanes s (.vperm t d a b c g) t d g 4 fun s i => (vl s t a (permIdx s t b c i % (512 / t.bytes)), 0)
/-- The lane that VSHUF gives lane i (R214). -/
def shufLane (s : State) (t : VTy) (p : Shuf) (a b : VReg) (i : Nat) : Nat :=
  let n := 512 / t.bytes
  match p with
  | .ziplo => if i % 2 = 0 then vl s t a (i / 2) else vl s t b (i / 2)
  | .ziphi => if i % 2 = 0 then vl s t a (n / 2 + i / 2) else vl s t b (n / 2 + i / 2)
  | .unzeven => if i < n / 2 then vl s t a (2 * i) else vl s t b (2 * i - n)
  | .unzodd => if i < n / 2 then vl s t a (2 * i + 1) else vl s t b (2 * i - n + 1)
/-- VSHUF (R214). -/
def execVshuf (t : VTy) (p : Shuf) (d a b : VReg) (g : Guard) (s : State) : Out :=
  vlanes s (.vshuf t p d a b g) t d g 4 fun s i => (shufLane s t p a b i, 0)
/-- VROT (R214). -/
def execVrot (t : VTy) (d a : VReg) (x : Idx) (g : Guard) (s : State) : Out :=
  vlanes s (.vrot t d a x g) t d g 4 fun s i => (vl s t a ((i + idxVal s t x) % (512 / t.bytes)), 0)
/-- VIOTA (R212). -/
def execViota (t : VTy) (d : VReg) (x : SReg) (g : Guard) (s : State) : Out :=
  vlanes s (.viota t d x g) t d g 2 fun s i => (((s.rs x).toNat + i) % 2 ^ (8 * t.bytes), 0)

/-! ## Reductions, scans and selection (R91, R92, R215-R217) -/

/-- The tree format of a float type (R91). -/
def treeFmt (t : VTy) : Fmt := if t = .f64 then .f64 else .f32
/-- Levels of the tree: log2 of the lane count. -/
def treeDepth (t : VTy) : Nat := Nat.log2 (512 / t.bytes)
/-- A low result of `w` bytes in a register of zeros (R215). -/
def lowVec (x : Nat) : VecW := BitVec.ofNat 4096 x
/-- A float sum over the guarded lanes, with the leaves' flags (R91). -/
def treeOver (s : State) (t : VTy) (g : VpReg) (leaf : Nat → Nat × FFlags) : Nat × FFlags :=
  let F := treeFmt t
  let ls := (List.range (512 / t.bytes)).map fun i =>
    if laneOn t.bytes (s.rvp g) i then leaf i else (F.sign true, (0 : FFlags))
  let r := treeSum F (treeDepth t) (ls.map (·.1))
  (r.1, r.2 ||| joinFlags (ls.map (·.2)))
/-- An integer sum over the guarded lanes, wrapped to i32 (R91). -/
def intOver (s : State) (t : VTy) (g : VpReg) (leaf : Nat → Int) : Nat :=
  wrapNat 32 ((activeLanes s t g).foldl (fun n i => n + leaf i) 0)
/-- VRSUM (R215). -/
def execVrsum (t : VTy) (n : Bool) (d a : VReg) (g : VpReg) (s : State) : Out :=
  vwhole s (.vrsum t n d a g) d 10 fun s =>
    if floatTy t then
      let r := treeOver s t g fun i => ((cvtFF (vfmt t) (treeFmt t) .rne (vl s t a i)).1, 0)
      (lowVec r.1, r.2)
    else (lowVec (intOver s t g fun i => laneInt t.bytes n (vl s t a i)), 0)
/-- VDOT (R215). -/
def execVdot (t : VTy) (n : Bool) (d a b : VReg) (g : VpReg) (s : State) : Out :=
  vwhole s (.vdot t n d a b g) d 10 fun s =>
    if floatTy t then
      let F := vfmt t
      let r := treeOver s t g fun i =>
        finish (treeFmt t) .rne (mulV (unpack F (vl s t a i)) (unpack F (vl s t b i)))
      (lowVec r.1, r.2)
    else (lowVec (intOver s t g fun i => laneInt t.bytes n (vl s t a i) * laneInt t.bytes n (vl s t b i)), 0)

/-- The least lane of an integer range, or its greatest when `big`. -/
def rangeEnd (t : VTy) (n big : Bool) : Nat :=
  let w := 8 * t.bytes
  if n then (if big then 2 ^ w - 1 else 0) else (if big then 2 ^ (w - 1) - 1 else 2 ^ (w - 1))
/-- The largest active lane, or the smallest when `big` is false (R81, R215). -/
def extreme (s : State) (t : VTy) (n big : Bool) (a : VReg) (g : VpReg) : Nat :=
  let z := if floatTy t then (vfmt t).nan else rangeEnd t n (!big)
  (activeLanes s t g).foldl (fun m i => laneSel t n big m (vl s t a i)) z
/-- VRMAX (R215). -/
def execVrmax (t : VTy) (n : Bool) (d a : VReg) (g : VpReg) (s : State) : Out :=
  vwhole s (.vrmax t n d a g) d 10 fun s => (lowVec (extreme s t n true a g), 0)
/-- VRMIN (R215). -/
def execVrmin (t : VTy) (n : Bool) (d a : VReg) (g : VpReg) (s : State) : Out :=
  vwhole s (.vrmin t n d a g) d 10 fun s => (lowVec (extreme s t n false a g), 0)
/-- The active lanes that are not NaN. -/
def candLanes (s : State) (t : VTy) (a : VReg) (g : VpReg) : List Nat :=
  (activeLanes s t g).filter fun i => !floatTy t || unpack (vfmt t) (vl s t a i) ≠ .nan
/-- The index that stands for no lane. -/
def noLane : Nat := 0xFFFFFFFF
/-- VARGMAX (R215). -/
def execVargmax (t : VTy) (n : Bool) (d a : VReg) (g : VpReg) (s : State) : Out :=
  vwhole s (.vargmax t n d a g) d 10 fun s =>
    (lowVec (((candLanes s t a g).find? fun i => vl s t a i = extreme s t n true a g).getD noLane), 0)

/-- The running float sum of VSCAN: each lane's written value, from the unrounded tree value (R92, R216). -/
def scanGo (t : VTy) (leaf : Nat → Nat) : Nat → Nat → Option Nat → List (Nat × FFlags)
  | 0, _, _ => []
  | k + 1, i, run =>
    let F := treeFmt t
    let (x, f) := match run with
      | none => (leaf i, (0 : FFlags))
      | some r => faddBits F r (leaf i)
    let (y, h) := if t.bytes = 2 then cvtFF F (vfmt t) .rne x else (x, 0)
    (y, f ||| h) :: scanGo t leaf k (i + 1) (some x)
/-- The running integer sums of VSCAN. -/
def scanInt (leaf : Nat → Nat) : Nat → Nat → Nat → List Nat
  | 0, _, _ => []
  | k + 1, i, run => (run + leaf i) :: scanInt leaf k (i + 1) (run + leaf i)
/-- VSCAN (R216). -/
def execVscan (t : VTy) (d a : VReg) (g : VpReg) (s : State) : Out :=
  vwhole s (.vscan t d a g) d 12 fun s =>
    let n := 512 / t.bytes
    let on (i : Nat) : Bool := laneOn t.bytes (s.rvp g) i
    if floatTy t then
      let F := treeFmt t
      let r := scanGo t (fun i => if on i then (cvtFF (vfmt t) F .rne (vl s t a i)).1 else F.sign true) n 0 none
      (pack t.bytes (r.map (·.1)), joinFlags (r.map (·.2)))
    else (pack t.bytes (scanInt (fun i => if on i then vl s t a i else 0) n 0 0), 0)

/-- Whether lane value x is above lane value y (R217). -/
def laneGt (t : VTy) (n : Bool) (x y : Nat) : Bool :=
  if floatTy t then ltZ (unpack (vfmt t) y) (unpack (vfmt t) x) else laneInt t.bytes n y < laneInt t.bytes n x
/-- The first k of the candidates, largest first and equal ones by index. -/
def topGo (t : VTy) (n : Bool) (v : Nat → Nat) : Nat → List Nat → List Nat
  | 0, _ => []
  | _, [] => []
  | k + 1, c :: cs =>
    let b := cs.foldl (fun b i => if laneGt t n (v i) (v b) then i else b) c
    b :: topGo t n v k ((c :: cs).filter (· ≠ b))
/-- VTOPK (R217). -/
def execVtopk (t : VTy) (n : Bool) (k : BitVec 4) (d c a : VReg) (g : VpReg) (s : State) : Out :=
  guarded s (.vtopk t n k d c a g) fun s =>
    let top := topGo t n (vl s t a) k.toNat (candLanes s t a g)
    let fill := k.toNat - top.length
    let z := if floatTy t then (vfmt t).nan else rangeEnd t n false
    let vs := top.map (vl s t a) ++ List.replicate fill z
    let is := top ++ List.replicate fill noLane
    (s.stage (.v d (pack t.bytes vs)) 16 0).stage (.v c (pack 4 is)) 16 0

/-! ## Accumulator transfers (R218, R219) -/

/-- The bit of a tile at which a row pair starts: rows of n ÷ 2 elements, n being the lane count. -/
def pairBit (rp : BitVec 5) : Nat := rp.toNat * 4096
/-- VFROMACC (R218). -/
def execVfromacc (t : VTy) (d : VReg) (a : AccReg) (rp : BitVec 5) (g : Guard) (s : State) : Out :=
  guarded s (.vfromacc t d a rp g) fun s =>
    let x : VecW := bits (s.racc a) (pairBit rp) 4096
    let r := guardMap t.bytes (s.rvp g.g) g.z (s.rv d) fun i => (lane t.bytes x i, 0)
    s.stageWith (.v d r.1) 6 0 false (some a)
/-- VTOACC (R218). -/
def execVtoacc (t : VTy) (d : AccReg) (a : VReg) (rp : BitVec 5) (g : Guard) (s : State) : Out :=
  guarded s (.vtoacc t d a rp g) fun s =>
    let m := bitMaskOf (byteMask t.bytes (s.rvp g.g))
    let x := s.rv a &&& m
    let k : VecW := if g.z then BitVec.allOnes 4096 else m
    s.stage (.acc d ((x.setWidth 131072) <<< pairBit rp) ((k.setWidth 131072) <<< pairBit rp)) 6 0

/-- VNOP does nothing (R199). -/
def execVnop (s : State) : Out := .next s

end Sys2Proof.Machine
end

