-- ==== Sys2Proof/Machine/Memory.lean ====
section
/-! DEFINITION. Scalar and vector memory instructions, atomics, barriers and fences (R220-R241). An issued access is
performed later, by the events of Core events. -/

namespace Sys2Proof.Machine
open Sys2Proof

/-! ## Scalar loads and stores (R223-R225) -/

/-- LD (R223). -/
def execLd (sz : MSize) (n : Bool) (d a : SReg) (disp : BitVec 24) (land : BitVec 10) (s : State) : Out :=
  let i := Instr.ld sz n d a disp land
  guarded s i fun s => s.addAcc (.load n none d) (wants s i) land.toNat
/-- ST (R223). -/
def execSt (sz : MSize) (b a : SReg) (disp : BitVec 24) (s : State) : Out :=
  let i := Instr.st sz b a disp
  guarded s i fun s => s.addAcc (.store none (s.rs b)) (wants s i) 0
/-- LDFE (R114, R224). -/
def execLdfe (q : FeLoad) (sz : MSize) (n : Bool) (d a : SReg) (disp : BitVec 24) (land : BitVec 10) (s : State) : Out :=
  let i := Instr.ldfe q sz n d a disp land
  guarded s i fun s => s.addAcc (.load n (some q) d) (wants s i) land.toNat
/-- STFE (R114, R115, R224). -/
def execStfe (q : FeStore) (sz : MSize) (b a : SReg) (disp : BitVec 24) (s : State) : Out :=
  let i := Instr.stfe q sz b a disp
  guarded s i fun s =>
    let op : AccOp := .store (some q) (s.rs b)
    if q = .wf then s.addWf op (wants s i) else s.addAcc op (wants s i) 0

/-- LDG: the value is fixed when its bundle issues, and arrives as a load's does (R220, R225). -/
def execLdg (sz : MSize) (n : Bool) (d a b : SReg) (disp : BitVec 24) (land : BitVec 10) (s : State) : Out :=
  let i := Instr.ldg sz n d a b disp land
  guarded s i fun s =>
    match piecesOf s (wants s i) with
    | [⟨_, _, .dev pa, len⟩] =>
      let g := (s.rs b).toNat % 64
      let bad := match genPoison s g pa with | some (c, e) => c * 65536 + e | none => 0
      let x := extend n len (leNat ((List.range len).map fun j => genByte s g (pa + j)))
      s.addAcc (.ldg d x bad g) (wants s i) land.toNat
    | _ => s

/-- FENCE: the context's next bundle waits for it (R232). -/
def execFence (sc : Scope) (s : State) : Out :=
  guarded s (.fence sc) fun s => s.setMe { s.me with fence := some (s.nextOrd, wideScope sc) }

/-- Whether PREF would raise something at an address, or meets a drain (R108, R233). -/
def prefFails (s : State) (va : Nat) : Bool :=
  (addrCode s va 1 false false).isSome || (footCode s va 1 true false false).isSome
/-- PREF brings the line of its address to the grove's leased cache, where the leased cache is named, a held translation leads to
device memory and nothing there holds it. What L2 holds is no state of this model. It changes no value, takes no place in the
memory order and raises nothing (R233). -/
def execPref (l2 : Bool) (a : SReg) (disp : BitVec 24) (s : State) : Out :=
  let va := (s.ea a disp).toNat
  .next (match resolve s va 1 true false with
    | .ok (.dev pa) =>
      let p : Place := .dev pa
      if l2 || prefFails s va || p.hole 1 || drainBlocks s s.g p || placeWaits s p || (poisonOf s p).isSome then s
      else enterLease (loadLine (countLink s pa) s.me.lts.toNat pa).1 p
    | _ => s)

/-! ## Atomics (R234-R237) -/

/-- An atomic issued; a destination of s0 returns nothing (R235). -/
def atomicOp (s : State) (i : Instr) (k : AtomKind) (d b : SReg) (o : AtomOp) : Out :=
  guarded s i fun s =>
    let n := if k = .cas then s.rs d else 0
    s.addAcc (.atomic k o.ord o.scope (s.rs b) n (if d = 0 then none else some d) false) (wants s i) o.land.toNat
/-- AADD. -/
def execAadd (d a b : SReg) (o : AtomOp) (s : State) : Out := atomicOp s (.aadd d a b o) .add d b o
/-- AMIN. -/
def execAmin (d a b : SReg) (o : AtomOp) (s : State) : Out := atomicOp s (.amin d a b o) .min d b o
/-- AMAX. -/
def execAmax (d a b : SReg) (o : AtomOp) (s : State) : Out := atomicOp s (.amax d a b o) .max d b o
/-- AMINN. -/
def execAminn (d a b : SReg) (o : AtomOp) (s : State) : Out := atomicOp s (.aminn d a b o) .minn d b o
/-- AMAXN. -/
def execAmaxn (d a b : SReg) (o : AtomOp) (s : State) : Out := atomicOp s (.amaxn d a b o) .maxn d b o
/-- AAND. -/
def execAand (d a b : SReg) (o : AtomOp) (s : State) : Out := atomicOp s (.aand d a b o) .and d b o
/-- AOR. -/
def execAor (d a b : SReg) (o : AtomOp) (s : State) : Out := atomicOp s (.aor d a b o) .or d b o
/-- AXOR. -/
def execAxor (d a b : SReg) (o : AtomOp) (s : State) : Out := atomicOp s (.axor d a b o) .xor d b o
/-- AXCHG. -/
def execAxchg (d a b : SReg) (o : AtomOp) (s : State) : Out := atomicOp s (.axchg d a b o) .xchg d b o
/-- ACAS. -/
def execAcas (d a b : SReg) (o : AtomOp) (s : State) : Out := atomicOp s (.acas d a b o) .cas d b o
/-- AFADD. -/
def execAfadd (d a b : SReg) (o : AtomOp) (s : State) : Out := atomicOp s (.afadd d a b o) .fadd d b o

/-- The read-modify-write of a RED (R236). -/
def redKind : RedOp → AtomKind
  | .add => .add | .min => .min | .max => .max | .minn => .minn | .maxn => .maxn | .and => .and | .or => .or
  | .xor => .xor | .fadd => .fadd
/-- RED (R236). -/
def execRed (op : RedOp) (a b : SReg) (o : AtomOp) (s : State) : Out :=
  let i := Instr.red op a b o
  guarded s i fun s => s.addAcc (.atomic (redKind op) o.ord o.scope (s.rs b) 0 none true) (wants s i) 0

/-! ## Barriers (R239-R241) -/

/-- ARRIVE. -/
def execArrive (sc : Scope) (d a : SReg) (disp : BitVec 22) (land : BitVec 10) (s : State) : Out :=
  let i := Instr.arrive sc d a disp land
  guarded s i fun s => s.addAcc (.arrive sc d) (wants s i) land.toNat
/-- WAITB. -/
def execWaitb (sc : Scope) (d a b : SReg) (disp : BitVec 22) (land : BitVec 10) (s : State) : Out :=
  let i := Instr.waitb sc d a b disp land
  guarded s i fun s => s.addAcc (.waitb sc (bits (s.rs b) 0 32) d) (wants s i) land.toNat
/-- WAITB.try. -/
def execWaitbTry (sc : Scope) (d a b : SReg) (disp : BitVec 22) (land : BitVec 10) (s : State) : Out :=
  let i := Instr.waitbTry sc d a b disp land
  guarded s i fun s => s.addAcc (.waitbTry sc (bits (s.rs b) 0 32) d) (wants s i) land.toNat
/-- BINIT. -/
def execBinit (sc : Scope) (a b : SReg) (disp : BitVec 22) (s : State) : Out :=
  let i := Instr.binit sc a b disp
  guarded s i fun s =>
    s.addAcc (.binit sc ((bits (s.rs b) 32 17).setWidth 32) (bits (s.rs b) 0 32)) (wants s i) 0

/-! ## Vector loads and stores (R226-R231) -/

/-- What a vector load leaves in its inactive bytes (R198). -/
def loadBase (s : State) (d : VReg) (g : Guard) : VecW := if g.z then 0 else s.rv d
/-- The bytes of the active lanes of a guard. -/
def loadMask (s : State) (t : VTy) (g : VpReg) : MaskW := byteMask t.bytes (s.rvp g)
/-- A vector load issued. -/
def vloadOp (s : State) (i : Instr) (q : Option FeLoad) (t : VTy) (d : VReg) (m : VMem) (g : Guard) : Out :=
  guarded s i fun s => s.addVload q d (loadBase s d g) (loadMask s t g.g) (wants s i) m.land.toNat
/-- A vector store issued; with no active lane it accesses nothing (R228). -/
def vstoreOp (s : State) (i : Instr) (q : Option FeStore) (t : VTy) (a : VReg) (g : VpReg) : Out :=
  guarded s i fun s =>
    let ws := wants s i
    if ws.isEmpty then s else s.addAcc (.vstore q (s.rv a) (loadMask s t g)) ws 0

/-- VLD. -/
def execVld (t : VTy) (d : VReg) (m : VMem) (g : Guard) (s : State) : Out := vloadOp s (.vld t d m g) none t d m g
/-- VST. -/
def execVst (t : VTy) (a : VReg) (m : VMem) (g : VpReg) (s : State) : Out := vstoreOp s (.vst t a m g) none t a g
/-- VLDFE. -/
def execVldfe (q : FeLoad) (t : VTy) (d : VReg) (m : VMem) (g : Guard) (s : State) : Out :=
  vloadOp s (.vldfe q t d m g) (some q) t d m g
/-- VSTFE. -/
def execVstfe (q : FeStore) (t : VTy) (a : VReg) (m : VMem) (g : VpReg) (s : State) : Out :=
  let i := Instr.vstfe q t a m g
  if q = .wf then guarded s i fun s => s.addWf (.vstore (some q) (s.rv a) (loadMask s t g)) (wants s i)
  else vstoreOp s i (some q) t a g
/-- VLDW: each granule is read as .w reads it (R231). -/
def execVldw (t : VTy) (d : VReg) (k : Fin 4) (m : VMem) (g : Guard) (s : State) : Out :=
  vloadOp s (.vldw t d k m g) (some .w) t d m g
/-- VLDS. -/
def execVlds (t : VTy) (d : VReg) (c : Fin 32) (m : VMem) (g : Guard) (s : State) : Out :=
  vloadOp s (.vlds t d c m g) none t d m g
/-- VSTS. -/
def execVsts (t : VTy) (a : VReg) (c : Fin 32) (m : VMem) (g : VpReg) (s : State) : Out :=
  vstoreOp s (.vsts t a c m g) none t a g
/-- VLDX. -/
def execVldx (t : VTy) (d b : VReg) (m : VMem) (g : Guard) (s : State) : Out := vloadOp s (.vldx t d b m g) none t d m g

end Sys2Proof.Machine
end

