-- ==== Sys2Proof/Machine/Header.lean ====
section
/-! DEFINITION. Sequencing in the header: transfers, calls, hardware loops, END and YIELD (R160-R162, R190-R196, R30). -/

namespace Sys2Proof.Machine
open Sys2Proof

/-- The machine seen from the core whose sequencing decision a header follows: rank 0 of a gang (R196). -/
def leadState (s : State) : State := if s.me.gang then { s with core := s.g * 8 } else s

/-- A header's condition: p[CP] XOR CN (R160). -/
def condOf (s : State) (c : HCond) : Bool := xor ((leadState s).rp c.cp) c.cn

/-- A transfer bundle's effect: two delay bundles follow, and the transfer if its condition held (R161, R190). -/
def transferTo (s : State) (taken : Bool) (t : W32) : State :=
  s.setMe { s.me with delay := 2, target := if taken then some t else none }

/-- JT. -/
def execJt (c : HCond) (t : BReg) (s : State) : Out := .next (transferTo s (condOf s c) ((leadState s).rb t))

/-- The address that follows the second delay bundle of the bundle being issued (R160). -/
def returnAddr (s : State) : W32 :=
  match imageAt s s.core s.ctx with
  | some i => afterBundle i (afterBundle i (afterBundle i s.here))
  | none => s.here + 3

/-- CALL: s63 is written at issue (R192). -/
def execCall (c : HCond) (t : BReg) (s : State) : Out :=
  let taken := condOf s c
  let s' := transferTo s taken ((leadState s).rb t)
  .next (if taken then s'.setMe { s'.me with s := s'.me.s.set 63 ((returnAddr s).setWidth 64) } else s')

/-- RET (R192). -/
def execRet (c : HCond) (s : State) : Out := .next (transferTo s (condOf s c) (bits ((leadState s).rs 63) 0 32))

/-- LOOP, header form: every rank decrements when the decision is to transfer (R193, R196). -/
def execLoop (c : HCond) (l : LReg) (t : BReg) (s : State) : Out :=
  let taken := condOf s c && (leadState s).rlc l ≠ 0
  let s' := transferTo s taken ((leadState s).rb t)
  .next (if taken then s'.setMe { s'.me with lc := s'.me.lc.set l.val (s.rlc l - 1) } else s')

/-- Bindings unbound: at once where no operation is under way, else when the last completes (R279). -/
def unbindAll (s : State) : State :=
  let s := s.setMe { s.me with fb := s.me.fb.map fun b => if b.st = .bound then { b with st := .leaving } else b }
  settleBindings s s.core s.ctx

/-- The windows of a save routine closed at its END (R370). -/
def closeWindows (k : Ctx) : Ctx :=
  { k with
    windows := Vector.replicate 4 Window.reset
    jobs := k.jobs.map fun j => match j.op with | .wopen .. | .wadv .. => { j with stop := true } | _ => j }

/-- END: the context issues nothing further, a pending transfer is discarded, bindings are unbound (R194, R279). The END
of a save routine also closes the windows (R370). -/
def execEndTask (s : State) : Out :=
  let k := s.me
  let k := { k with st := .committing, ready := false, delay := 0, target := none, claim := none }
  let s := unbindAll (s.setMe (if k.saving then closeWindows k else k))
  let s := match k.task.bind fun n => (s.task? n).map fun t => (n, t) with
    | some (n, t) => s.setTask n { t with st := if k.saving then t.st else .committing, endTime := s.time.toNat }
    | none => s
  .next (endRun s s.core s.ctx)

/-- YIELD: the run ends; the context is ready again unless its bundle's yield-wait job is outstanding (R30, R31). A gang
becomes ready again through GANG_RESUME (R39). -/
def execYieldRun (s : State) : Out :=
  let k := s.me
  if k.gang then
    let cs := mates s s.core s.ctx
    let s := cs.foldl (fun s c => s.setCtx c s.ctx { s.ctxAt c s.ctx with ready := false }) s
    .next (gangYield s s.g s.ctx)
  else
    .next (endRun (s.setMe { k with ready := k.ywJob.isNone, since := s.myCore.cyc }) s.core s.ctx)

end Sys2Proof.Machine
end

