-- ==== Sys2Proof/Machine/System.lean ====
section
/-! DEFINITION. Requests to the task unit, the watch table, the generation controller, the handle directory, the pager
and sapwood; system registers, TRAP, TABORT, PHASE and HALT (R282-R316). -/

namespace Sys2Proof.Machine
open Sys2Proof

/-- A request with up to two source values. -/
def request (s : State) (i : Instr) (x y : State → W64) (land : BitVec 10) : Out :=
  guarded s i fun s => s.addReq i (x s) (y s) [] land.toNat
/-- No second operand. -/
def noOperand (_ : State) : W64 := 0

/-! ## Tasks (R288-R291) -/

/-- SPAWN (R288). -/
def execSpawn (d a : SReg) (land : BitVec 10) (s : State) : Out :=
  let i := Instr.spawn d a land
  guarded s i fun s => s.addReq i 0 0 (s.blk a 4) land.toNat
/-- SPAWNK (R288). -/
def execSpawnk (d a b : SReg) (land : BitVec 10) (s : State) : Out :=
  let i := Instr.spawnk d a b land
  guarded s i fun s => s.addReq i 0 (s.rs b) (s.blk a 4) land.toNat
/-- TABORT: its bundle takes effect, and the task fails (R290). -/
def execTabort (code : BitVec 15) (s : State) : Out :=
  guarded s (.tabort code) fun s => raiseTrap s ⟨9, 9, 0x8000 + code.toNat, 0, 0, 0, 0⟩
/-- TSTAT (R291). -/
def execTstat (d a : SReg) (land : BitVec 10) (s : State) : Out := request s (.tstat d a land) (·.rs a) noOperand land

/-! ## Watches (R292-R295) -/

/-- WATCH: its descriptor is read by four accesses of 16 bytes, then it is answered (R293). -/
def execWatch (d a : SReg) (disp : BitVec 24) (land : BitVec 10) (s : State) : Out :=
  let i := Instr.watch d a disp land
  guarded s i fun s => (s.addAcc (.watchRead 0) (wants s i) land.toNat).addReq i 0 0 [] land.toNat
/-- UNWATCH (R294). -/
def execUnwatch (d a : SReg) (land : BitVec 10) (s : State) : Out :=
  request s (.unwatch d a land) (·.rs a) noOperand land
/-- WSTAT (R295). -/
def execWstat (d a : SReg) (land : BitVec 10) (s : State) : Out := request s (.wstat d a land) (·.rs a) noOperand land

/-! ## Generations (R296-R300) -/

/-- SNAP (R296). -/
def execSnap (d : SReg) (land : BitVec 10) (s : State) : Out := request s (.snap d land) noOperand noOperand land
/-- GDROP (R297). -/
def execGdrop (d a : SReg) (land : BitVec 10) (s : State) : Out := request s (.gdrop d a land) (·.rs a) noOperand land
/-- GROLL: its job writes nothing before the request has been answered OK (R298). -/
def execGroll (d a b : SReg) (land : BitVec 10) (s : State) : Out :=
  let i := Instr.groll d a b land
  guarded s i fun s => (s.addJob i 0 (s.rs a :: s.blk b 2) false true).addReq i (s.rs a) (s.rs b) [] land.toNat
/-- CKPT (R299). -/
def execCkpt (d a b : SReg) (land : BitVec 10) (s : State) : Out := request s (.ckpt d a b land) (·.rs a) (·.rs b) land
/-- GSTAT (R300). -/
def execGstat (d a : SReg) (land : BitVec 10) (s : State) : Out := request s (.gstat d a land) (·.rs a) noOperand land

/-! ## State handles (R301-R310) -/

/-- HNEW (R302). -/
def execHnew (d a : SReg) (land : BitVec 10) (s : State) : Out := request s (.hnew d a land) (·.rs a) noOperand land
/-- HFREE (R303). -/
def execHfree (d a : SReg) (land : BitVec 10) (s : State) : Out := request s (.hfree d a land) (·.rs a) noOperand land
/-- HFORK (R304, R305). -/
def execHfork (d a : SReg) (land : BitVec 10) (s : State) : Out :=
  let i := Instr.hfork d a land
  guarded s i fun s => s.addHandle i (s.rs a) [] (s.rs a) 0 [] land.toNat
/-- HAVG (R304, R307). -/
def execHavg (d a b : SReg) (n : Fin 8) (land : BitVec 10) (s : State) : Out :=
  let i := Instr.havg d a b n land
  guarded s i fun s =>
    let hs := s.blk a (n.val + 1)
    s.addHandle i (s.rs b) hs (s.rs a) (s.rs b) hs land.toNat
/-- HSNAP (R304, R305). -/
def execHsnap (d a : SReg) (land : BitVec 10) (s : State) : Out :=
  let i := Instr.hsnap d a land
  guarded s i fun s => s.addHandle i (s.rs a) [] (s.rs a) 0 [] land.toNat
/-- HROLL (R304, R306). -/
def execHroll (d a b : SReg) (land : BitVec 10) (s : State) : Out :=
  let i := Instr.hroll d a b land
  guarded s i fun s => s.addHandle i (s.rs a) [s.rs b] (s.rs a) (s.rs b) [] land.toNat
/-- HMIG (R308). -/
def execHmig (d a b : SReg) (land : BitVec 10) (s : State) : Out := request s (.hmig d a b land) (·.rs a) (·.rs b) land
/-- HPIN (R309). -/
def execHpin (d a : SReg) (land : BitVec 10) (s : State) : Out := request s (.hpin d a land) (·.rs a) noOperand land
/-- HUNPIN (R309). -/
def execHunpin (d a : SReg) (land : BitVec 10) (s : State) : Out :=
  request s (.hunpin d a land) (·.rs a) noOperand land
/-- HSTAT (R310). -/
def execHstat (d a : SReg) (land : BitVec 10) (s : State) : Out := request s (.hstat d a land) (·.rs a) noOperand land

/-! ## Pager answers, system registers and the rest (R311-R316) -/

/-- PGREADY (R311). -/
def execPgready (d a b : SReg) (land : BitVec 10) (s : State) : Out :=
  request s (.pgready d a b land) (·.rs a) (·.rs b) land

/-- The value of a system register to the context that acts (R58, R59, R63, R64). Core k of a gang issues SYS.SKEW × k
cycles after rank 0 (R38). -/
def sysValue (s : State) (n : Nat) : W64 :=
  let k := s.me
  match n with
  | 0x000 => BitVec.ofNat 64 k.rank
  | 0x001 => BitVec.ofNat 64 k.skew
  | 0x002 => BitVec.ofNat 64 (s.ctx * 65536 + s.core)
  | 0x008 => k.heapBase
  | 0x009 => k.heapLimit
  | 0x00A => k.heapOff
  | 0x010 => k.fpflags.setWidth 64
  | 0x011 => s.time + (if k.gang then BitVec.ofNat 64 (k.skew * k.rank) else 0)
  | 0x012 => k.lts
  | 0x013 => k.frzctx
  | 0x014 => s.myCore.frzcore
  | 0x018 => k.taddr.setWidth 64
  | 0x019 => k.tcause.setWidth 64
  | 0x01A => k.txfer
  | 0x020 => s.myCore.ageLimit.setWidth 64
  | 0x021 => s.myCore.svcShare.setWidth 64
  | 0x022 => s.myGrove.retry.setWidth 64
  | 0x023 => (s.dieAt s.die).phase.setWidth 64
  | 0x024 => s.myGrove.hang.setWidth 64
  | _ => 0

/-- RDSYS (R312). -/
def execRdsys (d : SReg) (num : BitVec 12) (s : State) : Out :=
  guarded s (.rdsys d num) fun s => s.stage (.s d (sysValue s num.toNat)) 2 0
/-- WRSYS (R312). -/
def execWrsys (a : SReg) (num : BitVec 12) (s : State) : Out :=
  guarded s (.wrsys a num) fun s => s.stage (.sys num.toNat (s.rs a)) 2 0

/-- TRAP: raised by the checks of its bundle, no slot of which takes effect (R313). -/
def execTrap (code : BitVec 15) (s : State) : Out := guarded s (.trap code) fun s => s

/-- SVC (R314). -/
def execSvc (d a : SReg) (service : BitVec 16) (land : BitVec 10) (s : State) : Out :=
  let i := Instr.svc d a service land
  guarded s i fun s => wakeService (s.addReq i (s.rs a) 0 [] land.toNat) s.core

/-- The cycles of a PHASE drain (R108). -/
def drainLen : Nat := 2048
/-- A grove starts to drain for a phase; a PHASE joins a drain that is under way, and an admission has its own, counted from the admission
(R108). That an admission's 2,048 cycles begin on the cycle after it, as a PHASE's do, and that its drain takes the place of one that is under
way, whose own end then does not come, is the model's (DESIGN CHOICE, assumption log 109). The accesses of the PHASE bundle itself,
and of bundles that other cores issue on its cycle, are taken to meet the drain (DESIGN CHOICE, assumption log 74). -/
def startDrain (s : State) (g n size : Nat) (inst : Option Nat) : State :=
  let k := s.groveAt g
  let fresh : Drain := ⟨s.time.toNat + 1 + drainLen, size, n, inst⟩
  let d : Drain := match k.drain with
    | some d => if inst.isSome then fresh else { d with size := size, phase := n }
    | none => fresh
  s.setGrove g { k with drain := some d }
/-- PHASE (R108, R315). -/
def execPhase (n : Fin 16) (s : State) : Out :=
  guarded s (.phase n) fun s =>
    match s.myInst with
    | some i => startDrain s s.g n.val (phaseSize i.img n.val) none
    | none => s

/-- HALT (R316). -/
def execHalt (s : State) : Out := guarded s .halt fun s => s.setMe { s.me with st := .halted }

end Sys2Proof.Machine
end

