-- ==== Sys2Proof/Machine/MatrixOps.lean ====
section
/-! DEFINITION. The instructions of the M slot (R256-R281): parameter registers, operand slots, matrix operations, and
fast-weight operations. -/

namespace Sys2Proof.Machine
open Sys2Proof

/-- MNOP does nothing. -/
def execMnop (s : State) : Out := .next s

/-! ## Parameter registers (R256, R257) -/

/-- The shape word's bits that are stored: [21:20] are reserved. -/
def shapeMask : BitVec 128 := 0xCFFFFF
/-- The table word's bits. -/
def tableMask : BitVec 128 := 0xFFFFFF000000
/-- A word of mp[p] written, of latency bound 1 (R257). -/
def msetShape (s : State) (p : MpReg) (w : BitVec 24) : Out := .next (s.stage (.mp p (w.setWidth 128 &&& shapeMask) 0xFFFFFF) 1 0)
/-- The table word of mp[p] written. -/
def msetTable (s : State) (p : MpReg) (w : BitVec 24) : Out := .next (s.stage (.mp p (w.setWidth 128 <<< 24) tableMask) 1 0)
/-- MSET.shape, immediate. -/
def execMsetShapeImm (p : MpReg) (w : BitVec 24) (s : State) : Out := msetShape s p w
/-- MSET.table, immediate. -/
def execMsetTableImm (p : MpReg) (w : BitVec 24) (s : State) : Out := msetTable s p w
/-- MSET.shape, register. -/
def execMsetShapeReg (p : MpReg) (x : SReg) (s : State) : Out := msetShape s p (bits (s.rs x) 0 24)
/-- MSET.table, register. -/
def execMsetTableReg (p : MpReg) (x : SReg) (s : State) : Out := msetTable s p (bits (s.rs x) 0 24)

/-! ## Operand slots (R117, R258, R259) -/

/-- Slots claimed: the content of a slot newly held is undefined, a free value (R117; DESIGN CHOICE, assumption log 6). -/
def claimSlots (k : Core) (x fresh : Nat) (m : BitVec 16) : Core :=
  let f (n : Fin 16) : OpSlot :=
    let o := k.slots[n.val]
    if tst m n.val ∧ o.holder ≠ some x then ⟨some x, none, Config.freeSlot fresh n.val⟩ else o
  { k with slots := Vector.ofFn f }
/-- MCLAIM: its bundle issues only when every slot of the mask is free or held by the context (R258). -/
def execMclaim (m : BitVec 16) (s : State) : Out :=
  guarded s (.mclaim m) fun s => s.setMyCore (claimSlots s.myCore s.ctx s.fresh m)
/-- MRELEASE (R259): contexts that claim the slots become ready. -/
def execMrelease (m : BitVec 16) (s : State) : Out :=
  guarded s (.mrelease m) fun s =>
    let k := s.myCore
    let f (n : Fin 16) : OpSlot :=
      let o := k.slots[n.val]
      if tst m n.val ∧ o.holder = some s.ctx then { o with holder := none, fill := none } else o
    wakeClaims (s.setMyCore { k with slots := Vector.ofFn f }) s.core
/-- MWAIT: the wait is its bundle's issue delay (R262). -/
def execMwait (m : BitVec 8) (s : State) : Out := guarded s (.mwait m) fun s => s

/-! ## Matrix operations (R260, R267-R271) -/

/-- A matrix operation enters the unit's queue (R260). -/
def matOp (s : State) (i : Instr) : Out := guarded s i fun s => s.addMat i
/-- MZERO. -/
def execMzero (d : AccReg) (s : State) : Out := matOp s (.mzero d)
/-- MMA.bf16. -/
def execMmaBf16 (d : AccReg) (pa pb : MpReg) (f : MmaFlags) (s : State) : Out := matOp s (.mmaBf16 d pa pb f)
/-- MMA.f16. -/
def execMmaF16 (d : AccReg) (pa pb : MpReg) (f : MmaFlags) (s : State) : Out := matOp s (.mmaF16 d pa pb f)
/-- MMA.f32. -/
def execMmaF32 (d : AccReg) (pa pb : MpReg) (f : MmaFlags) (s : State) : Out := matOp s (.mmaF32 d pa pb f)
/-- MMA.f64. -/
def execMmaF64 (d : AccReg) (pa pb : MpReg) (f : MmaFlags) (s : State) : Out := matOp s (.mmaF64 d pa pb f)
/-- MMA.i8. -/
def execMmaI8 (d : AccReg) (pa pb : MpReg) (f : MmaFlags) (s : State) : Out := matOp s (.mmaI8 d pa pb f)
/-- MMAW.i4. -/
def execMmawI4 (d : AccReg) (pa pb : MpReg) (f : MmaFlags) (s : State) : Out := matOp s (.mmawI4 d pa pb f)
/-- MMAW.e2m1. -/
def execMmawE2m1 (d : AccReg) (pa pb : MpReg) (f : MmaFlags) (s : State) : Out := matOp s (.mmawE2m1 d pa pb f)
/-- MGRP.i4i8. -/
def execMgrpI4i8 (d : AccReg) (pa pb : MpReg) (f : MmaFlags) (g : Fin 8) (s : State) : Out :=
  matOp s (.mgrpI4i8 d pa pb f g)
/-- MGRP.i8. -/
def execMgrpI8 (d : AccReg) (pa pb : MpReg) (f : MmaFlags) (g : Fin 8) (s : State) : Out := matOp s (.mgrpI8 d pa pb f g)
/-- MSCAC. -/
def execMscac (d src : AccReg) (pa pb : MpReg) (g : Fin 8) (s : State) : Out := matOp s (.mscac d src pa pb g)
/-- MTRN. -/
def execMtrn (d src : AccReg) (w64 : Bool) (s : State) : Out := matOp s (.mtrn d src w64)
/-- MACCADD. -/
def execMaccadd (t : AccTy) (d src : AccReg) (s : State) : Out := matOp s (.maccadd t d src)
/-- MCVTACC. -/
def execMcvtacc (m : AccCvt) (d src : AccReg) (s : State) : Out := matOp s (.mcvtacc m d src)

/-! ## Fast-weight operations (R272-R281) -/

/-- FWBIND (R273): its bundle waits while the directory has still to make the handle; the directory's entry gives d_k,
d_v and the format. -/
def execFwbind (fb : FbReg) (h : SReg) (tile : Fin 64) (s : State) : Out :=
  guarded s (.fwbind fb h tile) fun s =>
    match lookHandle s s.part (s.rs h) with
    | none => s
    | some (o, _) =>
      let k := s.me
      let b : Binding := ⟨.bound, s.rs h, tile.val, o.ldk, o.ldv, o.half⟩
      s.setMe { k with fb := k.fb.set fb.val b }
/-- FWREAD. -/
def execFwread (fb : FbReg) (d : AccReg) (row : Fin 64) (x : VReg) (s : State) : Out :=
  let i := Instr.fwread fb d row x
  guarded s i fun s => s.addFw i fb (s.vecBlock fb i x) []
/-- FWFADE. -/
def execFwfade (fb : FbReg) (x : VReg) (s : State) : Out :=
  let i := Instr.fwfade fb x
  guarded s i fun s => s.addFw i fb (s.vecBlock fb i x) []
/-- FWWRITE. -/
def execFwwrite (hebb : Bool) (fb : FbReg) (x : VReg) (s : State) : Out :=
  let i := Instr.fwwrite hebb fb x
  guarded s i fun s => s.addFw i fb (s.vecBlock fb i x) []
/-- FWSTEP. -/
def execFwstep (hebb post : Bool) (fb : FbReg) (d : AccReg) (row : Fin 64) (x : VReg) (s : State) : Out :=
  let i := Instr.fwstep hebb post fb d row x
  guarded s i fun s => s.addFw i fb (s.vecBlock fb i x) []
/-- FWCHUNK. -/
def execFwchunk (hebb post : Bool) (fb : FbReg) (d : AccReg) (pk pv pq : MpReg) (n : Fin 64) (noread : Bool) (s : State) :
    Out :=
  let i := Instr.fwchunk hebb post fb d pk pv pq n noread
  guarded s i fun s => s.addFw i fb [] [s.rmp pk, s.rmp pv, s.rmp pq]
/-- FWUNBIND: the binding is free once its operations have completed (R279). -/
def execFwunbind (fb : FbReg) (s : State) : Out :=
  guarded s (.fwunbind fb) fun s =>
    let k := s.me
    let b := k.fb[fb.val]
    settleBindings (s.setMe { k with fb := k.fb.set fb.val (if b.st = .bound then { b with st := .leaving } else b) })
      s.core s.ctx
/-- FWWAIT: the wait is its bundle's issue delay (R279). -/
def execFwwait (m : BitVec 4) (s : State) : Out := guarded s (.fwwait m) fun s => s

end Sys2Proof.Machine
end

