-- ==== Sys2Proof/Machine/Copy.lean ====
section
/-! DEFINITION. The instructions of the C slots (R242-R252): each starts a job with every register it names read at
issue (R242). The jobs' accesses are events (JobEvents.lean). -/

namespace Sys2Proof.Machine
open Sys2Proof

/-- A block of `n` registers from s[a] upward (R242). -/
def State.block (s : State) (a : SReg) (n : Nat) : List W64 := (List.range n).map fun i => s.rs (Fin.ofNat 64 (a.val + i))

/-- A job of a copy operation started. -/
def startJob (s : State) (i : Instr) (c : CFlags) (args : List W64) : State := s.addJob i c.tag.val args c.yw false

/-- CNOP does nothing. -/
def execCnop (s : State) : Out := .next s
/-- CPY: destination, source, length. -/
def execCpy (sf : Bool) (c : CFlags) (a b l : SReg) (s : State) : Out :=
  guarded s (.cpy sf c a b l) fun s => startJob s (.cpy sf c a b l) c [s.rs a, s.rs b, s.rs l]
/-- CPY2D: a block of 6. -/
def execCpy2d (sf : Bool) (c : CFlags) (a : SReg) (s : State) : Out :=
  guarded s (.cpy2d sf c a) fun s => startJob s (.cpy2d sf c a) c (s.block a 6)
/-- GATHER: the block of R245. -/
def execGather (sf : Bool) (c : CFlags) (a : SReg) (s : State) : Out :=
  guarded s (.gather sf c a) fun s => startJob s (.gather sf c a) c (s.block a 6)
/-- SCATTER: the block of R245 with source and destination exchanged. -/
def execScatter (c : CFlags) (a : SReg) (s : State) : Out :=
  guarded s (.scatter c a) fun s => startJob s (.scatter c a) c (s.block a 6)
/-- RPUT: remote destination, local source, length. -/
def execRput (c : CFlags) (a b l : SReg) (s : State) : Out :=
  guarded s (.rput c a b l) fun s => startJob s (.rput c a b l) c [s.rs a, s.rs b, s.rs l]
/-- RGET: local destination, remote source, length. -/
def execRget (sf : Bool) (c : CFlags) (a b l : SReg) (s : State) : Out :=
  guarded s (.rget sf c a b l) fun s => startJob s (.rget sf c a b l) c [s.rs a, s.rs b, s.rs l]

/-! ## Fills of operand slots -/

/-- A fill of slot n marked under way by the operation being issued (R246). -/
def fillSlot (s : State) (n : Nat) : State :=
  let k := s.myCore
  s.setMyCore { k with slots := Vector.ofFn fun (i : Fin 16) =>
    let o := k.slots[i.val]
    if i.val = n then { o with fill := some s.nextOrd } else o }
/-- OSFILL: source and row stride. -/
def execOsfill (c : CFlags) (n : Fin 16) (b l : SReg) (s : State) : Out :=
  guarded s (.osfill c n b l) fun s => fillSlot (startJob s (.osfill c n b l) c [s.rs b, s.rs l]) n.val
/-- WSFILL: weight-store offset. -/
def execWsfill (c : CFlags) (n : Fin 16) (b : SReg) (s : State) : Out :=
  guarded s (.wsfill c n b) fun s => fillSlot (startJob s (.wsfill c n b) c [s.rs b]) n.val
/-- MCAST: as OSFILL, on every core of the gang (R252). -/
def execMcast (c : CFlags) (n : Fin 16) (b l : SReg) (s : State) : Out :=
  guarded s (.mcast c n b l) fun s => fillSlot (startJob s (.mcast c n b l) c [s.rs b, s.rs l]) n.val
/-- WSWRITE: weight-store offset, source, length. -/
def execWswrite (c : CFlags) (a b l : SReg) (s : State) : Out :=
  guarded s (.wswrite c a b l) fun s => startJob s (.wswrite c a b l) c [s.rs a, s.rs b, s.rs l]

/-! ## Windows (R110-R112) -/

/-- The granules of `len` bytes of a ring set empty (R111). -/
def emptyGranules (s : State) (a len : Nat) : State :=
  (List.range (len / 16)).foldl (fun (s : State) (i : Nat) =>
    match resolve s (a + 16 * i) 16 false true with
    | .ok p => setFull s p false
    | _ => s) s
/-- The granules of the ring slots of `n` rows from row h set empty, when the window operation issues: before an earlier load of the
context on them that is not yet performed, which R111 does not order (DESIGN CHOICE, assumption log 94). -/
def emptyRows (s : State) (w : Window) (h : Int) (n : Nat) : State :=
  let l := w.l.toNat
  (List.range n).foldl (fun (s : State) (i : Nat) =>
    emptyGranules s (w.b.toNat + ((h + (i : Int)) % (w.q.toNat : Int)).toNat * l) l) s
/-- Window k becomes w. -/
def setWindow (s : State) (k : Fin 4) (w : Window) : State := s.setMe { s.me with windows := s.me.windows.set k.val w }

/-- The granules that a window's job finds empty when its bundle leaves the core's edge: at its issue, but in a protected grove once
the bundle has matched (R111, R452). -/
def emptyFor (s : State) (i : Instr) (args : List W64) : State :=
  let a (n : Nat) : W64 := args.getD n 0
  let first : Int := (a 6).toInt
  match i with
  | .wopen .. => emptyRows s ⟨true, a 0, a 1, a 2, a 3, a 4, a 5, first⟩ first (a 7).toNat
  | .wadv .. =>
    let h : Int := first - ((a 5).toNat : Int)
    emptyRows s ⟨true, a 0, a 1, a 2, a 3, a 4, a 5, h⟩ h (a 7).toNat
  | _ => s
/-- A window's job started, with the granules of its rows emptied. -/
def startFetch (s : State) (i : Instr) (c : CFlags) (args : List W64) : State :=
  startJob (if s.myGrove.prot then s else emptyFor s i args) i c args
/-- WOPEN: head row0, the ring empty, rows H to H + Q - 1 fetched. -/
def execWopen (c : CFlags) (k : Fin 4) (a : SReg) (s : State) : Out :=
  guarded s (.wopen c k a) fun s =>
    let r (n : Nat) : W64 := (s.block a 7).getD n 0
    let w : Window := ⟨true, r 0, r 1, r 2, r 3, r 4, r 5, (r 6).toInt⟩
    startFetch (setWindow s k w) (.wopen c k a) c [r 0, r 1, r 2, r 3, r 4, r 5, r 6, r 5]

/-- WADV: the slots of the oldest rows empty, the head moved, as many new rows fetched. -/
def execWadv (c : CFlags) (k : Fin 4) (a : SReg) (s : State) : Out :=
  guarded s (.wadv c k a) fun s =>
    let w := s.me.windows[k.val]
    let n := s.rs a
    let f := wadvRows w n.toNat
    let s := setWindow s k { w with h := w.h + (n.toNat : Int) }
    startFetch s (.wadv c k a) c [w.t, w.p, w.l, w.n, w.b, w.q, BitVec.ofInt 64 f.1, n]

/-- The window that a fetching job belongs to. -/
def jobWindow (j : Job) : Option (Fin 4) :=
  match j.op with
  | .wopen _ k _ | .wadv _ k _ => some k
  | _ => none

/-- WCLOSE: the window stops, its fetches not yet started are dropped. -/
def execWclose (c : CFlags) (k : Fin 4) (s : State) : Out :=
  guarded s (.wclose c k) fun s =>
    let m := s.me
    s.setMe { m with
      windows := m.windows.set k.val { m.windows[k.val] with isOpen := false }
      jobs := m.jobs.map fun (j : Job) => if jobWindow j = some k then { j with stop := true } else j }

/-! ## Signals, moves, waits and host lines -/

/-- RSIG: the signal's address and value (R251). -/
def execRsig (c : CFlags) (sc : Scope) (op : SigOp) (a b : SReg) (s : State) : Out :=
  guarded s (.rsig c sc op a b) fun s => startJob s (.rsig c sc op a b) c [s.rs a, s.rs b]

/-- The pager declines a SPIN or SPOUT, with its reason (R325, R326). -/
def declineMove (s : State) (key why : Nat) : State :=
  match s.obj? key with
  | some o => s.setObj key { o with decl := why }
  | none => s
/-- A SPIN from a grove reaches the pager: whether its job waits for a move (R325, R326). -/
def spinAsk (s : State) (chip g key : Nat) : State × Bool :=
  match s.obj? key with
  | none => (s, false)
  | some o =>
    let pinnedOut : Bool := match o.wh with | .resident .. => decide (o.pins ≠ 0) | _ => false
    if absentAt s key chip g = none then (s, false)
    else if absentAt s key chip g = some 3 then (declineMove s key 3, false)
    else if pinnedOut then (declineMove s key 2, false)
    else if 4096 < chargeMoved s key + pinnedCharge s chip g then (declineMove s key 1, false)
    else (acceptMove s key chip g, true)
/-- A SPOUT reaches the pager: whether its job waits for a move (R325). -/
def spoutAsk (s : State) (key : Nat) : State × Bool :=
  match s.obj? key with
  | none => (s, false)
  | some o =>
    match o.wh with
    | .tier _ => (s, false)
    | .moving .. => (declineMove s key 3, false)
    | .resident chip _ => if o.pins ≠ 0 then (declineMove s key 2, false) else (acceptMove s key chip 127, true)
/-- Whether a handle names something of the issuing grove's partition (R301). -/
def handleSeen (s : State) (h : W64) : Bool := (lookHandle s s.myGrove.part h).isSome
/-- What a SPIN or SPOUT of a handle asks of the pager: whether its job waits for a move. -/
def moveAsk (s : State) (i : Instr) (h : W64) : State × Bool :=
  if !handleSeen s h then (s, false)
  else match i with
    | .spin .. => spinAsk s s.chip s.g (objKey h)
    | .spout .. => spoutAsk s (objKey h)
    | _ => (s, false)
/-- A move's job started: it asks when its bundle leaves the core's edge, at its issue, but in a protected grove once the bundle has
matched (R452). -/
def startMove (s : State) (i : Instr) (c : CFlags) (h : W64) : State :=
  let r := if s.myGrove.prot then (s, true) else moveAsk s i h
  r.1.addJob i c.tag.val [h] c.yw r.2
/-- SPIN: the object is asked for; the job ends when the move is made or declined (R250, R252). -/
def execSpin (c : CFlags) (a : SReg) (s : State) : Out := guarded s (.spin c a) fun s => startMove s (.spin c a) c (s.rs a)
/-- SPOUT: the object is sent to the state tier. -/
def execSpout (c : CFlags) (a : SReg) (s : State) : Out := guarded s (.spout c a) fun s => startMove s (.spout c a) c (s.rs a)
/-- Whether a job does something when its bundle leaves the core's edge. -/
def Job.leaves (j : Job) : Bool :=
  match j.op with
  | .spin .. | .spout .. | .wopen .. | .wadv .. => true
  | _ => false
/-- What the jobs of the bundles from issue order `lo` up to `hi` do as these leave the core's edge (R111, R325, R452). -/
def leaveEdge (s : State) (lo hi : Nat) : State :=
  (s.me.jobs.filter fun j => j.leaves && lo ≤ j.ord && j.ord ≤ hi).foldl (fun s j =>
    match j.op with
    | .spin .. | .spout .. =>
      let r := moveAsk s j.op (j.args.getD 0 0)
      mapJob r.1 s.core s.ctx j.ord j.slot fun i => some { i with moving := r.2 }
    | i => emptyFor s i j.args) s

/-- CWAIT: its bundle issues once the jobs it names have completed (R249), and it does nothing more. -/
def execCwait (c : CFlags) (s : State) : Out := guarded s (.cwait c) fun s => s
/-- CFLUSH: the job writes back dirty host lines of a range (R252). -/
def execCflush (c : CFlags) (a b : SReg) (s : State) : Out :=
  guarded s (.cflush c a b) fun s => startJob s (.cflush c a b) c [s.rs a, s.rs b]
/-- CINV: the job drops the copies of a range from the grove's leased cache (R252). -/
def execCinv (c : CFlags) (a b : SReg) (s : State) : Out :=
  guarded s (.cinv c a b) fun s => startJob s (.cinv c a b) c [s.rs a, s.rs b]

end Sys2Proof.Machine
end

