-- ==== Sys2Proof/Machine/TaskEvents.lean ====
section
/-! DEFINITION. The events of the task unit and of whole contexts: acceptance, dispatch, commit, gangs, pre-emption
(R23-R49, R66-R69), shoots (R340, R347), hang detection and timeouts (R116, R241, R314, R439). An event that is not
enabled leaves the state unchanged (R49). `State.ev` names its subjects. -/

namespace Sys2Proof.Machine
open Sys2Proof

/-! ## Acceptance (R23, R27) -/

/-- The first record of an instance that waits at the front end is accepted, where its table has room. -/
def acceptHeld (s : State) (n : Nat) : State :=
  match s.inst? n with
  | none => s
  | some i =>
    match i.recs with
    | [] => s
    | h :: t =>
      let o := mkOffer h.rank i n h.rcd h.creator h.depth h.ts
      if offerRoom s o && inTurn s h.rank then (acceptOffer (s.setInst n { i with recs := t }) o).1 else s
/-- An upcall's record is accepted in its pager's instance, as SPAWNK's would be (R426). No context issues it: among the records of one
cycle (R23) it has the place of a SPAWN of core 0, context 0 (DESIGN CHOICE, assumption log 92). One for an instance that is not live
any more is answered as disposition 1, as its fault would be (R425, R426). -/
def acceptUpcall (s : State) (tok : Nat) : State :=
  match s.upcalls.find? (fun u => u.tok = tok) with
  | none => s
  | some u =>
    match u.record, s.live? u.inst with
    | some _, none => answerUpcall s u true
    | some r, some i =>
      let o := mkOffer 2 i u.inst r 0 0 0
      if offerRoom s o && inTurn s 2 then
        let s := { s with upcalls := s.upcalls.map fun v => if v.tok = tok then { v with record := none } else v }
        (acceptOffer s o).1
      else s
    | _, _ => s
/-- TASK_RECORD_ACCEPT: instance a's first waiting record, or with f the record of upcall b. -/
def execTaskRecordAccept (s : State) : Out := .next (if s.ev.f then acceptUpcall s s.ev.b else acceptHeld s s.ev.a)

/-- The offer of a shoot record (R40). -/
def shootOffer (w : Watch) (p : Pend) : Offer := ⟨1, w.inst, shootRec w.desc p.i p.chg, shootKey w.desc p.i, 0, p.depth, p.ts⟩
/-- Whether another record of the same write or commit, of a lower entry or granule, is offered first and has room (R342). -/
def offeredAfter (s : State) (e : Nat) (p : Pend) : Bool :=
  s.watches.any fun x => x.2.pend.any fun q =>
    q.born = p.born && (x.1 < e || (x.1 = e && q.i < p.i)) && offerRoom s (shootOffer x.2 q)
/-- A pending shoot record accepted: it becomes a task with the change count of that moment, unless its instance has been
ended (R40, R340, R347, R465). -/
def acceptShoot (s : State) (e n : Nat) : State :=
  match Map.get? s.watches e with
  | none => s
  | some w =>
    match w.pend[n]?, s.inst? w.inst with
    | some p, some i =>
      let o := shootOffer w p
      if !i.ended && offerRoom s o && inTurn s 1 && !offeredAfter s e p then
        let s := { s with watches := Map.set s.watches e { w with pend := w.pend.eraseIdx n, shoots := w.shoots + 1 } }
        (acceptOffer (s.count fun k => { k with shoots := k.shoots + 1 }) o).1
      else s
    | _, _ => s
/-- SHOOT_ACCEPT: the record at position b of watch entry a. -/
def execShootAccept (s : State) : Out := .next (acceptShoot s s.ev.a s.ev.b)

/-- RATE_WINDOW_START: the counts of every entry start again (R344). -/
def execRateWindowStart (s : State) : Out :=
  .next { s with watches := s.watches.map fun e =>
    (e.1, if e.2.win = s.time.toNat / 700 then e.2 else { e.2 with win := s.time.toNat / 700, winCount := 0 }) }

/-! ## Dispatch and commit -/

/-- TASK_DISPATCH: the unit of grove a dispatches the task that R28 chooses. -/
def execTaskDispatch (s : State) : Out :=
  .next (match nextDispatch s s.ev.a with
    | some (k, cs, x, off) =>
      match s.task? k with
      | some t => cs.foldl (fun s c => selectCtx s c) (dispatchTask s k t cs x off)
      | none => s
    | none => s)

/-- Static watches of an instance whose records have all been created and whose tasks have ended are removed, once
they have no pending record (R384). -/
def dropStatics (s : State) (n : Nat) : State :=
  match s.inst? n with
  | none => s
  | some i =>
    if (i.recs.isEmpty || i.ended) && !s.tasks.any (fun e => e.2.inst = n && e.2.st ≠ .failed) then
      { s with watches := s.watches.filter fun e => !(e.2.inst = n && e.2.static && e.2.pend.isEmpty) }
    else s

/-- The host lines of a task that commits pass to its instance (R411). -/
def passLines (s : State) (t : Task) : State :=
  match s.inst? t.inst with
  | none => s
  | some i =>
    let ls := t.cores.flatMap fun c => (s.ctxAt c t.x).hostLines
    let s := s.setInst t.inst { i with hostLines := i.hostLines ++ ls.filter fun l => !i.hostLines.contains l }
    t.cores.foldl (fun s c => s.setCtx c t.x { s.ctxAt c t.x with hostLines := [] }) s

/-- A committed task's contexts freed and its areas returned. -/
def releaseTask (s : State) (k : Nat) (t : Task) : State :=
  let s := t.cores.foldl (fun s c => freeCtxAt s c t.x) s
  dropGang (freeAreas s t) (k / 512) t.x

/-- A task commits: tentative versions at the commit timestamp, grants returned, successors re-examined, deferred records
offered in program order (R35, R140, R289). -/
def commitTask (s : State) (k : Nat) (t : Task) : State :=
  let staged := ((s.typeOf t).map (·.staged)).getD false
  let lts := taskLts s t
  let ts := if staged then commitTs s t lts else lts
  let idx := match s.inst? t.inst with | some i => setIndex i (k / 512) | none => 0
  let rank := spawnRank (t.cores.headD 0) t.x
  let there (n : Nat) : Bool := (s.live? n).isSome
  let s := passLines (publish s t ts) t
  let s := leaveTable (releaseTask s k t) k ts
  let s := t.deferred.foldl (fun s d => match d.1 with
    | none => holdRecord s t.inst ⟨rank, d.2, idx, t.depth, lts⟩
    | some n => if there n then holdRecord s n ⟨rank, d.2, 0, 0, lts⟩ else s) s
  dropStatics s t.inst

/-- A task whose save routine has ended enters Pre-empted: only R67's state is kept. The host lines that its contexts have written stay
theirs, and it carries them with it, so that its later releases order them: they pass to its instance at its commit alone (R134, R411). -/
def preemptTask (s : State) (k : Nat) (t : Task) : State :=
  let lts := t.cores.map fun c => (s.ctxAt c t.x).lts
  let lines := t.cores.map fun c => (s.ctxAt c t.x).hostLines
  let s := t.cores.foldl (fun s c => freeCtxAt s c t.x) s
  let s := dropGang s (k / 512) t.x
  s.setTask k { t with st := .preempted, keptLts := lts, keptLines := lines, cores := [], readyAt := none }

/-- TASK_COMMIT: the task of context b of core a has met the conditions of R35, or of the end of its save routine
(R66, R370). A commit waits for pool space and for what holds its writes (R351, R428), and a write dropped for lack of a path fails its task
here (R434). -/
def execTaskCommit (s : State) : Out :=
  let c := s.ev.a
  let x := s.ev.b
  let k := s.ctxAt c x
  .next (match k.task with
    | none => s
    | some n =>
      match s.task? n with
      | none => s
      | some t =>
        let dropped := t.cores.findSome? fun c => (failedAcc (s.ctxAt c x) Acc.dropped).map fun e => (c, e)
        if t.cores.isEmpty || !t.cores.all (fun c => ctxDone s c x) then s
        else if dropped.isSome then
          match dropped with
          | some (c, t) => setCause s c x t
          | none => s
        else if k.saving then preemptTask s n t
        else if commitWaits s t then s
        else commitTask s n t)

/-! ## Gangs (R39) -/

/-- GANG_RESUME: on grove a, the gang of context b goes on on every core once no interposed run is left and no yield-wait job
of its bundle is outstanding. One that yielded at an MCLAIM goes on whatever the state of its claim, tries the bundle again and
may yield again: how R258's readiness meets R39's resumption, the spec does not say (DESIGN CHOICE, assumption log 90). -/
def execGangResume (s : State) : Out :=
  let g := s.ev.a
  let x := s.ev.b
  let cs := (List.range 8).map (g * 8 + ·)
  let gr := s.groveAt g
  let done := gr.gangs.any fun e => e.x = x && e.yielded && e.waiting.isEmpty
  let idle := cs.all fun c =>
    let k := s.ctxAt c x
    k.gang && k.st = .running && k.err.isNone && k.ywJob.isNone && (s.coreAt c).current.isNone && !coreFrozen s c
  .next (if done && idle then
      let s := s.setGrove g { gr with gangs := gr.gangs.map fun e => if e.x = x then { e with yielded := false } else e }
      cs.foldl (fun s c => (s.setCtx c x { s.ctxAt c x with ready := false, since := (s.coreAt c).cyc }).setCore c
        { s.coreAt c with current := some x }) s
    else s)

/-! ## Pre-emption (R66-R69, R370, R382) -/

/-- The lowest 4 KiB-aligned place of `len` bytes in a save region, beside the areas already allocated there. -/
def findArea (base total len : Nat) (used : List (Nat × Nat)) : Option Nat :=
  ((List.range (total / 4096)).map fun i => base + 4096 * i).find? fun a =>
    a + len ≤ base + total && used.all fun u => !overlap a len u.1 u.2
/-- `n` save areas of an instance's region, or `none` where it lacks room (R69, R382) or the launch named no region (R404). -/
def allocAreas (i : Inst) (len : Nat) : Nat → Option (Inst × List Nat)
  | 0 => some (i, [])
  | n + 1 =>
    match if i.saveBase = 0 then none else findArea i.saveBase i.saveLen len i.areas with
    | none => none
    | some a => (allocAreas { i with areas := i.areas ++ [(a, len)] } len n).map fun r => (r.1, a :: r.2)

/-- Whether every job and engine operation of a context has ended (R66, step 2). -/
def quiet (s : State) (c x : Nat) : Bool := (s.ctxAt c x).jobs.isEmpty && !ctxEngBusy s c x

/-- A context's registers as its save routine finds them: its area in s8, the routine's entry as its pc (R66, R370). -/
def startSave (k : Ctx) (area : W64) (pc : W32) (cyc : Nat) : Ctx :=
  { recordTrap k (causeWord 14 0xFF 0) with
    s := k.s.set 8 area, pc := pc, delay := 0, target := none, err := none, saving := true, ready := true, since := cyc
    holdSince := none, frzSince := none, claim := none }

/-- PREEMPTION: context b of core a has stopped at a safe point; once it has drained and its jobs and fast-weight
operations have ended, its save routine runs in it (R66, R69). -/
def execPreemption (s : State) : Out :=
  let c := s.ev.a
  let x := s.ev.b
  let cs := mates s c x
  let stopped := cs.any fun c => match (s.ctxAt c x).err with | some t => t.cls = 14 | none => false
  .next (if !stopped then s
    else
      match drainAll s x cs with
      | none => s
      | some d =>
        let bad := cs.findSome? fun c => failedRead (d.ctxAt c x)
        match bad with
        | some t => settleCause (d.setCtx c x { d.ctxAt c x with err := some t }) c x
        | none =>
          if !cs.all (fun c => quiet d c x) then s
          else
            let k := d.ctxAt c x
            match k.task.bind fun n => (d.task? n).map fun t => (n, t) with
            | none => s
            | some (n, t) =>
              match k.safePt.bind fun p => (imageAt d c x).bind fun i => i.safes[p]? with
              | none => s
              | some p =>
                let d := d.setTask n { t with keptFlags := cs.map fun c => (d.ctxAt c x).fpflags, safePt := k.safePt }
                let d := (List.range cs.length).foldl (fun (d : State) (i : Nat) =>
                  let c := cs.getD i 0
                  d.setCtx c x (startSave (d.ctxAt c x) (areaOf t i) p.save (d.coreAt c).cyc)) d
                cs.foldl selectCtx d)

/-! ## Endings from outside a context (R116, R241, R314, R439) -/

/-- The cause of the hang detector (R439). -/
def hangTrap : Trap := ⟨0, 13, 1, noSlot, 0, 0, 0⟩
/-- Since when a task has issued nothing: its last bundle, or its END once it commits (R439). -/
def idleSince (t : Task) : Nat := if t.st = .committing then t.endTime else t.lastIssue
/-- HANG_DETECT: task a has issued no bundle for its grove's HANG cycles. -/
def execHangDetect (s : State) : Out :=
  let k := s.ev.a
  .next (match s.task? k with
    | none => s
    | some t =>
      let counted := t.st = .running || t.st = .parked || t.st = .committing
      if counted && idleSince t + (s.groveAt (k / 512)).hang.toNat ≤ s.time.toNat then
        killTask s k hangTrap
      else s)

/-- The cycles after which a core ends a wait (R116, R241, R314). -/
def waitLimit : Nat := 16384
/-- Whether a context's freeze has lasted for the limit. -/
def frozenLong (s : State) (k : Ctx) : Bool := match k.frzSince with | some t => t + waitLimit ≤ s.time.toNat | none => false
/-- The late accesses of a context that satisfy a test. -/
def lateAcc (s : State) (c x : Nat) (f : AccOp → Bool) : Option Acc :=
  (s.ctxAt c x).accs.find? fun a => f a.op && !a.pieces.isEmpty && a.bound ≤ (s.coreAt c).cyc
/-- What a context's bundle of issue order `ord` has not yet done is done no more: operations that a unit has started and not
completed among it (R116). Of a gang's bundle this is the waiting core's part: whether the slots of the other ranks count as slots of
"its bundle", the spec does not say (DESIGN CHOICE, assumption log 107). -/
def cutBundle (s : State) (c x ord : Nat) : State :=
  let k := s.ctxAt c x
  let s := dropEng s c fun o => o.x = x && o.ord = ord
  let co := s.coreAt c
  let mine (o : MatOp) : Bool := o.x = x && o.ord = ord
  let s := s.setCore c { co with mq := co.mq.filter fun o => !mine o, mrun := co.mrun.filter fun r => !mine r.1 }
  s.setCtx c x { k with
    accs := k.accs.filter (·.ord ≠ ord), inflight := k.inflight.filter (·.ord ≠ ord)
    reqs := k.reqs.filter (·.ord ≠ ord), jobs := k.jobs.filter (·.ord ≠ ord) }
/-- A waiting access ended without effect; its task fails (class 13), with the cause that it has if it is failing already. -/
def endWait (s : State) (c x : Nat) (a : Acc) (code : Nat) : State :=
  let k := (s.ctxAt c x).putAcc a none
  s.setCtx c x { k with err := if failing k then k.err else some ⟨0, 13, code, a.slot, 0, 0, 0⟩ }

/-- Whether an access is a full-empty load. -/
def feOp : AccOp → Bool
  | .load _ (some _) _ | .vload (some _) .. => true
  | _ => false
/-- The slot of the .wf store of a context's next bundle one of whose granules is full (R116). -/
def wfSlot (s : State) (c x : Nat) : Option Nat :=
  match imageAt s c x with
  | none => none
  | some i =>
    let k := s.ctxAt c x
    match fetchAt i (issuePc k).toNat with
    | .bundle w _ =>
      match decodeBundle w (decide (0 < k.delay)) with
      | .ok b =>
        let t := { s with core := c, ctx := x }
        (b.ops.find? fun (o : Slot × SlotOp) => (wfLeft t (o.1, o.2.op)).any (wfFull t)).map (·.1.num)
      | .error _ => none
    | _ => none
/-- FULL_EMPTY_TIMEOUT: a full-empty wait of context b of core a has lasted for the limit: the access that waits, of a bundle that
has issued or of the one that it holds, takes no effect, nor does what is left of its bundle (R116). -/
def execFullEmptyTimeout (s : State) : Out :=
  let c := s.ev.a
  let x := s.ev.b
  let k := s.ctxAt c x
  let held : Bool := match k.holdSince with | some t => decide (t + waitLimit ≤ (s.coreAt c).cyc) | none => false
  .next (match lateAcc s c x feOp with
    | some a =>
      if frozenLong s k then cutBundle (endWait s c x a 0x40) c x a.ord else s
    | none =>
      if !held then s
      else
        match wfBehind k, wfSlot s c x with
        | some a, _ => cutBundle (endWait s c x a 0x40) c x a.ord
        | none, some n => s.setCtx c x { k with
          err := if failing k then k.err else some ⟨0, 13, 0x40, n, 0, 0, 0⟩, holdSince := none, wfDone := 0 }
        | none, none => s)
/-- WAITB_TIMEOUT: a WAITB of context b of core a has frozen it for the limit (R241). -/
def execWaitbTimeout (s : State) : Out :=
  let c := s.ev.a
  let x := s.ev.b
  .next (match lateAcc s c x (fun o => match o with | .waitb .. => true | _ => false) with
    | some a => if frozenLong s (s.ctxAt c x) then endWait s c x a 0x41 else s
    | none => s)
/-- SVC_TIMEOUT: an SVC of context b of core a has frozen it for the limit (R314). -/
def execSvcTimeout (s : State) : Out :=
  let c := s.ev.a
  let x := s.ev.b
  let k := s.ctxAt c x
  let svc (r : Req) : Bool := (match r.op with | .svc .. => true | _ => false) && r.bound ≤ (s.coreAt c).cyc
  .next (match k.reqs.find? svc with
    | some r =>
      if frozenLong s k then
        s.setCtx c x { k with
          reqs := k.reqs.filter fun q => q.ord ≠ r.ord
          err := if failing k then k.err else some ⟨0, 13, 0x42, 0, 0, 0, 0⟩ }
      else s
    | none => s)

end Sys2Proof.Machine
end

