-- ==== Sys2Proof/Machine/AccessEvents.lean ====
section
/-! DEFINITION. The events of accesses and requests: a load's data arriving, a write or an atomic performed at its home,
answers, landing deadlines, walks, refresh windows, PHASE drains and writes held for version copies (R99, R106, R108, R109,
R122, R128, R220, R282, R350, R351, R455, R456). An event that is not enabled leaves the state unchanged. -/

namespace Sys2Proof.Machine
open Sys2Proof

/-! ## Reads of HBM (R455) -/

/-- What ECC and the integrity tag found of a block: clean, corrected, or poisoned with a class and code. -/
inductive HbmCheck
  | clean
  | corrected
  | bad (cls code : Nat)
  deriving DecidableEq, Repr

/-- The outcome an event carries: 0 clean, 1 corrected, 2 ECC uncorrectable in HBM, 3 ECC uncorrectable in L2 or grove memory
(R457), any other an integrity violation (DESIGN CHOICE, assumption log 21). -/
def hbmCheck (n : Nat) : HbmCheck :=
  match n with
  | 0 => .clean
  | 1 => .corrected
  | 2 => .bad 10 1
  | 3 => .bad 10 2
  | _ => .bad 11 1

/-- A frame that the device is to retire (R460). -/
def State.wear (s : State) (f : Nat) : State := if s.worn.contains f then s else { s with worn := s.worn ++ [f] }
/-- A read of HBM checked at its place: a corrected block is counted, against its frame too (R460); an uncorrectable one
is poisoned, and an integrity violation is a security event. An access of another package's memory is a message to it (R433). Grove
memory can only have an uncorrectable error of its own (R457); other memory is not the device's. -/
def checkHbm (s : State) (p : Place) (h : HbmCheck) : State :=
  let s := sendTo s p
  match p, h with
  | .dev pa, .corrected =>
    let f := pa / 65536
    let n := Map.at_ s.ecc f 0 + 1
    let s := if 16 ≤ n then s.wear f else s
    { s.count (fun k => { k with eccCorr := k.eccCorr + 1 }) with ecc := Map.set s.ecc f n }
  | .dev pa, .bad c e =>
    let s := poisonAt s p c e
    let s := if c = 10 ∧ e = 1 then s.wear (pa / 65536) else s
    if c = 11 then { s with security := s.security + 1 } else s
  | .spad .., .bad 10 2 => poisonAt s p 10 2
  | _, _ => s

/-- Whether the package that an access reaches refuses it (R435): the event's outcome 2 or above (DESIGN CHOICE, assumption log 21). -/
def refusedAway (p : Place) (h : HbmCheck) : Bool :=
  match p, h with
  | .remote .., .bad .. => true
  | _, _ => false

/-! ## Performing (R122, R128, R220) -/

/-- The kinds of access that each event performs. -/
inductive AccKind | read | write | atomic
  deriving DecidableEq, Repr
/-- The kind of an access. -/
def AccOp.kind : AccOp → AccKind
  | .load .. | .vload .. | .ldg .. | .watchRead _ | .failed .. => .read
  | .store .. | .vstore .. | .binit .. => .write
  | .atomic .. | .arrive .. | .waitb .. | .waitbTry .. => .atomic

/-- Whether a piece's performance first needs its granule's version copied (R350). -/
def pieceCopies (s : State) (a : Acc) (p : Piece) : Bool :=
  (match p.pl with | .dev pa => needsCopy s (granuleOf pa) | _ => false) && a.writesNow s p

/-- A copy of the pool, with the outcome of a read of the block at position `b` of it (R455): the frame that a copy lies in is not told
(DESIGN CHOICE, assumption log 108). -/
def checkCopy (s : State) (c : PoolCopy) (b : Nat) (h : HbmCheck) : State :=
  match h with
  | .clean => s
  | .corrected => s.count fun k => { k with eccCorr := k.eccCorr + 1 }
  | .bad cls e =>
    let d := { c with bad := Map.set c.bad b (cls * 65536 + e) }
    { s with copies := s.copies.map (fun x => if x = c then d else x), security := if cls = 11 then s.security + 1 else s.security }
/-- A read of a generation's byte checked where the generation draws it from: memory, or the pool's copy; a checkpoint target is not the
device's memory (R352, R455). -/
def genCheck (s : State) (n pa : Nat) (h : HbmCheck) : State :=
  let g := granuleOf pa
  match genCopy s n g with
  | some c => checkCopy s c (pa % 4096 / 64) h
  | none => if versionTs s g ≤ (s.genAt n).cut || !versioned s g then checkHbm s (.dev pa) h else s
/-- A read checked where an access of one piece finds its bytes (R352, R455). -/
def checkRead (s : State) (a : Acc) (p : Place) (h : HbmCheck) : State :=
  match a.op, p with
  | .ldg _ _ _ g, .dev pa => genCheck s g pa h
  | _, _ => checkHbm s p h
/-- Piece c of the access at position d of the event's context performed, where its kind is k and it needs a version copy
just when `copied`. -/
def performEv (s : State) (k : AccKind) (copied : Bool) (d : Nat) (h : HbmCheck) : State :=
  let t := s.atEv
  match eligible t d with
  | none => s
  | some a =>
    match a.pieces.find? (fun p => p.idx = t.ev.c) with
    | none => s
    | some p =>
      if a.op.kind ≠ k ∨ pieceCopies t a p ≠ copied then s
      else if refusedAway p.pl h then
        if pieceWaits t a p then s else poisonPiece (checkHbm t p.pl h) a p.idx 11 0x10
      else
        let t := if k = .read ∧ !a.op.isLdg ∧ (leaseHit t p.pl).isSome then t else checkRead t a p.pl h
        match performPiece t a t.ev.c with
        | .done u => u
        | .bad c e => poisonPiece t a p.idx c e
        | .wait => s

/-- LOAD_DATA_ARRIVE: piece c of the access at position d mod 65536 of context b of core a is read; d / 65536 is what the
check of R455 finds. -/
def execLoadDataArrive (s : State) : Out := .next (performEv s .read false (s.ev.d % 65536) (hbmCheck (s.ev.d / 65536)))
/-- STORE_PERFORM: a piece of a store is performed at its home, or refused there. -/
def execStorePerform (s : State) : Out := .next (performEv s .write false (s.ev.d % 65536) (hbmCheck (s.ev.d / 65536)))
/-- ATOMIC_PERFORM: an atomic, RED or barrier operation is performed at its home. -/
def execAtomicPerform (s : State) : Out :=
  .next (performEv s .atomic false (s.ev.d % 65536) (hbmCheck (s.ev.d / 65536)))
/-- A write held for a version copy is performed with the copy (R350). -/
def performCopied (s : State) : State :=
  match eligible s.atEv s.ev.d with
  | some a => performEv s a.op.kind true s.ev.d .clean
  | none => s

/-! ## Landing (R109, R220, R282) -/

/-- A context's freeze starts to be timed, or has ended (R116, R241). -/
def noteLate (s : State) (c x : Nat) : State :=
  let k := s.ctxAt c x
  match lateCtx s c x, k.frzSince with
  | true, none => s.setCtx c x { k with frzSince := some s.time.toNat }
  | false, some _ => s.setCtx c x { k with frzSince := none }
  | _, _ => s
/-- LANDING_DEADLINE: a landing cycle of context b of core a has passed without data, and the core is frozen. -/
def execLandingDeadline (s : State) : Out := .next (noteLate s s.ev.a s.ev.b)

/-- The request at position c of the event's context answered, where it satisfies a test. -/
def answerEv (s : State) (f : Instr → Bool) : State :=
  let t := s.atEv
  match t.me.reqs[t.ev.c]? with
  | some r => if f r.op then (giveAnswer t r).getD s else s
  | none => s
/-- The service of R447 that an SVC asks for, if it is one of the three. -/
def serviceOf (i : Instr) : Nat :=
  match i with
  | .svc _ _ n _ => if n.toNat ≤ 3 then n.toNat else 0
  | _ => 0
/-- REQUEST_ANSWER: the request at position c of context b of core a is answered. -/
def execRequestAnswer (s : State) : Out := .next (answerEv s fun i => !engHandleOp i && serviceOf i = 0)
/-- DIRECTORY_ANSWER: the home directory answers an engine handle operation's checks (R304). -/
def execDirectoryAnswer (s : State) : Out := .next (answerEv s engHandleOp)

/-! ## Translation (R99, R422) -/

/-- Whether a translation allows a walk's access. -/
def TlbEntry.allows (e : TlbEntry) (w : Walk) : Bool := (!w.rd || e.r) && (!w.wr || e.w)
/-- A translation entered in a TLB of `n` entries, in place of any of the same page, and of the oldest where the TLB is full (R99;
DESIGN CHOICE, assumption log 10). -/
def enter (n : Nat) (e : TlbEntry) (l : List TlbEntry) : List TlbEntry := (e :: l.filter fun f => !f.covers e.asid e.va).take n
/-- The address space of a core's walk. -/
def walkAsid (s : State) (c : Nat) (w : Walk) : Nat := ({ s with core := c, ctx := w.x } : State).asid
/-- The grove TLB's answer to a walk of core c (R99). -/
def groveHit (s : State) (c : Nat) (w : Walk) : Option TlbEntry :=
  let a := walkAsid s c w
  if (Map.get? s.roots a).isNone then none
  else (s.groveAt (groveOf c)).tlb.find? fun e => e.covers a w.va && e.allows w
/-- The misses of a die that its walker answers, oldest first: the cores, their walks, and the pages walked. -/
def dieWalks (s : State) (d : Nat) : List (Nat × Walk × Nat × Nat) :=
  let ws := s.cores.filterMap fun e => match e.2.walk with
    | some w => if dieOf (groveOf e.1) = d ∧ groveHit s e.1 w = none then some (e.1, w, walkAsid s e.1 w, w.va / 4096) else none
    | none => none
  ws.foldl (fun (l : List (Nat × Walk × Nat × Nat)) (e : Nat × Walk × Nat × Nat) =>
    l.takeWhile (fun f => f.2.1.since ≤ e.2.1.since) ++ e :: l.dropWhile fun f => f.2.1.since ≤ e.2.1.since) []
/-- Whether a walk of core c is one of the 64 that its die's walker has in flight, counting walks of one page of one address
space as one (R99, R422). -/
def walkServed (s : State) (c : Nat) (w : Walk) : Bool :=
  let ps := ((dieWalks s (dieOf (groveOf c))).map fun e => e.2.2).eraseDups
  (ps.take 64).contains (walkAsid s c w, w.va / 4096)
/-- Core c's walk answered with a leaf, or with none: both TLBs hold the translation, or the bundle's context takes a page
fault (R41, R422, R426). -/
def walkAnswer (s : State) (c : Nat) (w : Walk) (found : Option TlbEntry) : State :=
  let s := s.setCore c { s.coreAt c with walk := none }
  let g := s.groveAt (groveOf c)
  let trap (code : Nat) : State :=
    setCause s c w.x ⟨7, 7, code, w.slot, w.va, if w.wr then (if w.rd then 2 else 1) else 0, 0⟩
  match found with
  | none => trap 1
  | some e =>
    if e.allows w then
      let s := s.setCore c { s.coreAt c with tlb := enter 256 e (s.coreAt c).tlb }
      s.setGrove (groveOf c) { g with tlb := enter 4096 e g.tlb }
    else trap 2
/-- Core c's walk has read a poisoned entry: its bundle's context takes the poison's class and code (R456, R459; DEDUCED, assumption
log 101). -/
def walkSpoiled (s : State) (c : Nat) (w : Walk) (cls code : Nat) : State :=
  setCause (s.setCore c { s.coreAt c with walk := none }) c w.x ⟨7, cls, code, w.slot, 0, 0, 0⟩
/-- WALK_COMPLETE: the grove TLB or the walker answers the miss of core a; a walk answers every core of the die that it has been
merged for (R99, R422). A grove TLB whose entry does not allow the access walks again (R423), and a walk waits while an
entry that it reads is held (R428). -/
def execWalkComplete (s : State) : Out :=
  let c := s.ev.a
  .next (match (s.coreAt c).walk with
    | none => s
    | some w =>
      match groveHit s c w with
      | some e => walkAnswer s c w (some e)
      | none =>
        let a := walkAsid s c w
        if !walkServed s c w || walkHeld s a w.va then s
        else
          let found := walk s a w.va
          let bad := walkPoison s a w.va
          ((dieWalks s (dieOf (groveOf c))).filter fun e => e.2.2 = (a, w.va / 4096)).foldl
            (fun s e => match bad with
              | some (cls, code) => walkSpoiled s e.1 e.2.1 cls code
              | none => walkAnswer s e.1 e.2.1 found) (walkCount s a w.va))

/-! ## Windows and drains (R106, R108) -/

/-- WS_WINDOW_END: a refresh window, or the drain a bundle met, is over, and the waiting accesses of core a go on. -/
def execWsWindowEnd (s : State) : Out :=
  let o := s.coreAt s.ev.a
  let s := if o.frzUntil ≠ 0 ∧ o.frzUntil ≤ s.time.toNat then s.setCore s.ev.a { o with frzUntil := 0 } else s
  .next ((List.range 9).foldl (fun (s : State) (x : Nat) =>
    let k := s.ctxAt s.ev.a x
    if k.frzUntil ≠ 0 ∧ k.frzUntil ≤ s.time.toNat then s.setCtx s.ev.a x { k with frzUntil := 0 } else s) s)

/-- PHASE_DRAIN_END: the drain of grove a is over: the leased cache is invalidated and the new split holds. Bytes that become
scratchpad have no content and are empty; bytes that become cache are lost. -/
def execPhaseDrainEnd (s : State) : Out :=
  let g := s.ev.a
  let k := s.groveAt g
  .next (match k.drain with
    | none => s
    | some d =>
      if s.time.toNat < d.till then s
      else
        let s := s.setGrove g { k with
          drain := none, size := d.size, phase := d.phase, spad := k.spad.drop d.size grovePitch, leased := [] }
        if k.size < d.size then blankSpad s g k.size (d.size - k.size) else s)

/-! ## Version copies (R350, R351) -/

/-- POOL_COPY_DONE: the copy of a version finishes, and the held write is performed: the access of the event. -/
def execPoolCopyDone (s : State) : Out := .next (performCopied s)
/-- HELD_WRITE_RELEASE: pool space has been freed, and the held write proceeds. -/
def execHeldWriteRelease (s : State) : Out := .next (performCopied s)

end Sys2Proof.Machine
end

