-- ==== Sys2Proof/Machine/JobEvents.lean ====
section
/-! DEFINITION. The events of copy jobs, window fetches and restores: one granule read or written, completion, and the
three ways a job's access fails (R111, R136, R244-R252, R298). An event that is not enabled leaves the state unchanged.
`State.ev` names core a, context b, the job at position c, granule d mod 2^32, and with f the granule's read. -/

namespace Sys2Proof.Machine
open Sys2Proof

/-! ## Where a job's accesses lead -/

/-- The checks of a place that a job reaches: doorbell pages (R395), a staged task's writes (R36), storage that does not
exist, and what holds its accesses (R366, R351). -/
def jobPlace (s : State) (p : Place) (len : Nat) (wr : Bool) : Option JobStep :=
  match p with
  | .bell .. => some (.fail (if s.staged && wr then 0x4E else 0x90))
  | _ =>
    let away : Bool := match p with | .host _ | .remote .. => true | _ => false
    if s.staged && wr && away then some (.fail 0x4E)
    else if p.hole len then some .hole
    else if drainBlocks s s.g p || placeWaits s p then some .wait
    else if wr && !s.tentative p && placeHeld s p then some .wait
    else none

/-! ## Reads -/

/-- Bytes read by a job at an address, or why not. -/
def jobReadMem (s : State) (va len : Nat) (h : HbmCheck) : Except JobStep (State × List Byte) :=
  match jobLeads s va len false with
  | .error e => .error e
  | .ok p =>
    match jobPlace s p len false with
    | some e => .error e
    | none =>
      let s := checkHbm (jobWalked s va) p h
      if refusedAway p h then .error (.bad s 11 0x10)
      else
        match taskPoison s p len with
        | some (c, e) => .error (.bad s c e)
        | none => .ok (touchTask s p, readTask s p len)

/-- A source of a granule read: bytes, or why not (R104, R245, R298, R352). -/
def jobReadSrc (s : State) (j : Job) (x : Src) (h : HbmCheck) : Except JobStep (State × List Byte) :=
  match x with
  | .mem va len => jobReadMem s va len h
  | .zero len => .ok (s, List.replicate len 0)
  | .ws off len => .ok (s, (List.range len).map fun i => wsByte s s.die (off + i))
  | .gen va len =>
    match jobLeads s va len true with
    | .error e => .error e
    | .ok (.dev pa) =>
      if placeWaits s (.dev pa) then .error .wait
      else
        let s := genCheck (jobWalked s va) (j.arg 0) pa h
        match genPoison s (j.arg 0) pa with
        | some (c, e) => .error (.bad s c e)
        | none => .ok (countLink s pa, (List.range len).map fun i => genByte s (j.arg 0) (pa + i))
    | .ok _ => .error (.fail 0x4F)

/-- The sources of a granule read: R120 and R136 leave them in no order, and the model reads them in one step, with no other party's write
between (DESIGN CHOICE, assumption log 110). -/
def jobReadSrcs (s : State) (j : Job) (h : HbmCheck) : List Src → Except JobStep (State × List Byte)
  | [] => .ok (s, [])
  | x :: t =>
    match jobReadSrc s j x h with
    | .error e => .error e
    | .ok (s, bs) =>
      match jobReadSrcs s j h t with
      | .error e => .error e
      | .ok (s, cs) => .ok (s, bs ++ cs)

/-- The block-table entry of a block read (R245). -/
def jobEntry (s : State) (j : Job) (b : Nat) (h : HbmCheck) : JobStep :=
  match jobReadMem s (j.entryAddr b) 4 h with
  | .error e => e
  | .ok (s, bs) => .done (mapJob s s.core s.ctx j.ord j.slot fun i => some { i with table := Map.set i.table b (leNat bs) })

/-- The footprint code of a pool block's bytes (R246). -/
def poolFoot (s : State) (save : List (Nat × Nat)) (xs : List Src) : Option Nat :=
  xs.findSome? fun x => match x with
    | .mem va len => footIn save s va len true false false
    | _ => none

/-- The cycle on which the refresh window of the die's weight store that a byte falls in ends (R64, R106). -/
def wsByteWindow (s : State) (off : Nat) : Option Nat :=
  let g := off / 1024 % 16
  let t := s.time.toNat
  let v := (t + 8192 - (s.dieAt s.die).phase.toNat - 256 * g) % 4096
  if v < 64 then some (t + (64 - v)) else none
/-- The cycle on which the refresh window that an access of at most a granule falls in ends: the access may reach two bank groups
(R106). -/
def wsWindow (s : State) (off len : Nat) : Option Nat := (wsByteWindow s off).or (wsByteWindow s (off + len - 1))

/-- Whether a granule's read must come after those of other granules: rows of a window in ascending order, a fill from
the weight store in ascending order (R106, R111). -/
def readInOrder (j : Job) (k : Nat) : Bool :=
  let got (i : Nat) : Bool := j.has i || (j.read? i).isSome
  match j.op with
  | .wsfill .. => (List.range k).all got
  | .wopen .. | .wadv .. => let n := j.arg 2 / 16; (List.range (k / n * n)).all got
  | _ => true

/-- Whether an earlier job of the same window still has rows to fetch (R111). -/
def windowWaits (s : State) (j : Job) : Bool :=
  match jobWindow j with
  | none => false
  | some w => s.me.jobs.any fun i =>
      jobWindow i = some w && (i.ord < j.ord || (i.ord = j.ord && i.slot < j.slot)) && !i.finished

/-- Whether the switches still hold a contribution of the context that acquires, of an atomic before a job (R129, R132). -/
def acquiring (s : State) (ord : Nat) : Bool :=
  s.redWins.any fun w => w.2.held.any fun n => n.c = ctxKey s.core s.ctx && n.acq && n.ord ≤ ord
/-- Whether the context still has an access to perform that precedes the job: one before it, or an acquiring atomic that is combined
(R129, R136). -/
def jobBehind (s : State) (j : Job) : Bool :=
  !edgeOpen s j.ord || acquiring s j.ord || s.me.accs.any fun a => a.ordered && a.ord ≤ j.ord

/-- The granule delivered in the job of a context (R247). -/
def deliver (s : State) (c x ord slot k : Nat) : State := mapJob s c x ord slot fun i => some (i.deliver k)
/-- Granule k of a job read into its engine; a block-table entry that it needs is read before it, by an access of its own (R120, R245). -/
def jobRead (s : State) (j : Job) (k : Nat) (h : HbmCheck) : JobStep :=
  let lead : Bool := match j.op with | .mcast .. => decide (s.me.rank = 0) | _ => true
  if j.tok.isSome || j.moving || !lead || j.count ≤ k || j.has k || (j.read? k).isSome || j.dropped k ||
      j.p + 256 ≤ k || jobBehind s j || windowWaits s j || !readInOrder j k then .wait
  else
    match j.unread k with
    | some b => jobEntry s j b h
    | none =>
      let xs := j.srcs (fun i => s.free (7300 + i)) k
      let gather : Bool := match j.op with | .gather .. => true | _ => false
      let ws := xs.findSome? fun x => match x with | .ws off len => wsWindow s off len | _ => none
      match ws with
      | some t => .done (s.freezeTill s.core s.ctx t)
      | none =>
        match if gather then poolFoot s j.save xs else none with
        | some c => .foot c
        | none =>
          match jobReadSrcs s j h xs with
          | .error e => e
          | .ok (s, bs) =>
            .done (mapJob s s.core s.ctx j.ord j.slot fun i => some { i with buf := i.buf ++ [(k, ofLe 128 bs)] })

/-! ## Writes -/

/-- Whether earlier operations of the context on the matrix unit or the engine still read a slot. -/
def slotRead (s : State) (c x ord n : Nat) : Bool :=
  let k := s.coreAt c
  k.matOps.any (fun o => o.x = x && o.ord ≤ ord && (matSlots o.op o.pa o.pb).contains n) ||
    k.engOps.any fun o => o.x = x && o.ord ≤ ord && (engSlots o).contains n
/-- Bytes written into an operand slot that no other context holds on a core (R117): an attempt that has failed holds it no more, and
its fill and the FWCHUNK that waits for it go on (R65, R277). -/
def writeSlot (s : State) (c n off : Nat) (bs : List Byte) : State :=
  let k := s.coreAt c
  s.setCore c { k with slots := Vector.ofFn fun (i : Fin 16) =>
    let o := k.slots[i.val]
    if i.val = n ∧ (o.holder = some s.ctx ∨ o.holder = none) then { o with data := putBytes o.data off bs } else o }
/-- The bytes that a mask selects of a granule, taken in turn from `bs`; `i` counts from 0. -/
def spread (m : BitVec 16) (bs : List Byte) (i : Nat) : Nat → List (Option Byte)
  | 0 => []
  | n + 1 =>
    if m.getLsbD i then some (bs.headD 0) :: spread m (bs.drop 1) (i + 1) n else none :: spread m bs (i + 1) n
/-- The cores whose slot a fill writes: every core of the gang for MCAST (R252). -/
def fillCores (s : State) (j : Job) : List Nat :=
  match j.op with | .mcast .. => mates s s.core s.ctx | _ => [s.core]

/-- The footprint code of the pool bytes that granule k of a SCATTER writes (R246). -/
def scatFoot (s : State) (j : Job) (k : Nat) : Option Nat :=
  match j.op with
  | .scatter .. => (j.partRuns (fun _ => 0) k).findSome? fun x => footIn j.save s x.1 x.2.1 false true false
  | _ => none

/-- Granule k of a job, already read, written. -/
def jobWrite (s : State) (j : Job) (k : Nat) (h : HbmCheck) : JobStep :=
  match j.read? k with
  | none => .wait
  | some x =>
    if j.tok.isSome || j.moving then .wait
    else
      match scatFoot s j k with
      | some c => .foot c
      | none =>
        match j.dst k with
        | .nothing => .done (deliver s s.core s.ctx j.ord j.slot k)
        | .slot n off len =>
          let cs := fillCores s j
          if cs.any fun c => slotRead s c s.ctx j.ord n then .wait
          else .done (cs.foldl (fun (s : State) (c : Nat) =>
            deliver (writeSlot s c n off (leBytes len x.toNat)) c s.ctx j.ord j.slot k) s)
        | .part va m =>
          match jobLeads s va 16 true with
          | .error e => e
          | .ok p =>
            match jobPlace s p 16 true with
            | some e => e
            | none =>
              let s := checkHbm (jobWalked s va) p .clean
              if refusedAway p h then .bad s 11 0x10
              else
                let s := writePart s p (spread m (leBytes 16 x.toNat) 0 16) j.ord j.slot
                let s := if j.setsFull then markFull s p true else s
                .done (deliver s s.core s.ctx j.ord j.slot k)
        | .ws off len =>
          match wsWindow s off len with
          | some t => .done (s.freezeTill s.core s.ctx t)
          | none =>
            let d := s.dieAt s.die
            let s := if s.discards then s
              else s.setDie s.die { d with ws := setBytes d.ws off ((leBytes len x.toNat).map some) }
            .done (deliver s s.core s.ctx j.ord j.slot k)
        | .mem va len =>
          match jobLeads s va len true with
          | .error e => e
          | .ok p =>
            match jobPlace s p len true with
            | some e => e
            | none =>
              let s := checkHbm (jobWalked s va) p .clean
              if refusedAway p h then .bad s 11 0x10
              else
                let s := writePart s p ((leBytes len x.toNat).map some) j.ord j.slot
                let s := if j.setsFull then markFull s p true else s
                .done (deliver s s.core s.ctx j.ord j.slot k)

/-! ## Signals and host lines (R251, R252) -/

/-- The read-modify-write of RSIG's operation. -/
def sigKind : SigOp → AtomKind
  | .store => .xchg | .add => .add | .umax => .maxn

/-- Whether an RSIG's earlier accesses, jobs and contributions have all been performed (R251). -/
def sigReady (s : State) (j : Job) (sc : Scope) : Bool :=
  !jobBehind s j && releaseReady s j.ord sc &&
    s.me.jobs.all fun i => i.ord ≠ j.ord || j.slot ≤ i.slot || i.finished

/-- RSIG's signal write performed at its home, or refused there (R435); one that is combined waits for its merged write (R132, R250). A
store reads nothing, and so meets no poison (R456). -/
def jobSignal (s : State) (j : Job) (sc : Scope) (op : SigOp) (h : HbmCheck) : JobStep :=
  if j.tok.isSome || j.moving || !sigReady s j sc then .wait
  else
    match jobLeads s (j.arg 0) 8 true with
    | .error e => e
    | .ok p =>
      match jobPlace s p 8 true with
      | some e => e
      | none =>
        let s := checkHbm (jobWalked s (j.arg 0)) p h
        if refusedAway p h then .bad s 11 0x10
        else
          match (if op = .store then none else poisonOf s p) with
          | some (c, e) => .bad s c e
          | none =>
            let s := meetScope s sc
            let s := if sc = .system then sysRelease s p else s
            match redWindow s p with
            | some w =>
              let s := contribute s w ⟨sigKind op, 8, p.addr, j.arg 1, ctxKey s.core s.ctx, s.time.toNat, s.asid, 0, j.ord, false, false⟩
              .done (mapJob s s.core s.ctx j.ord j.slot fun i => some { i with moving := true })
            | none =>
              let s := match rmw (sigKind op) 8 (leNat (readTask s p 8)) (j.arg 1) 0 with
                | some v => writeTask s p ((leBytes 8 v).map some)
                | none => s
              .done (deliver s s.core s.ctx j.ord j.slot 0)

/-- The combined signals of contexts whose contributions have all been merged and written are performed (R250). -/
def settleSignals (s : State) : State :=
  let out (k : Nat) : Bool := s.redWins.any fun w => w.2.held.any fun c => c.c = k
  { s with ctxs := s.ctxs.map fun e =>
      if out e.1 then e
      else (e.1, { e.2 with jobs := e.2.jobs.map fun j => match j.op with
        | .rsig .. => if j.moving then { j.deliver 0 with moving := false } else j
        | _ => j }) }

/-- The places that a range of addresses leads to, page by page, with the bytes there. -/
def rangeSpans (s : State) (va len : Nat) : List (Place × Nat) :=
  (List.range ((va % 4096 + len + 4095) / 4096)).filterMap fun i =>
    let lo := Nat.max va ((va / 4096 + i) * 4096)
    let hi := Nat.min (va + len) ((va / 4096 + i + 1) * 4096)
    match jobLeads s lo 1 false with
    | .ok p => some (p, hi - lo)
    | .error _ => none
/-- The walks for the pages of a job's range (R446). -/
def rangeWalked (s : State) (j : Job) : State := (pagesOf (j.arg 0) (j.arg 1)).foldl jobWalked s
/-- Whether a walk for a page of a job's range must wait. -/
def rangeHeld (s : State) (j : Job) : Bool :=
  (pagesOf (j.arg 0) (j.arg 1)).any fun a => match jobLeads s a 1 false with | .error .wait => true | _ => false
/-- CINV's job: its range's lines leave the grove's leased cache (R252). -/
def jobInval (s : State) (j : Job) : State :=
  let spans := (rangeSpans s (j.arg 0) (j.arg 1)).filterMap fun r => match r with | (.dev pa, n) => some (pa, n) | _ => none
  let k := s.myGrove
  let s := s.setGrove s.g { k with leased := k.leased.filter fun e => !spans.any fun r => overlap (128 * e.line) 128 r.1 r.2 }
  deliver s s.core s.ctx j.ord j.slot 0
/-- CFLUSH's job: its range's lines leave every pending set, written back (R252). -/
def jobFlush (s : State) (j : Job) : State :=
  let spans := (rangeSpans s (j.arg 0) (j.arg 1)).filterMap fun r => match r with | (.host a, n) => some (a, n) | _ => none
  let inside (l : Nat) : Bool := spans.any fun r => overlap (64 * l) 64 r.1 r.2
  let s := { s with dies := s.dies.map fun d => (d.1, { d.2 with
    pending := d.2.pending.map fun e => (e.1, e.2.filter fun l => !inside l) }) }
  deliver s s.core s.ctx j.ord j.slot 0

/-- One access of a job: the granule's read or write, or the whole of a job without granules. -/
def jobStep (s : State) (j : Job) (k : Nat) (rd : Bool) (h : HbmCheck) : JobStep :=
  match j.op with
  | .rsig _ sc op _ _ => jobSignal s j sc op h
  | .cflush .. => if jobBehind s j || rangeHeld s j then .wait else .done (jobFlush (rangeWalked s j) j)
  | .cinv .. => if jobBehind s j || rangeHeld s j then .wait else .done (jobInval (rangeWalked s j) j)
  | _ => if rd then jobRead s j k h else jobWrite s j k h

/-! ## The events -/

/-- The event's job, in the state that acts for its context. -/
def jobEv (s : State) : Option (State × Job) :=
  let t := s.atEv
  (t.me.jobs[t.ev.c]?).map fun j => (t, j)
/-- What the event's access comes to. -/
def jobOutcome (s : State) : Option (State × Job × JobStep) :=
  (jobEv s).map fun r => (r.1, r.2, jobStep r.1 r.2 (s.ev.d % 2 ^ 32) s.ev.f (hbmCheck (s.ev.d / 2 ^ 32)))

/-- JOB_GRANULE_WRITE: one granule access of a job is performed. -/
def execJobGranuleWrite (s : State) : Out :=
  match jobOutcome s with
  | some (_, _, .done t) => .next t
  | some (_, _, .hole) => .fault .noDeviceMemory
  | _ => .next s

/-- JOB_PAGE_FAULT: the job is suspended on a token, or fails where no pager serves the page (R247, R425, R426). -/
def execJobPageFault (s : State) : Out :=
  .next (match jobOutcome s with
    | some (t, j, .page va acc code) =>
      if t.me.st = .ending then jobFail t t.core t.ctx j.ord j.slot 7 code else
      match upcall t t.asid va 1 acc code (.job t.core t.ctx j.ord j.slot code) with
      | (u, some n) => mapJob u t.core t.ctx j.ord j.slot fun i => some { i with tok := some n }
      | (u, none) => jobFail u t.core t.ctx j.ord j.slot 7 code
    | _ => s)

/-- JOB_DATA_ERROR: the job has read poisoned data: it ends and its task takes the class (R248). -/
def execJobDataError (s : State) : Out :=
  .next (match jobOutcome s with
    | some (_, j, .bad t c e) => jobFail t t.core t.ctx j.ord j.slot c e
    | _ => s)

/-- JOB_FOOTPRINT_FAULT: a pool block fails the footprint check, or the engine reaches memory that the job may not
reach: the job ends and its task fails (R36, R246, R298, R395). -/
def execJobFootprintFault (s : State) : Out :=
  .next (match jobOutcome s with
    | some (t, j, .foot c) => jobFail t t.core t.ctx j.ord j.slot 6 c
    | some (t, j, .fail e) => jobFail t t.core t.ctx j.ord j.slot 3 e
    | _ => s)

/-- The slot that a completed fill no longer fills. -/
def endFill (s : State) (c : Nat) (j : Job) : State :=
  let k := s.coreAt c
  let f (i : Fin 16) : OpSlot :=
    let o := k.slots[i.val]
    if fillOf j = some i.val ∧ o.fill = some j.ord then { o with fill := none } else o
  s.setCore c { k with slots := Vector.ofFn f }

/-- A context that waited for a suspended job, or for room among its jobs, goes on once that job, or any job, completes (R243,
R247). -/
def jobWakes (s : State) (c x : Nat) (j : Job) : State :=
  let k := s.ctxAt c x
  if k.st = .parked ∧ (k.wait = .jobs none ∨ k.wait = .jobs (some (j.ord, j.slot))) then wake s c x else s
/-- A yield-wait job's context becomes ready; a gang's through GANG_RESUME (R31, R39). -/
def jobReadies (s : State) (c x : Nat) (j : Job) : State :=
  let k := s.ctxAt c x
  if k.ywJob ≠ some j.ord ∨ k.jobs.any (fun i => i.ord = j.ord && i.yw) then s
  else if k.gang then s.setCtx c x { k with ywJob := none }
  else
    let run : Bool := k.st = .running && (s.coreAt c).current ≠ some x
    let since := if run && !k.ready then (s.coreAt c).cyc else k.since
    selectCtx (s.setCtx c x { k with ywJob := none, ready := k.ready || run, since := since }) c

/-- JOB_COMPLETE: the job has performed all its writes: its slot holds its data, waiters go on, and a dropped generation
whose last restore it was is freed (R250, R297). -/
def execJobComplete (s : State) : Out :=
  .next (match jobEv s with
    | none => s
    | some (t, j) =>
      if !j.finished then s
      else
        let c := t.core
        let x := t.ctx
        let s := endFill (mapJob s c x j.ord j.slot fun _ => none) c j
        let s := match j.op with
          | .groll .. => if (s.genAt (j.arg 0)).dropped && !rollOut s (j.arg 0) then freeGen s (j.arg 0) else s
          | _ => s
        freeEnded (jobReadies (jobWakes s c x j) c x j))

end Sys2Proof.Machine
end

