-- ==== Sys2Proof/Machine/UnitEvents.lean ====
section
/-! DEFINITION. The events of the matrix unit and the outer-product engine (R260, R261, R272, R281), of the cambium pager
(R325-R327) and of the generation controller (R349, R353). An event that is not enabled leaves the state unchanged. -/

namespace Sys2Proof.Machine
open Sys2Proof

/-! ## The matrix unit and the engine of core a -/

/-- MATRIX_OP_START: the oldest queued operation whose dependences are met starts (R260). -/
def execMatrixOpStart (s : State) : Out := .next (if coreFrozen s s.ev.a then s else (matStart s s.ev.a).getD s)
/-- MATRIX_OP_COMPLETE: an operation that can complete, that at position b of those started, writes its tile and
sets its flags (R61, R260, R261). A freeze stops the matrix unit with its core (R109, R263). -/
def execMatrixOpComplete (s : State) : Out :=
  let k := s.coreAt s.ev.a
  .next (match k.mrun[s.ev.b]? with
    | some r => if matCan k r && !coreFrozen s s.ev.a then matFinish s s.ev.a r.1 else s
    | none => s)
/-- FW_OP_START: the engine's oldest operation starts (R272, R304). -/
def execFwOpStart (s : State) : Out := .next ((engStart s s.ev.a).getD s)
/-- An uncorrectable error that the engine's operation meets in the cambium store: the first unit it reads is poisoned
(R280, R457). -/
def spoilUnit (s : State) (c : Nat) : State :=
  match (s.coreAt c).erun with
  | none => s
  | some (o, _) =>
    match lookHandle s ((s.groveAt (groveOf c)).part) (if engHandleOp o.op then o.srcs.headD o.handle else o.handle) with
    | none => s
    | some (ob, us) =>
      match us[if engHandleOp o.op then 0 else o.tile * ob.tileBytes / 1024]? with
      | some u => { s with badUnits := u :: s.badUnits.filter (· ≠ u) }
      | none => s
/-- FW_OP_COMPLETE: the engine's operation completes and writes its results (R276-R281, R304), or room is sought that it lacks
(R321, R326); with f it meets an uncorrectable error (DESIGN CHOICE, assumption log 21). -/
def execFwOpComplete (s : State) : Out :=
  .next (if engDue s s.ev.a then engFinish (if s.ev.f then spoilUnit s s.ev.a else s) s.ev.a else engSeek s s.ev.a)

/-! ## The cambium pager (R325-R328) -/

/-- Room made for a raise in an object's charge: it is reserved, and the context goes on (R327). A raise that has changed while its context
waits is taken as it now stands, and where it does not fit room is sought for it. -/
def reserveRaise (s : State) (key n : Nat) : State :=
  match s.obj? key with
  | none => s
  | some o =>
    match o.roomFor[n]?, o.wh with
    | some w, .resident chip g =>
      let need := waiterNeed s w
      let put (got : Bool) : Obj := { o with roomFor := o.roomFor.set n { w with need, got }, extra := if got then o.extra + need else o.extra }
      if w.got then s
      else if 4096 < usedCharge s chip g + need then (if need = w.need then s else evictFor (s.setObj key (put false)) chip g key)
      else
        let o := put true
        wake (s.setObj key o) w.c w.x
    | _, _ => s
/-- ROOM_RESERVED: object a's move has its room, and its copy begins (R326); with f, the waiter at position b has the
room its raise needs (R327). -/
def execRoomReserved (s : State) : Out :=
  let key := s.ev.a
  .next (if s.ev.f then reserveRaise s key s.ev.b
    else if roomReady s key then
      match s.obj? key with
      | some o => s.setObj key { o with res := true, held := 0 }
      | none => s
    else s)
/-- An object that leaves for another package is sent there, in flits (R332, R433). -/
def sendObject (s : State) (key : Nat) : State :=
  match s.obj? key with
  | some o =>
    match o.wh with
    | .moving c _ c' _ =>
      if c = s.chip ∧ c' ≠ c then
        sendMessage s c' (flitParts ((o.live ++ o.snaps.flatMap (·.2)).eraseDups.flatMap fun n =>
          leBytes 1024 (Map.at_ s.units n 0).toNat))
      else s
    | _ => s
  | none => s
/-- MOVE_COMPLETE: the copy of object a completes, its source units are freed and its waiters are woken (R325). -/
def execMoveComplete (s : State) : Out := .next (if moveReady s s.ev.a then moveDone (sendObject s s.ev.a) s.ev.a else s)

/-! ## Generations (R349, R353) -/

/-- The highest write timestamp that any slice has issued. -/
def highestTs (s : State) : Nat := s.lines.foldl (fun n e => Nat.max n e.2.1) s.floor
/-- SNAP_CUT_COMPLETE: the cut of generation a is one above the highest write timestamp, every floor is raised to it, and
the generation is Live (R349). A write takes its timestamp as it is performed, so none at or below the cut is left. -/
def execSnapCutComplete (s : State) : Out :=
  let n := s.ev.a
  let k := s.genAt n
  let t := highestTs s + 1
  .next (if k.st = .cutting then { s.setGen n { k with st := .live, cut := t } with floor := Nat.max s.floor t } else s)

/-- The bytes of a granule as a generation holds it. -/
def genGranule (s : State) (n g : Nat) : BitVec 32768 :=
  ofLe 32768 ((List.range 4096).map fun i => genByte s n (g * 4096 + i))
/-- The poison a drain meets in a granule of a generation (R353). -/
def granulePoison (s : State) (n g : Nat) : Option (Nat × Nat) :=
  (List.range 64).findSome? fun i => genPoison s n (g * 4096 + 64 * i)
/-- A granule written to a checkpoint target (R353, R432). -/
def Target.put (t : Target) (g : Nat) (x : BitVec 32768) (p : Option (Nat × Nat)) : Target :=
  { t with
    data := (t.data.filter fun d => d.1 ≠ g) ++ [(g, x)]
    bad := (t.bad.filter fun d => d.1 ≠ g) ++ (match p with | some (c, e) => [(g, c * 65536 + e)] | none => []) }
/-- The granules of a target's scope that a generation covers, by their position in it: those of the pool and of frames retired from it
are not versioned (R348, R432). -/
def scopeGrans (s : State) (t : Target) : List Nat :=
  (List.range (Nat.min (t.slen / 4096) (devSize / 4096 - t.sbase / 4096))).filter fun i => versioned s (t.sbase / 4096 + i)
/-- CKPT_GRANULE_WRITE: the drain of generation a writes its next granule, in ascending physical address, with the outcome d of the check
of its block b (R353, R455). A granule that its controller holds waits (R354, R446, R459). -/
def execCkptGranuleWrite (s : State) : Out :=
  let n := s.ev.a
  let k := s.genAt n
  .next (match Map.get? s.targets k.target with
    | none => s
    | some t =>
      match (scopeGrans s t)[k.done]? with
      | none => s
      | some i =>
        let g := t.sbase / 4096 + i
        if k.st ≠ .draining ∨ spanWaits s (g * 4096) 4096 then s
        else
          let s := (List.range 32).foldl (fun s i => countLink s (g * 4096 + 128 * i)) s
          let s := genCheck s n (g * 4096 + 64 * (s.ev.b % 64)) (hbmCheck s.ev.d)
          let p := granulePoison s n g
          let x := genGranule s n g
          let s := { s with targets := Map.set s.targets k.target (t.put g x p) }
          let s := if t.host then
              { s with hostMem := setBytes s.hostMem (t.base + 4096 * i) ((leBytes 4096 x.toNat).map some) } else s
          s.setGen n { k with done := k.done + 1, poisoned := k.poisoned || p.isSome })
/-- CKPT_DRAIN_COMPLETE: every granule of generation a's scope has been written: it draws on its target, and the pool
copies that no other generation draws are freed (R353, R355). -/
def execCkptDrainComplete (s : State) : Out :=
  let n := s.ev.a
  let k := s.genAt n
  .next (match Map.get? s.targets k.target with
    | none => s
    | some t =>
      if k.st = .draining ∧ (scopeGrans s t).length ≤ k.done then
        freeCopies (s.setGen n { k with st := if k.poisoned then .failed else .checkpointed })
      else s)

end Sys2Proof.Machine
end

