-- ==== Sys2Proof/Machine/Launch.lean ====
section
/-! DEFINITION. Launches: the front end's reads (R391, R455), the kernel image and its checks (R377-R386), signatures and
measurement (R441-R443), the checks and waits of R405, admission, and the end of an instance (R16, R408, R465). -/

namespace Sys2Proof.Machine
open Sys2Proof

/-! ## Reads of the front end -/

/-- Bytes of a queue's address space from `va`, block by block; `none` where a page faults or the data is poisoned. -/
def feReadGo (s : State) (asid : Nat) : Nat → Nat → Nat → Option (List Byte)
  | 0, _, _ => some []
  | n + 1, va, len =>
    if len = 0 then some []
    else
      let k := Nat.min len (64 - va % 64)
      match feResolve s asid va true false with
      | .error _ => none
      | .ok p =>
        if feSpoiled s p then none
        else (feReadGo s asid n (va + k) (len - k)).map fun t => readPlace s p k ++ t
/-- `len` bytes from `va`. -/
def feRead (s : State) (asid va len : Nat) : Option (List Byte) := feReadGo s asid (len / 64 + 2) va len

/-- The first block of `len` bytes from `va` whose read faults or returns uncorrectable data. -/
def feBad (s : State) (asid va len : Nat) : Option Nat :=
  (((List.range (len / 64 + 2)).map fun i => Nat.max va (64 * (va / 64 + i))).filter (· < va + len)).find? fun a =>
    match feResolve s asid a true false with
    | .error _ => true
    | .ok p => feSpoiled s p
/-- The `n`-byte number at an offset of bytes. -/
def numAt (bs : List Byte) (off n : Nat) : Nat := leNat ((bs.drop off).take n)
/-- The bytes [off, off + n). -/
def bytesAt (bs : List Byte) (off n : Nat) : List Byte := (bs.drop off).take n

/-- The reads of `len` bytes from `va` take their places in the memory order (R122, R391). -/
def feTouch (s : State) (asid va len : Nat) : State :=
  (pageParts va len).foldl (fun s x => match feResolve s asid x.2.1 true false with
    | .ok p => outRead (sendTo s p) p x.2.2
    | .error _ => s) s

/-! ## The image (R377-R384) -/

/-- The next 64-byte boundary. -/
def align64 (n : Nat) : Nat := (n + 63) / 64 * 64
/-- Where the sections of an image begin (R377). -/
structure Sections where
  groves : Nat
  dict : Nat
  code : Nat
  types : Nat
  safes : Nat
  plan : Nat
  watches : Nat
  sign : Nat
  deriving DecidableEq, Repr

/-- NGROVE, DICTLEN, NTYPE, NWATCH, NSAFE, CODELEN of a header (R378). -/
def hGroves (h : List Byte) : Nat := numAt h 0x0C 1
/-- NPHASE. -/
def hPhases (h : List Byte) : Nat := numAt h 0x0D 1
/-- WS. -/
def hWs (h : List Byte) : Nat := nbits (numAt h 0x0C 4) 16 2
/-- NTYPE. -/
def hTypes (h : List Byte) : Nat := numAt h 0x10 2
/-- DICTLEN. -/
def hDict (h : List Byte) : Nat := numAt h 0x12 2
/-- NSAFE. -/
def hSafes (h : List Byte) : Nat := numAt h 0x14 2
/-- NWATCH. -/
def hWatches (h : List Byte) : Nat := numAt h 0x16 2
/-- CODELEN. -/
def hCode (h : List Byte) : Nat := numAt h 0x18 8
/-- TIMED. -/
def hTimed (h : List Byte) : Bool := numAt h 0x08 4 % 2 = 1

/-- The sections of an image with a header. -/
def sectionsOf (h : List Byte) : Sections :=
  let dict := align64 (128 + hGroves h)
  let code := align64 (dict + 48 * hDict h)
  let types := align64 (code + 2 * hCode h)
  let safes := align64 (types + 528 * hTypes h)
  let plan := align64 (safes + 16 * hSafes h)
  let watches := align64 (plan + 32)
  let ro := align64 (watches + 64 * hWatches h)
  let data := align64 (ro + numAt h 0x40 8)
  ⟨128, dict, code, types, safes, plan, watches, align64 (data + numAt h 0x48 8)⟩

/-- Whether a segment's virtual base is well formed (R378). -/
def segOk (va len : Nat) : Bool := va % 65536 = 0 && decide (va < 2 ^ 57) && (len ≠ 0 || va = 0)

/-- Whether a header keeps R378. -/
def headerOk (h : List Byte) : Bool :=
  numAt h 0 4 = 0x4B4C5A41 && numAt h 4 2 = 1 && numAt h 6 2 = 1 && decide (numAt h 8 4 < 2) &&
    nbits (numAt h 0x0C 4) 18 14 = 0 && decide (hWs h ≤ 2) && decide (1 ≤ hPhases h) && decide (hPhases h ≤ 16) &&
    decide (1 ≤ hGroves h) && decide (hGroves h ≤ 96) && decide (1 ≤ hDict h) && decide (hDict h ≤ 8192) &&
    decide (1 ≤ hTypes h) && decide (hWatches h ≤ 1024) && decide (1 ≤ hCode h) && decide (hCode h ≤ 2 ^ 32) &&
    (hTimed h || (numAt h 0x20 8 = 0 && numAt h 0x28 8 = 0)) && segOk (numAt h 0x30 8) (numAt h 0x40 8) &&
    segOk (numAt h 0x38 8) (numAt h 0x48 8) && (bytesAt h 0x50 0x30).all (· = 0)

/-- Whether a footprint region's 64 bytes keep R380; one beyond NREG is zero in every byte. -/
def regionOk (b : List Byte) (used : Bool) : Bool :=
  if used then
    decide (1 ≤ numAt b 0x28 8) && decide (numAt b 0x28 8 ≤ 2 ^ 56) && decide (numAt b 0x30 8 < 8) &&
      numAt b 0x30 8 % 4 ≠ 0 && numAt b 0x38 8 = 0
  else b.all (· = 0)
/-- A footprint region of a type (R380). -/
def regionRead (b : List Byte) : RegionTy :=
  let w (o : Nat) : W64 := BitVec.ofNat 64 (numAt b o 8)
  ⟨w 0, w 8, w 16, w 24, w 32, numAt b 0x28 8, BitVec.ofNat 2 (numAt b 0x30 8), decide (numAt b 0x30 8 / 4 % 2 = 1)⟩

/-- The fixed part's word at 0x04 of a type entry. -/
def tWord (b : List Byte) : Nat := numAt b 4 4
/-- The word at 0x08. -/
def tWord2 (b : List Byte) : Nat := numAt b 8 4
/-- NREG. -/
def tRegions (b : List Byte) : Nat := nbits (tWord2 b) 24 4
/-- The regions in use of a type entry. -/
def typeRegions (b : List Byte) : List RegionTy :=
  (List.range (tRegions b)).map fun r => regionRead (bytesAt b (16 + 64 * r) 64)
/-- A task type (R379). -/
def typeRead (b : List Byte) : TaskType :=
  let f (lo len : Nat) : Nat := nbits (tWord b) lo len
  { entry := BitVec.ofNat 32 (numAt b 0 4)
    key := match f 12 3 with
      | 1 => .coord (Fin.ofNat 4 (f 16 2)) | 2 => .pair (Fin.ofNat 3 (f 16 2)) | 3 => .arg | _ => .none
    route := match f 18 2 with
      | 0 => .fixed (nbits (tWord2 b) 16 7) | 1 => .coord (Fin.ofNat 4 (f 20 2)) (f 22 5) | 2 => .key | _ => .creator
    skew := f 8 4
    gang := decide (f 7 1 = 1)
    staged := decide (f 6 1 = 1)
    role := match f 4 2 with | 0 => .loader | 1 => .compute | _ => .epilogue
    aDem := 2 ^ f 2 2
    vDem := 8 * 2 ^ f 0 2
    spad := nbits (tWord2 b) 0 16
    regions := typeRegions b }
/-- Whether a type entry keeps R379, R380 and the staging limit of R141. -/
def typeOk (b : List Byte) (ngrove code : Nat) : Bool :=
  let f (lo len : Nat) : Nat := nbits (tWord b) lo len
  let g (lo len : Nat) : Nat := nbits (tWord2 b) lo len
  let t := typeRead b
  decide (numAt b 0 4 < code) && f 27 5 = 0 && f 15 1 = 0 && decide (f 12 3 ≤ 3) && decide (f 4 2 ≤ 2) &&
    decide (f 0 2 ≤ 2) && (f 12 3 ≠ 2 || f 16 2 ≠ 3) && (t.gang || t.skew = 0) &&
    (f 18 2 = 1 || (f 20 2 = 0 && f 22 5 = 0)) && (f 12 3 = 1 || f 12 3 = 2 || f 16 2 = 0) &&
    g 28 4 = 0 && g 23 1 = 0 && decide (g 24 4 ≤ 8) && decide (g 0 16 ≤ 2048) && numAt b 12 4 = 0 &&
    (if f 18 2 = 0 then decide (g 16 7 < ngrove) else g 16 7 = 0) &&
    (List.range 8).all (fun r => regionOk (bytesAt b (16 + 64 * r) 64) (decide (r < g 24 4))) &&
    decide (stagedDemand t ≤ 2 ^ 20)

/-- A safe-point entry (R381). -/
def safeRead (b : List Byte) : SafePt :=
  ⟨BitVec.ofNat 32 (numAt b 0 4), BitVec.ofNat 32 (numAt b 4 4), BitVec.ofNat 32 (numAt b 8 4), numAt b 12 2⟩
/-- Whether safe-point entries keep R381: addresses in the code, in strictly ascending order, and the size it gives. -/
def safesOk (bs : List (List Byte)) (code size : Nat) : Bool :=
  let sps := bs.map safeRead
  bs.all (fun b => numAt b 14 2 = 0) &&
    sps.all (fun p => decide (p.addr.toNat < code) && decide (p.save.toNat < code) && decide (p.restore.toNat < code) &&
      p.size = size) &&
    (sps.zip (sps.drop 1)).all fun p => decide (p.1.addr.toNat < p.2.addr.toNat)

/-- Whether a list has no repeats. -/
def distinct : List Nat → Bool
  | [] => true
  | a :: t => !t.contains a && distinct t

/-- Entry i of a section of entries of `size` bytes. -/
def entryAt (bs : List Byte) (base size i : Nat) : List Byte := bytesAt bs (base + size * i) size
/-- The type entries of an image. -/
def typeEntries (bs : List Byte) : List (List Byte) :=
  (List.range (hTypes bs)).map fun i => entryAt bs (sectionsOf bs).types 528 i
/-- The watch descriptors of an image. -/
def watchEntries (bs : List Byte) : List (BitVec 512) :=
  (List.range (hWatches bs)).map fun i => ofLe 512 (entryAt bs (sectionsOf bs).watches 64 i)
/-- The grove set of an image. -/
def grovesOf (bs : List Byte) : List Nat := (List.range (hGroves bs)).map fun i => numAt bs (128 + i) 1

/-- Whether an image keeps R386. -/
def imageOk (bs : List Byte) : Bool :=
  let k := sectionsOf bs
  let code := hCode bs
  let types := typeEntries bs
  let spad := (types.map fun b => (typeRead b).spad).foldl Nat.max 0
  let phases := (List.range 16).map fun i => numAt bs (k.plan + 2 * i) 2
  headerOk bs && (grovesOf bs).all (fun g => decide (g ≤ 95)) && distinct (grovesOf bs) &&
    types.all (fun b => typeOk b (hGroves bs) code) &&
    safesOk ((List.range (hSafes bs)).map fun i => entryAt bs k.safes 16 i) code (spad + 48) &&
    (phases.take (hPhases bs)).all (fun n => decide (n ≤ 16)) && (phases.drop (hPhases bs)).all (· = 0) &&
    (watchEntries bs).all fun d => (watchDescBad d (hTypes bs)).isNone

/-- An image as the front end uses it. -/
def imageRead (bs : List Byte) : Image :=
  let k := sectionsOf bs
  { groves := grovesOf bs
    dict := (List.range (hDict bs)).map fun i => ofLe 384 (entryAt bs k.dict 48 i)
    code := (List.range (hCode bs)).map fun i => BitVec.ofNat 16 (numAt bs (k.code + 2 * i) 2)
    types := (typeEntries bs).map typeRead
    safes := (List.range (hSafes bs)).map fun i => safeRead (entryAt bs k.safes 16 i)
    phases := (List.range (hPhases bs)).map fun i => numAt bs (k.plan + 2 * i) 2
    ws := hWs bs
    watches := watchEntries bs
    timed := hTimed bs
    wcyc := numAt bs 0x20 8
    fbud := numAt bs 0x28 8 }

/-! ## Signatures and measurement (R441-R443) -/

/-- Whether a signature block of 3,456 bytes names a key slot that is provisioned and not revoked, has every reserved byte zero, and holds
two signatures of a message that verify under it (R441, R442). -/
def signedUnder (s : State) (slot : Nat) (msg sig : List Byte) : Bool :=
  numAt sig 0 4 = 0x4B534741 && numAt sig 4 4 = slot && Map.at_ s.keySlots slot false && (bytesAt sig 0x0C 0x34).all (· = 0) &&
    (bytesAt sig 0xD6D 0x13).all (· = 0) && Config.edVerifies slot msg (bytesAt sig 0x40 64) &&
    Config.mlVerifies slot msg (bytesAt sig 0x80 3309)
/-- Whether a signature block over a message passes R442 for a kernel image: its SVN is zero. -/
def signatureOk (s : State) (msg sig : List Byte) : Bool :=
  let slot := numAt sig 4 1 % 16
  decide (1 ≤ slot) && decide (slot ≤ 7) && numAt sig 8 4 = 0 && signedUnder s slot msg sig

/-- The number under which a digest is recorded for an image address. -/
def imageKey (asid va : Nat) : Nat := asid * 2 ^ 64 + va
/-- Heartwood's verdict on an image at an address: verified at its first admission after boot and whenever its bytes differ
from the digest recorded there; MEAS3 is extended at the first acceptance of each image (R442, R443). -/
def acceptImage (s : State) (asid va : Nat) (bs : List Byte) : Option State :=
  let n := (sectionsOf bs).sign
  let d := Config.sha384 (bs.take n)
  if Map.get? s.digests (imageKey asid va) = some d then some s
  else if signatureOk s (bs.take n) (bytesAt bs n 3456) then
    let s := { s with digests := Map.set s.digests (imageKey asid va) d }
    some (if s.accepted.contains d then s else { extendMeas s 3 d with accepted := s.accepted ++ [d] })
  else none

/-! ## The checks of R405 -/

/-- What a launch names, read. -/
structure Launched where
  img : Image
  base : W64
  limit : W64
  off : W64
  saveBase : Nat
  saveLen : Nat
  ids : Nat
  flags : Nat
  recs : List Rec
  deriving DecidableEq, Repr

/-- A record of 32 bytes. -/
def recBytes (b : List Byte) : Rec := recOf ((List.range 4).map fun i => BitVec.ofNat 64 (numAt b (8 * i) 8))

/-- Whether the launch block's reserved bits are zero, those of its heap triple included (R59, R404). -/
def blockOk (b : List Byte) : Bool :=
  numAt b 0 8 % 4096 = 0 && decide (numAt b 0 8 < 2 ^ 57) && numAt b 8 8 % 4096 = 0 && decide (numAt b 8 8 < 2 ^ 57) &&
    numAt b 16 8 % 4096 = 0 && numAt b 24 8 % 4096 = 0 && numAt b 32 8 % 4096 = 0 && decide (numAt b 0x30 8 < 4) &&
    numAt b 0x38 8 = 0

/-- Whether a heap triple passes R97. -/
def heapOk (base limit off : Nat) : Bool :=
  limit = 0 || (!overlap base limit (aperture * 2 ^ 32) (2 ^ 32) && decide ((base + off) % 2 ^ 64 + limit ≤ devSize))

/-- Where a static watch's range lies, if it passes R384; a region that leaves the address space covers no byte (R380). -/
def staticRange (s : State) (asid : Nat) (b : List Byte) (img : Image) (d : BitVec 512) : Option Nat :=
  let va := wBase d
  let len := 2 ^ wLen d
  match watchRange s asid (numAt b 0 8) (numAt b 8 8) (numAt b 16 8) va len with
  | none => none
  | some pa =>
    if img.types.any fun t => t.regions.any fun r =>
        r.base.toNat + r.len ≤ 2 ^ 57 && r.base.toNat ≤ va && va + len ≤ r.base.toNat + r.len then some pa
    else none

/-- The checks of detail 0x08, and of detail 0x0B after them (R405, R451, R454). -/
def groupCode (s : State) (q : Nat) (img : Image) (flags : Nat) : Option Nat :=
  let d := (s.queueAt q).desc
  let timed : Bool := qClass d = 2
  if (flags / 2 % 2 = 1 ∧ !qGen d) ∨ img.groves.any (fun g => (s.groveAt g).part ≠ qPart d) ∨
      (timed ∧ (!img.timed ∨ img.groves.any fun g => !qReserves d g)) then some 0x08
  else if img.types.any (·.gang) ∧ img.groves.any (fun g => (s.groveAt g).prot) then some 0x0B
  else none

/-- A launch read and checked: the state after heartwood's verdict, and the launch or the detail of the first check of
R405 that fails. -/
def checkLaunch (s : State) (q : Nat) (i : Instr) : State × Except Nat Launched :=
  match i with
  | .launch _ img rc nrec lblk deadline _ =>
    let d := (s.queueAt q).desc
    let asid := asidOf d
    if qClass d ≠ 2 ∧ deadline ≠ 0 then (s, .error 0x02)
    else
      match feRead s asid lblk.toNat 64, feRead s asid img.toNat 128 with
      | some b, some h =>
        let n := (sectionsOf h).sign + 3456
        match feRead s asid img.toNat (if headerOk h then n else 128), feRead s asid rc.toNat (32 * (nrec.toNat + 1)) with
        | some bs, some rs =>
          let s := feTouch (feTouch (feTouch s asid lblk.toNat 64) asid img.toNat bs.length) asid rc.toNat rs.length
          if !blockOk b then (s, .error 0x02)
          else if !imageOk bs then (s, .error 0x05)
          else
            match acceptImage s asid img.toNat bs with
            | none => (s, .error 0x06)
            | some s =>
              let m := imageRead bs
              let recs := (List.range (nrec.toNat + 1)).map fun i => recBytes (bytesAt rs (32 * i) 32)
              match groupCode s q m (numAt b 0x30 8) with
              | some c => (s, .error c)
              | none =>
                if !heapOk (numAt b 0 8) (numAt b 8 8) (numAt b 16 8) then (s, .error 0x04)
                else if recs.any (recRefused m) then (s, .error 0x03)
                else if m.watches.any fun d => (staticRange s asid b m d).isNone then (s, .error 0x05)
                else
                  (s, .ok ⟨m, BitVec.ofNat 64 (numAt b 0 8), BitVec.ofNat 64 (numAt b 8 8), BitVec.ofNat 64 (numAt b 16 8),
                    numAt b 24 8, numAt b 32 8, numAt b 0x28 8, numAt b 0x30 8, recs⟩)
        | _, _ => (s, .error 0x09)
      | _, _ => (s, .error 0x09)
  | _ => (s, .error 0x01)

/-- What the front end reads for a launch: its block, its image, and its records (R405). -/
def launchRanges (s : State) (q : Nat) (i : Instr) : List (Nat × Nat) :=
  match i with
  | .launch _ img rc nrec lblk _ _ =>
    let n : Nat := match feRead s (asidOf (s.queueAt q).desc) img.toNat 128 with
      | some h => if headerOk h then (sectionsOf h).sign + 3456 else 128
      | none => 128
    [(lblk.toNat, 64), (img.toNat, n), (rc.toNat, 32 * (nrec.toNat + 1))]
  | _ => []
/-- The address of the read that refuses a launch with detail 0x09 (R405, R409). -/
def launchAddr (s : State) (q : Nat) (i : Instr) : Nat :=
  ((launchRanges s q i).findSome? fun r => feBad s (asidOf (s.queueAt q).desc) r.1 r.2).getD 0
/-- Whether a read of the front end is held: by a walk that it needs, or by a controller or link (R428, R434, R446, R459). -/
def feHeld (s : State) (asid va len : Nat) : Bool :=
  feWalks s asid va len || (pageParts va len).any fun x => match feResolve s asid x.2.1 true false with
    | .ok p => partWaits s p x.2.2
    | .error _ => false

/-! ## What an admission waits for (R105, R108, R155, R335, R405, R414) -/

/-- The lowest start of a free stretch of `len` bundles in a grove's dictionary store (R155); which stretch a dictionary takes, the
spec leaves open (DESIGN CHOICE, assumption log 81). -/
def dictSpot (k : Grove) (len : Nat) : Option Nat :=
  let starts := 0 :: k.dict.map fun r => r.start + r.len
  let ok := starts.filter fun a => a + len ≤ 8192 && k.dict.all fun r => !overlap a len r.start r.len
  match ok with
  | [] => none
  | a :: t => some (t.foldl Nat.min a)
/-- Whether phase 0 fits on a grove. While a drain is under way, the S that phase 0 may equal is the one that the drain brings, which the
spec does not say (R108; DESIGN CHOICE, assumption log 93). -/
def phaseFits (s : State) (g : Nat) (img : Image) : Bool :=
  let k := s.groveAt g
  let now := match k.drain with | some d => d.size | none => k.size
  now = phaseSize img 0 || !usedByOther s g (2 ^ 20)
/-- The dies of a grove set. -/
def diesOf (img : Image) : List Nat := (img.groves.map dieOf).eraseDups
/-- Whether weight-store use lets an image in beside the live instances (R105). -/
def storesFree (s : State) (img : Image) : Bool :=
  s.insts.all fun e =>
    let o := e.2.img
    o.ws = 0 || img.ws = 0 || (o.ws ≠ 2 && img.ws ≠ 2) || !(diesOf img).any fun d => (diesOf o).contains d
/-- Whether another queue reserves a grove of the image (R414). -/
def reservedAway (s : State) (q : Nat) (img : Image) : Bool :=
  s.queues.any fun e => e.1 ≠ q && e.2.st ≠ .disabled && qClass e.2.desc = 2 && img.groves.any fun g => qReserves e.2.desc g
/-- The lowest free indices of a die's watch table. -/
def freeWatches (s : State) (d n : Nat) : List Nat :=
  ((List.range 1024).filter fun i => (Map.get? s.watches (d * 1024 + i)).isNone).take n
/-- Whether every condition that a launch waits for holds. -/
def admissible (s : State) (q : Nat) (l : Launched) : Bool :=
  let timed : Bool := qClass (s.queueAt q).desc = 2
  l.img.groves.all (fun g => (dictSpot (s.groveAt g) l.img.dict.length).isSome && phaseFits s g l.img) &&
    storesFree s l.img && !reservedAway s q l.img &&
    (freeWatches s (dieOf (l.img.groves.getD 0 0)) l.img.watches.length).length = l.img.watches.length &&
    !(timed && s.insts.any fun e => e.2.queue = q)
/-- Whether a timed launch meets its deadline (R414). -/
def inTime (s : State) (img : Image) (deadline : Nat) : Bool :=
  let cores := img.groves.flatMap fun g => (List.range 8).map (g * 8 + ·)
  let sh := (cores.map fun c => (s.coreAt c).svcShare.toNat).foldl Nat.max 0
  sh < 64 && s.time.toNat + ceilDiv (img.wcyc * 64) (64 - sh) + img.fbud ≤ deadline

/-! ## Admission (R15, R405) -/

/-- The next instance number that no live instance holds. -/
def freeInst (s : State) : Nat :=
  match ((List.range (s.insts.length + 1)).map fun i => (s.nextInst + i) % 2 ^ 20).find? fun n => (s.inst? n).isNone with
  | some n => n
  | none => s.nextInst
/-- A grove takes an instance: its dictionary region, and phase 0 (R108, R155). -/
def enterGrove (s : State) (n : Nat) (img : Image) (g : Nat) : State :=
  let k := s.groveAt g
  let k := match dictSpot k img.dict.length with
    | some a => { k with dict := k.dict ++ [⟨n, a, img.dict.length⟩] }
    | none => k
  let now := match k.drain with | some d => d.size | none => k.size
  let s := s.setGrove g k
  if now = phaseSize img 0 then s else startDrain s g 0 (phaseSize img 0) (some n)
/-- Static watches installed in section order (R384); with their ids. -/
def installStatics (s : State) (n asid : Nat) (l : Launched) : State × List Nat :=
  let d := dieOf (l.img.groves.getD 0 0)
  let ids := (freeWatches s d l.img.watches.length).map fun i => d * 1024 + i
  let b := leBytes 8 l.base.toNat ++ leBytes 8 l.limit.toNat ++ leBytes 8 l.off.toNat
  ((l.img.watches.zip ids).foldl (fun (s : State) (w : BitVec 512 × Nat) =>
    installWatch s w.2 n true ((staticRange s asid b l.img w.1).getD 0) w.1) s, ids)
/-- A launch admitted, its tasks to start above what the front end's packets have completed before (R403): the instance, its groves and watches, WATCHIDS, the admission record and its records (R405). -/
def admitLaunch (s : State) (q : Nat) (h : PktHdr) (sig : W64) (deadline : W64) (l : Launched) : State × Nat :=
  let n := freeInst s
  let k := s.queueAt q
  let i : Inst :=
    { img := l.img, queue := q, desc := k.desc, pos := k.head.toNat, heapBase := l.base, heapLimit := l.limit
      heapOff := l.off, saveBase := l.saveBase, saveLen := l.saveLen, sigAddr := sig.toNat, noPre := decide (l.flags % 2 = 1)
      gen := decide (l.flags / 2 % 2 = 1), ended := false, endSt := .none, endTime := 0
      recs := l.recs.map fun r => ⟨0, r, 0, 0, s.outTs⟩, cause := 0, causeTime := 0, froze := false, entry := 0
      since := some s.time.toNat, deadline := deadline.toNat, charged := [], preempting := none, areas := []
      hostLines := [] }
  let s := { s.setInst n i with nextInst := (n + 1) % 2 ^ 20 }
  let s := l.img.groves.foldl (fun (s : State) (g : Nat) => enterGrove s n l.img g) s
  let (s, ids) := installStatics s n (asidOf k.desc) l
  let s := if l.ids = 0 ∨ ids = [] then s else feWrite s q ⟨l.ids, ids.flatMap fun e => leBytes 2 e, false, 0, []⟩
  let s := if h.cpl then writeRecord s q (recordBytes k.head.toNat 1 1 h.tag 0 0 0 n s.time.toNat 0) else s
  (s, n)

/-! ## The end of an instance (R16, R408, R409, R412, R465) -/

/-- Pending and ready tasks of an instance cancelled, running, parked and pre-empted ones failed (R49, R408). -/
def endTasks (s : State) (n : Nat) : State :=
  let ks := (s.tasks.filter fun e => e.2.inst = n).map (·.1)
  let s := { s with tasks := s.tasks.filter fun e => !(e.2.inst = n && (e.2.st = .pending || e.2.st = .ready)) }
  ks.foldl (fun (s : State) (k : Nat) => match s.task? k with
    | some t =>
      if t.st = .running ∨ t.st = .parked ∨ t.st = .preempted then killTask s k endTrap else s
    | none => s) s
/-- An instance ended, by ENDINST or by its freeze budget, which R409 ranks above ENDINST on one cycle. -/
def endInstance (s : State) (n : Nat) (why : EndSt) : State :=
  match s.inst? n with
  | none => s
  | some i =>
    let now := s.time.toNat
    let first : Bool := i.cause = 0 && (i.endSt = .none || (i.endSt = .ended && i.endTime = now && why = .budget))
    let budget : Bool := why = .budget
    let s := if budget && !i.froze then freezeQueue s i.queue (s.free 9500 % 256) else s
    let s := s.setInst n { i with
      ended := true, recs := [], froze := i.froze || budget, endSt := if first then why else i.endSt
      endTime := if first then now else i.endTime }
    let s := { s with watches := s.watches.filter fun e => e.2.inst ≠ n }
    dropUpcalls (endTasks s n) n

/-- Whether an instance is no longer live (R16), and nothing that its tasks have issued is still to be performed: the accesses
of a later packet follow all of it (R403). -/
def instOver (s : State) (n : Nat) (i : Inst) : Bool :=
  !i.live s n && !s.ctxs.any fun e => e.2.inst = some n && e.2.st = .ending
/-- The status, class, code and DETAIL of a launch's record (R409). -/
def instStatus (i : Inst) : Nat × Nat × Nat × Nat :=
  let cls := i.cause.toNat / 2 ^ 24
  if i.cause ≠ 0 then (if cls = 12 then 4 else 2, cls, i.cause.toNat % 65536, if cls = 12 then i.entry else 0)
  else match i.endSt with
    | .ended => (3, 0, 0, 0)
    | .budget => (5, 0, 0, 0)
    | .none => (0, 0, 0, 0)
/-- A launch's completion record and SIGADDR's store, which release the instance's host lines at system scope; a later SIGNAL of
the queue carries them too (R410, R411). The pending set is held by the die of the first grove (DESIGN CHOICE, assumption
log 72). -/
def finishRecord (s : State) (q pos : Nat) (h : PktHdr) (n : Nat) (i : Inst) : State :=
  let (st, cls, code, detail) := instStatus i
  let k := s.queueAt q
  let s := s.setQueue q { k with lines := k.lines ++ i.hostLines.filter fun l => !k.lines.contains l }
  if h.cpl || st ≠ 0 then
    signalRecord s q (recordBytes pos 1 0 h.tag st cls code n s.time.toNat detail) i.sigAddr
      (dieOf (i.img.groves.getD 0 0)) i.hostLines
  else s
/-- Whether a started packet is the launch of an instance. -/
def launched (p : Started) (n : Nat) : Bool :=
  p.inst = some n && (match p.op with | .launch .. => true | _ => false)
/-- What has been done by now comes before what the front end does from now on, and what it starts (R403). -/
def settleTs (s : State) : State := { s with outTs := Nat.max s.outTs (highestTs s) }
/-- An instance that is no longer live goes: its failed tasks and its dictionary regions with it; its record is written. -/
def retireInstance (s : State) (n : Nat) (i : Inst) : State :=
  let s := settleTs s
  let dict (k : Grove) : Grove := { k with dict := k.dict.filter fun (r : DictRegion) => r.inst ≠ n }
  let s := { s with
    tasks := s.tasks.filter fun (e : Nat × Task) => e.2.inst ≠ n
    insts := Map.del s.insts n
    groves := s.groves.map fun (e : Nat × Grove) => (e.1, dict e.2) }
  let k := s.queueAt i.queue
  match k.started.find? fun (p : Started) => launched p n with
  | some p =>
    let s := s.setQueue i.queue { k with started := k.started.filter fun (r : Started) => !launched r n }
    match p.op with
    | .launch h .. => finishRecord s i.queue p.pos h n i
    | _ => s
  | none => s

end Sys2Proof.Machine
end

