-- ==== Sys2Proof/Machine/FrontEnd.lean ====
section
/-! DEFINITION. The front end: packets and their starts (R396-R408), completion (R401, R409, R410), its events, and the
host's register writes (R392-R395, R399). A packet's own meaning starts it on `State.queue`. An event that is not enabled
leaves the state unchanged; `State.ev` names queue a (or instance a) and position b. -/

namespace Sys2Proof.Machine
open Sys2Proof

/-! ## Starting and completing (R397, R401, R403, R410) -/

/-- The header of a packet. -/
def hdrOf (i : Instr) : PktHdr := match encPkt i with | some f => f.hdr | none => ⟨0, false, false, 0⟩

/-- A queue waits with its packet (R399). -/
def waitQueue (s : State) (q : Nat) : State := s.setQueue q { s.queueAt q with st := .waiting }
/-- A queue whose packet starts: one that waited is active again; one that the packet's own writes have frozen or held stays so
(R44, R466). -/
def Queue.going (k : Queue) : Queue := { k with st := if k.st = .waiting then .active else k.st }
/-- A packet starts: it leaves the ring, and is under way until it completes. -/
def beginPacket (s : State) (q : Nat) (i : Instr) (inst : Option Nat) : State :=
  let k := (s.queueAt q).going
  headUp (s.setQueue q { k with started := k.started ++ [⟨k.head.toNat, i, inst⟩] }) q
/-- The SIGADDR of a launch; 0 for none (R404). -/
def sigOf (i : Instr) : Nat := match i with | .launch _ _ _ _ _ _ sig => sig.toNat | _ => 0
/-- A packet's record, written when CPL asks for it or the status is not OK, and a launch's SIGADDR after it (R410). -/
def packetRecord (s : State) (q pos : Nat) (i : Instr) (status inst : Nat) : State :=
  let (opc, tag) := packetTag i
  if (hdrOf i).cpl || status ≠ 0 then
    signalRecord s q (recordBytes pos opc 0 tag status 0 0 inst s.time.toNat 0) (sigOf i) 0 []
  else s
/-- A packet that completes at its start with a status (R401). -/
def passPacket (s : State) (q : Nat) (i : Instr) (status inst : Nat) : State :=
  let k := (s.queueAt q).going
  packetRecord (headUp (s.setQueue q k) q) q k.head.toNat i status inst
/-- A packet that halts its queue, with the address that faulted, where one did (R402, R409). -/
def badPacket (s : State) (q : Nat) (i : Instr) (detail : Nat) (addr : Nat := 0) : State :=
  let (opc, tag) := packetTag i
  haltQueue s q opc tag detail addr (sigOf i)

/-- Whether a packet must wait for earlier packets or for room in the completion ring (R403). -/
def packetBlocked (s : State) (q : Nat) (i : Instr) : Bool :=
  let k := s.queueAt q
  let h := hdrOf i
  let sig : Bool := match i with | .signal .. => true | _ => false
  let used := k.ctail.toNat + (k.held.filter (·.ctail)).length - k.chead.toNat
  ((h.barr || sig) && !k.started.isEmpty) || (h.cpl && decide (2 ^ qClog k.desc ≤ used))
/-- A packet's start, on a queue that may start one: it waits while it is blocked. -/
def gatePacket (s : State) (q : Nat) (i : Instr) (start : State → State) : State :=
  let k := s.queueAt q
  if k.st ≠ .active ∧ k.st ≠ .waiting then s
  else if packetBlocked s q i then waitQueue s q
  else start s

/-! ## NOP and LAUNCH -/

/-- NOP completes at start. -/
def startNop (s : State) (q : Nat) (i : Instr) : State := gatePacket s q i fun s => passPacket s q i 0 0
/-- LAUNCH: its reads held, malformed, waiting, too late, which is status DEADLINE (R414), or admitted (R405). -/
def startLaunch (s : State) (q : Nat) (i : Instr) : State :=
  gatePacket s q i fun s =>
    if (launchRanges s q i).any fun r => feHeld s (asidOf (s.queueAt q).desc) r.1 r.2 then waitQueue s q else
    match checkLaunch s q i, i with
    | (s, .error d), _ => badPacket s q i d (if d = 0x09 then launchAddr s q i else 0)
    | (s, .ok l), .launch h _ _ _ _ deadline sig =>
      if !admissible s q l then waitQueue s q
      else if qClass (s.queueAt q).desc = 2 && !inTime s l.img deadline.toNat then passPacket s q i 6 0
      else
        let (s, n) := admitLaunch s q h sig deadline l
        beginPacket s q i (some n)
    | (s, _), _ => s

/-! ## SIGNAL and WAITSIG (R406) -/

/-- A SIGNAL at system scope carries the lines of every launch that has completed before it starts, of any queue (R134, R411), to the
signal's pending set, which is held by die 0 (DESIGN CHOICE, assumption log 72). -/
def signalRelease (s : State) (p : Place) : State := pendLines s 0 (sigKey p) (s.queues.flatMap fun e => e.2.lines).eraseDups
/-- SIGNAL: one atomic at its address's home, a release at its scope: beyond the package it waits for the contributions that the
switches hold (R131, R436). A fault or poison at its address halts the queue. -/
def startSignal (s : State) (q : Nat) (i : Instr) (addr val : W64) (sc : Scope) (op : SigOp) : State :=
  gatePacket s q i fun s =>
    if walkHeld s (asidOf (s.queueAt q).desc) addr.toNat then waitQueue s q else
    match feResolve s (asidOf (s.queueAt q).desc) addr.toNat true true with
    | .error _ => badPacket s q i 0x09 addr.toNat
    | .ok p =>
      if feSpoiled s p then badPacket (sendTo s p) q i 0x09 addr.toNat
      else if placeWaits s p || placeHeld s p || (wideScope sc && s.redWins.any fun w => !w.2.held.isEmpty) then waitQueue s q
      else
        let s := sendTo (feWalked s (asidOf (s.queueAt q).desc) addr.toNat 8) p
        let s := if sc = .system then signalRelease s p else s
        let s := match rmw (sigKind op) 8 (leNat (readPlace s p 8)) val.toNat 0 with
          | some v => outWrite s p (leBytes 8 v)
          | none => outTouch s p
        passPacket s q i 0 0
/-- WAITSIG's comparison. -/
def sigHolds (op : WaitOp) (x v : Nat) : Bool := match op with | .geu => v ≤ x | .eq => x = v | .ne => x ≠ v
/-- A read of the front end faults: the queue is in Fetch-fault, or halts where no pager answers (R399, R413). -/
def readFault (s : State) (q va src code : Nat) (pk : Nat × BitVec 16) : State :=
  let (s, t) := upcall s (asidOf (s.queueAt q).desc) va src 0 code (.queue q)
  match t with
  | some t => s.setQueue q { s.queueAt q with st := .fetchFault, token := some t, readFault := true }
  | none => haltQueue s q pk.1 pk.2 0x07 va
/-- WAITSIG: it starts once its word compares true; that read is an acquire at its scope. -/
def startWaitsig (s : State) (q : Nat) (i : Instr) (addr val : W64) (sc : Scope) (op : WaitOp) : State :=
  gatePacket s q i fun s =>
    if walkHeld s (asidOf (s.queueAt q).desc) addr.toNat then waitQueue s q else
    match feResolve s (asidOf (s.queueAt q).desc) addr.toNat true false with
    | .error 0 => badPacket s q i 0x09 addr.toNat
    | .error c => readFault s q addr.toNat 3 c (packetTag i)
    | .ok p =>
      if feSpoiled s p then badPacket (sendTo s p) q i 0x09 addr.toNat
      else if placeWaits s p then waitQueue s q
      else
        let s := outTouch (sendTo (feWalked s (asidOf (s.queueAt q).desc) addr.toNat 8) p) p
        if sigHolds op (leNat (readPlace s p 8)) val.toNat then passPacket (if sc = .system then sysAcquire s p else s) q i 0 0
        else waitQueue s q

/-! ## WRENQ (R407) -/

/-- The copy of a payload from destination granule k upward, each granule read and then written (R125); whether it met no poison. -/
def copyPayload (s : State) (asid src dst len : Nat) : Nat → Nat → State × Bool
  | 0, _ => (s, true)
  | n + 1, k =>
    let g := granOf dst len k
    match feRead s asid (src + (g.1 - dst)) g.2, feResolve s asid g.1 false true with
    | some bs, .ok d =>
      let s := sendTo (feTouch s asid (src + (g.1 - dst)) g.2) d
      copyPayload (if feRefused s d then s else outWrite s d bs) asid src dst len n (k + 1)
    | _, _ => (s, false)
/-- Whether a payload's copy is held: for pool space, a frame or a link. -/
def payloadHeld (s : State) (asid src dst len : Nat) : Bool := feWriteHeld s asid dst len || feHeld s asid src len
/-- WRENQ: the target checked, every page translated, the payload copied and the target's TAIL written. -/
def startWrenq (s : State) (q : Nat) (i : Instr) (src dst : W64) (len tq : Nat) (tailVal : W64) : State :=
  gatePacket s q i fun s =>
    let d := (s.queueAt q).desc
    let t := s.queueAt tq
    let asid := asidOf d
    if t.st = .disabled ∨ !qDevenq t.desc ∨ qPart t.desc ≠ qPart d then badPacket s q i 0x0A
    else if feWalks s asid src.toNat len || feWalks s asid dst.toNat len then waitQueue s q
    else
      match payloadFault s asid src.toNat dst.toNat len with
      | some (va, acc, code) =>
        match upcall s asid va 4 acc code (.queue q) with
        | (s, some n) => s.setQueue q { s.queueAt q with st := .payloadFault, token := some n }
        | (s, none) => badPacket s q i 0x07 va
      | none =>
        if payloadHeld s asid src.toNat dst.toNat len then waitQueue s q
        else
          match copyPayload (feWalked (feWalked s asid src.toNat len) asid dst.toNat len) asid src.toNat dst.toNat len (granCount dst.toNat len) 0 with
          | (s, false) => badPacket s q i 0x09 ((feBad s asid src.toNat len).getD 0)
          | (s, true) => passPacket (bellWrite s tq 0x00 tailVal) q i 0 0

/-! ## PREEMPT, RESTORE and ENDINST (R408) -/

/-- Why a control packet is refused, in the order of R283: NONE, then DENIED without CTL or across partitions; `hard` for
PREEMPT's own. -/
def controlStatus (s : State) (q n : Nat) (hard : Inst → Bool) : Nat :=
  let d := (s.queueAt q).desc
  match s.live? n with
  | none => 8
  | some i => if !qCtl d || instPart s n ≠ qPart d || hard i then 9 else 0
/-- An instance's tasks that run are marked, and it is to be pre-empted (R373). -/
def askPreempt (s : State) (n : Nat) (k : Inst) (q pos : Nat) : State :=
  { s.setInst n { k with preempting := some (q, pos) } with
    tasks := s.tasks.map fun e => (e.1, if e.2.inst = n then { e.2 with preempt := decide (e.2.st = .running) } else e.2) }
/-- PREEMPT: the instance is to be pre-empted under R373. -/
def startPreempt (s : State) (q : Nat) (i : Instr) (n : Nat) : State :=
  gatePacket s q i fun s =>
    let c := controlStatus s q n fun k => k.noPre || qClass k.desc = 2
    if c ≠ 0 then passPacket s q i c n
    else
      match s.inst? n with
      | some k => beginPacket (askPreempt s n k q (s.queueAt q).head.toNat) q i (some n)
      | none => s
/-- RESTORE: the instance's tasks may be dispatched again. -/
def startRestore (s : State) (q : Nat) (i : Instr) (n : Nat) : State :=
  gatePacket s q i fun s =>
    let c := controlStatus s q n fun _ => false
    if c ≠ 0 then passPacket s q i c n
    else
      match s.inst? n with
      | some k => passPacket (s.setInst n { k with preempting := none }) q i 0 n
      | none => s
/-- ENDINST: the instance is ended. -/
def startEndinst (s : State) (q : Nat) (i : Instr) (n : Nat) : State :=
  gatePacket s q i fun s =>
    let c := controlStatus s q n fun _ => false
    if c ≠ 0 then passPacket s q i c n
    else endInstance (beginPacket s q i (some n)) n .ended

/-! ## The packets' meanings -/

/-- NOP. -/
def execNopPacket (h : PktHdr) (s : State) : Out := .next (startNop s s.queue (.nopPacket h))
/-- LAUNCH. -/
def execLaunch (h : PktHdr) (img rc : W64) (nrec : BitVec 20) (lblk deadline sig : W64) (s : State) : Out :=
  .next (startLaunch s s.queue (.launch h img rc nrec lblk deadline sig))
/-- SIGNAL. -/
def execSignal (h : PktHdr) (addr val : W64) (sc : Scope) (op : SigOp) (s : State) : Out :=
  .next (startSignal s s.queue (.signal h addr val sc op) addr val sc op)
/-- WAITSIG. -/
def execWaitsig (h : PktHdr) (addr val : W64) (sc : Scope) (op : WaitOp) (s : State) : Out :=
  .next (startWaitsig s s.queue (.waitsig h addr val sc op) addr val sc op)
/-- WRENQ. -/
def execWrenq (h : PktHdr) (src dst : W64) (len : BitVec 17) (tq : BitVec 10) (tailVal : W64) (s : State) : Out :=
  .next (startWrenq s s.queue (.wrenq h src dst len tq tailVal) src dst len.toNat tq.toNat tailVal)
/-- PREEMPT. -/
def execPreempt (h : PktHdr) (n : BitVec 20) (s : State) : Out := .next (startPreempt s s.queue (.preempt h n) n.toNat)
/-- RESTORE. -/
def execRestore (h : PktHdr) (n : BitVec 20) (s : State) : Out := .next (startRestore s s.queue (.restore h n) n.toNat)
/-- ENDINST. -/
def execEndinst (h : PktHdr) (n : BitVec 20) (s : State) : Out := .next (startEndinst s s.queue (.endinst h n) n.toNat)

/-- A fetched packet's start. -/
def startPacket (s : State) (q : Nat) (i : Instr) : State :=
  match i with
  | .nopPacket _ => startNop s q i
  | .launch .. => startLaunch s q i
  | .signal _ addr val sc op => startSignal s q i addr val sc op
  | .waitsig _ addr val sc op => startWaitsig s q i addr val sc op
  | .wrenq _ src dst len tq t => startWrenq s q i src dst len.toNat tq.toNat t
  | .preempt _ n => startPreempt s q i n.toNat
  | .restore _ n => startRestore s q i n.toNat
  | .endinst _ n => startEndinst s q i n.toNat
  | _ => s

/-! ## The front end's events -/

/-- Whether the records of a launch of a queue still wait for a dependency table (R27). -/
def launchWaits (s : State) (q : Nat) : Bool := s.insts.any fun e => e.2.queue = q && !e.2.recs.isEmpty
/-- One read of a queue's ring, an access of the memory order (R122): what it reads, or the state in which it has faulted, waits, or has
met poison (R413). -/
def ringRead (s : State) (q va n : Nat) (h : HbmCheck) : Except State (State × Nat) :=
  let pk := headTag (s.queueAt q)
  if walkHeld s (asidOf (s.queueAt q).desc) va then .error s else
  match feResolve s (asidOf (s.queueAt q).desc) va true false with
  | .error 0 => .error (haltQueue s q pk.1 pk.2 0x09 va)
  | .error c => .error (readFault s q va 2 c pk)
  | .ok p =>
    if placeWaits s p then .error s
    else
      let s := checkHbm (walkCount s (asidOf (s.queueAt q).desc) va) p h
      if (poisonOf s p).isSome || refusedAway p h then .error (haltQueue s q pk.1 pk.2 0x09 va) else .ok (outRead s p n, leNat (readPlace s p n))
/-- The 64 bytes of a packet read: it is fetched, or malformed (R402). -/
def takePacket (s : State) (q : Nat) (w : Nat) : State :=
  let k := s.queueAt q
  let f := PF.ofWord (BitVec.ofNat 512 w)
  match decodePacket (qVer k.desc) f with
  | .error d => haltQueue s q f.opc.toNat f.hdr.tag d 0 (if qVer k.desc = 2 ∧ f.opc = 1 then nbits w 384 64 else 0)
  | .ok i => s.setQueue q { k with st := .active, hdr := none, fetched := some i }
/-- PACKET_FETCH: queue a reads its next packet, the header's 8 bytes first and the other 56 after; a read fault, poison, a
header not yet published, or a malformed packet (R396, R402, R413). d is what the check of R455 finds. -/
def execPacketFetch (s : State) : Out :=
  let q := s.ev.a
  let k := s.queueAt q
  .next (if (k.st ≠ .active ∧ k.st ≠ .publishWait) ∨ k.fetched.isSome ∨ k.tail.toNat ≤ k.head.toNat ∨ launchWaits s q then s
    else
      let va := qRing k.desc + 64 * (k.head.toNat % 2 ^ qLog k.desc)
      let h := hbmCheck s.ev.d
      match k.hdr with
      | none =>
        match ringRead s q va 8 h with
        | .error s => s
        | .ok (s, w) =>
          let k := s.queueAt q
          let hdr := BitVec.ofNat 64 w
          if (PF.ofWord (hdr.setWidth 512)).hdr.seq = BitVec.ofNat 32 (k.head.toNat + 1) then
            s.setQueue q { k with st := .active, hdr := some hdr }
          else s.setQueue q { k with st := .publishWait }
      | some hdr =>
        match ringRead s q (va + 8) 56 h with
        | .error s => s
        | .ok (s, w) => takePacket s q (hdr.toNat + w * 2 ^ 64))

/-- Whether a queue's fetched packet would start now. -/
def wouldStart (s : State) (q : Nat) : Bool :=
  let k := s.queueAt q
  match k.fetched with
  | some i => (k.st = .active || k.st = .waiting) && ((startPacket s q i).queueAt q).head ≠ k.head
  | none => false
/-- The rank of a queue's class for its fetcher (R398). -/
def classRank (c : Nat) : Nat := match c with | 1 => 0 | 2 => 1 | _ => 2
/-- The queue that a fetcher serves next: by class, then round robin from the queue after the one served last (R398). -/
def fetcherPick (s : State) (f : Nat) : Option Nat :=
  let last := Map.at_ s.fetchers f 127
  let order := (List.range 128).map fun i => f + 8 * ((last + 1 + i) % 128)
  let rs := order.filter (wouldStart s)
  [0, 1, 2].findSome? fun r => rs.find? fun q => classRank (qClass (s.queueAt q).desc) = r
/-- A queue's packet starts in its fetcher's turn; one that cannot start waits or halts its queue at any time. -/
def startEv (s : State) (q : Nat) (f : Instr → Bool) : State :=
  match (s.queueAt q).fetched with
  | none => s
  | some i =>
    if !f i then s
    else if wouldStart s q then
      if fetcherPick s (q % 8) = some q then startPacket { s with fetchers := Map.set s.fetchers (q % 8) (q / 8) } q i else s
    else startPacket s q i
/-- PACKET_START: the fetched packet of queue a starts when its condition holds, and HEAD rises (R397, R403). -/
def execPacketStart (s : State) : Out := .next (startEv s s.ev.a fun _ => true)
/-- LAUNCH_ADMIT: a waiting launch's conditions hold, and it is admitted (R405). -/
def execLaunchAdmit (s : State) : Out :=
  .next (startEv s s.ev.a fun i => (s.queueAt s.ev.a).st = .waiting && (match i with | .launch .. => true | _ => false))
/-- WAITSIG_POLL: the front end reads a waiting WAITSIG's word again (R406). -/
def execWaitsigPoll (s : State) : Out :=
  .next (startEv s s.ev.a fun i => (s.queueAt s.ev.a).st = .waiting && (match i with | .waitsig .. => true | _ => false))

/-- Whether every task of an instance that was running has been pre-empted or has committed (R373). -/
def instPreempted (s : State) (n : Nat) : Bool :=
  s.tasks.all fun e => e.2.inst ≠ n || !e.2.preempt || e.2.st = .preempted || e.2.st = .failed
/-- The PREEMPTED record of an instance's launch (R408, R409). -/
def preemptedRecord (s : State) (n : Nat) : State :=
  match s.inst? n with
  | none => s
  | some i =>
    match (s.queueAt i.queue).started.find? fun (p : Started) => launched p n with
    | some p => writeRecord s i.queue (recordBytes p.pos 1 2 (hdrOf p.op).tag 7 0 0 n s.time.toNat 0)
    | none => s
/-- The status with which a PREEMPT or an ENDINST that has started completes now; `none` while it does not (R401, R408). -/
def completion (s : State) (p : Started) : Option Nat :=
  match p.op with
  | .preempt _ n => if (s.live? n.toNat).isNone then some 8 else if instPreempted s n.toNat then some 0 else none
  | .endinst _ n => if (s.live? n.toNat).isNone then some 0 else none
  | _ => none
/-- A started packet of a queue completes if it can, with its record (R401, R409). What comes after it comes after all that it has done
in the memory order (R403). -/
def completePacket (s : State) (q : Nat) (p : Started) : State :=
  let k := s.queueAt q
  if !k.started.contains p then s
  else
    match completion s p with
    | none => s
    | some c =>
      let s := settleTs s
      let s := match p.op with
        | .preempt _ n => if c = 0 then preemptedRecord s n.toNat else s
        | _ => s
      let s := s.setQueue q { s.queueAt q with started := k.started.erase p }
      packetRecord s q p.pos p.op c (p.inst.getD 0)
/-- Every packet that can complete does so: its condition holds at that moment (R401, R408). -/
def completePackets (s : State) : State :=
  s.queues.foldl (fun s e => e.2.started.foldl (fun s p => completePacket s e.1 p) s) s
/-- PACKET_COMPLETE: the packet at position b of queue a completes, and any that was started at that position before the queue was last
enabled. -/
def execPacketComplete (s : State) : Out :=
  .next (((s.queueAt s.ev.a).started.filter fun p => p.pos = s.ev.b).foldl (fun t p => completePacket t s.ev.a p) s)

/-- INSTANCE_END_OF_LIFE: instance a is no longer live, and its launch's record is written (R16). -/
def execInstanceEndOfLife (s : State) : Out :=
  let n := s.ev.a
  let s' := dropStatics s n
  .next (match s'.inst? n with
    | some i => if instOver s' n i then retireInstance s' n i else s
    | none => s)
/-- FRONT_END_WRITE_FAULT: writes kept back by queue a are made again, and hold the queue in Fetch-fault where one faults; those
kept after a dropped write wait for CMD 4 (R466). -/
def execFrontEndWriteFault (s : State) : Out :=
  let q := s.ev.a
  let k := s.queueAt q
  .next (if !k.shut && !k.held.isEmpty && k.token.isNone then releaseHeld s q else s)
/-- Whether a core of an instance has been charged more than FBUD cycles (R376). -/
def overBudget (i : Inst) : Bool := i.charged.any fun e => i.img.fbud < e.2
/-- Whether an instance of a timed queue has reached its deadline with tasks to commit: R415 then lets its record be BUDGET
(DESIGN CHOICE, assumption log 73). -/
def pastDeadline (s : State) (n : Nat) (i : Inst) : Bool :=
  qClass i.desc = 2 && i.deadline ≤ s.time.toNat && (!i.recs.isEmpty || s.tasks.any fun e => e.2.inst = n && e.2.st ≠ .failed)
/-- An instance that has passed its deadline: R415 leaves it no record but BUDGET unless a fault, an uncorrectable error or an integrity
violation was first, whatever else R409 would name (DESIGN CHOICE, assumption log 73). -/
def Inst.late (i : Inst) : Inst :=
  let cls := i.cause.toNat / 2 ^ 24
  if cls = 12 ∨ cls = 13 then { i with cause := 0 } else i
/-- BUDGET_EXCEED: timed instance a has exceeded FBUD on a core, or not committed by its deadline (R376, R415). -/
def execBudgetExceed (s : State) : Out :=
  .next (match s.inst? s.ev.a with
    | some i =>
      if i.ended then s
      else if pastDeadline s s.ev.a i then endInstance (s.setInst s.ev.a i.late) s.ev.a .budget
      else if i.reserved && overBudget i then endInstance s s.ev.a .budget
      else s
    | none => s)

/-! ## The host's registers (R392-R395, R399, R444) -/

/-- A host write that takes effect once BAR0 is open (R444). -/
def hostWrite (s : State) (f : State → State) : Out := .next (if s.booted then f s else s)
/-- TAIL: the maximum of its value and the value written. -/
def execTail (q : Nat) (v : W64) (s : State) : Out := hostWrite s fun s => if q < 1024 then bellWrite s q 0x00 v else s
/-- CPLHEAD, as TAIL. -/
def execCplhead (q : Nat) (v : W64) (s : State) : Out := hostWrite s fun s => if q < 1024 then bellWrite s q 0x18 v else s
/-- CTRL command 1. -/
def execQueueEnable (q : Nat) (s : State) : Out := hostWrite s fun s => if q < 1024 then queueEnable s q else s
/-- CTRL command 2. -/
def execQueueDisable (q : Nat) (s : State) : Out := hostWrite s fun s => if q < 1024 then queueDisable s q else s
/-- CTRL command 3. -/
def execQueueSkip (q : Nat) (s : State) : Out := hostWrite s fun s => if q < 1024 then queueSkip s q else s
/-- CTRL command 4. -/
def execQueueUnfreeze (q : Nat) (s : State) : Out := hostWrite s fun s => if q < 1024 then queueUnfreeze s q else s
/-- IFSEL: DONE stays clear for a value outside IFVER's ranges (R393, R447). -/
def execIfsel (v : W64) (s : State) : Out :=
  hostWrite s fun s =>
    let x := v &&& 0x1FF
    let ok : Bool := offers s 16 18 2 (bits x 0 4).toNat && offers s 24 28 4 (bits x 4 4).toNat
    { s with ifsel := if ok then x else x &&& 0xFF }
/-- A write of an 8-byte register without behaviour of its own: a word of a disabled queue's descriptor (R392, R394). -/
def execRegisterWrite (off : Nat) (v : W64) (s : State) : Out :=
  hostWrite s fun s =>
    let q := off / 64
    let k := s.queueAt q
    let lo := off % 64 * 8
    if off < 65536 ∧ off % 8 = 0 ∧ k.st = .disabled then
      let m : BitVec 512 := (BitVec.allOnes 64).setWidth 512 <<< lo
      s.setQueue q { k with desc := (k.desc &&& ~~~m) ||| (v.setWidth 512 <<< lo) }
    else s

end Sys2Proof.Machine
end

