-- ==== Sys2Proof/Machine/Driver.lean ====
section
/-! DEFINITION. The requests of drivers and operators (R418-R432, R435, R436, R449-R451) and the services that carry them
(R447). A request's event acts on the pending block whose operands are `State.req`; STATUS is written once its effects have
been performed. An event that is not enabled leaves the state unchanged. -/

namespace Sys2Proof.Machine
open Sys2Proof

/-! ## A request completing -/

/-- The pending request of an operation whose operands are the event's. -/
def pendingReq (s : State) (i : Instr) : Option Pending := s.reqs.find? fun p => p.op = i && p.req = s.req
/-- A request completes: it is no longer pending, and its STATUS is written (R283, R418). -/
def finishReq (s : State) (p : Pending) (x : Status) : State := reqStatus { s with reqs := s.reqs.erase p } p.blk x
/-- Whether the write of a request block's STATUS is held: by a controller, or for pool space (R351, R428). -/
def blockHeld (s : State) (p : Pending) : Bool := spanWaits s p.blk 64 || spanHeld s p.blk 64
/-- What a pending request does, with the status that completes it; none leaves it under way. One whose STATUS cannot be written yet waits
before it acts. -/
def requestOn (s : State) (p : Pending) (f : State → State × Option Status) : State :=
  match f s with
  | (t, some x) => if blockHeld t p then s else finishReq t p x
  | (t, none) => t
/-- A request's event: what its pending block does. -/
def requestEv (s : State) (i : Instr) (f : State → State × Option Status) : Out :=
  .next (match pendingReq s i with
    | none => s
    | some p => requestOn s p f)
/-- Whether a base or a length is a multiple of 4 KiB. -/
def aligned4k (x : W64) : Bool := x.toNat % 4096 = 0

/-! ## Translation (R419, R424, R425) -/

/-- ROOT: a page-table root attached to an ASID, or detached. -/
def execRoot (s : State) : Out :=
  requestEv s .root fun s =>
    let r := s.req
    if !aligned4k r.w2 then (s, some .refused)
    else if r.w2 = 0 then ({ s with roots := Map.del s.roots r.w1.toNat }, some .ok)
    else ({ s with roots := Map.set s.roots r.w1.toNat r.w2.toNat }, some .ok)

/-- The end of a SHOOT's range: a length of 0 is the whole space. -/
def shootEnd (r : RF) : Nat := if r.w3 = 0 then 2 ^ 57 else r.w2.toNat + r.w3.toNat
/-- The start of a SHOOT's range. -/
def shootStart (r : RF) : Nat := if r.w3 = 0 then 0 else r.w2.toNat
/-- Whether a SHOOT names an address space. -/
def shootAsid (r : RF) (asid : Nat) : Bool := r.w1 = 0xFFFF || r.w1.toNat = asid
/-- Whether a translation is one that a SHOOT names. -/
def shot (r : RF) (e : TlbEntry) : Bool :=
  shootAsid r e.asid && overlap e.va (2 ^ e.k) (shootStart r) (shootEnd r - shootStart r)
/-- SHOOT: every TLB drops the translations named, each time it is found to hold some (R424). -/
def execShoot (s : State) : Out :=
  requestEv s .shoot fun s =>
    let r := s.req
    if !aligned4k r.w2 || !aligned4k r.w3 then (s, some .refused)
    else
      let keep (l : List TlbEntry) : List TlbEntry := l.filter fun e => !shot r e
      let gone := (s.cores.flatMap fun c => c.2.tlb) ++ s.groves.flatMap fun g => g.2.tlb
      ({ s with
          reqs := s.reqs.map fun p => if p.op = .shoot ∧ p.req = r then { p with shot := p.shot ++ (gone.filter (shot r)).filter fun e => !p.shot.contains e } else p
          cores := s.cores.map fun (c : Nat × Core) => (c.1, { c.2 with tlb := keep c.2.tlb })
          groves := s.groves.map fun (g : Nat × Grove) => (g.1, { g.2 with tlb := keep g.2.tlb }) }, none)
/-- The address space of a context. -/
def ctxAsid (s : State) (c x : Nat) : Nat := ({ s with core := c, ctx := x } : State).asid
/-- Whether an address lies in a SHOOT's range, or in a page whose translation it has dropped. -/
def shotAddr (p : Pending) (asid va : Nat) : Bool :=
  (shootAsid p.req asid && shootStart p.req ≤ va && va < shootEnd p.req) || p.shot.any fun e => e.covers asid va
/-- Whether a range meets a SHOOT's range, or a page whose translation it has dropped. -/
def shotRange (p : Pending) (asid base len : Nat) : Bool :=
  (shootAsid p.req asid && overlap base len (shootStart p.req) (shootEnd p.req - shootStart p.req)) ||
    p.shot.any fun e => e.asid = asid && overlap base len e.va (2 ^ e.k)
/-- Whether an access translated through a dropped entry may still be under way: issued and not performed, held in a staged
task's tentative versions, or held in the switches. -/
def shootWaits (s : State) (r : Pending) : Bool :=
  s.ctxs.any (fun e =>
    let a := ctxAsid s (keyCore e.1) (keyCtx e.1)
    e.2.accs.any fun x => x.pieces.any fun p =>
      !inAperture p.va && (heapAt e.2 p.va).isNone && shotAddr r a p.va) ||
    s.redWins.any (fun w => w.2.held.any fun n => shootAsid r.req n.asid) ||
    s.tasks.any fun e => e.2.tent ≠ [] &&
      (match s.inst? e.2.inst with
       | some i => e.2.regions.any fun g => shotRange r (asidOf i.desc) g.base g.len
       | none => false)
/-- SHOOT_COMPLETE: every TLB is clear of the range and every old access has been performed; the SHOOT answers OK. -/
def execShootComplete (s : State) : Out :=
  requestEv s .shoot fun s =>
    let r := s.req
    let held := s.cores.any (fun c => c.2.tlb.any (shot r)) || s.groves.any fun g => g.2.tlb.any (shot r)
    let waits := match pendingReq s .shoot with | some p => shootWaits s p | none => false
    if !aligned4k r.w2 || !aligned4k r.w3 || held || waits then (s, none) else (s, some .ok)

/-- PGREG: the pager of a region of an address space. -/
def execPgreg (s : State) : Out :=
  requestEv s .pgreg fun s =>
    let r := s.req
    match s.live? r.w4.toNat with
    | none => (s, some .none)
    | some i =>
      if !aligned4k r.w2 || !aligned4k r.w3 || i.img.types.length ≤ r.w5.toNat then (s, some .refused)
      else if s.regions.any fun g => g.asid = r.w1.toNat && overlap g.base g.len r.w2.toNat r.w3.toNat then (s, some .busy)
      else
        let g : PagerRegion := ⟨r.w1.toNat, r.w2.toNat, r.w3.toNat, r.w4.toNat, r.w5.setWidth 16, r.w6⟩
        ({ s with regions := s.regions ++ [g] }, some .ok)
/-- PGUNREG: the region of a base removed; NONE where no region has it or its pager instance is not live, as one that has been ended and
still has tasks is (R16, R425). -/
def execPgunreg (s : State) : Out :=
  requestEv s .pgunreg fun s =>
    let hit (g : PagerRegion) : Bool := g.asid = s.req.w1.toNat && g.base = s.req.w2.toNat
    if !s.regions.any fun g => hit g && (s.live? g.inst).isSome then (s, some .none)
    else if !aligned4k s.req.w2 then (s, some .refused)
    else ({ s with regions := s.regions.filter fun g => !hit g }, some .ok)

/-! ## The generation pool and checkpoint targets (R431, R432) -/

/-- Whether a pool size's frames lie in device memory. -/
def poolOk (n : Nat) : Bool := n * 65536 ≤ devSize
/-- GPOOL: a growth completes at once; a shrink that lacks room for the copies is BUSY. -/
def execGpool (s : State) : Out :=
  requestEv s .gpool fun s =>
    let n := s.req.w1.toNat
    if !poolOk n then (s, some .refused)
    else if s.poolFrames ≤ n then ({ s with poolFrames := n }, some .ok)
    else if n * 16 < s.copies.length then (s, some .busy)
    else (s, none)
/-- GPOOL_SHRINK_COMPLETE: the copies have left the removed frames, and the shrink answers OK. -/
def execGpoolShrinkComplete (s : State) : Out :=
  requestEv s .gpool fun s =>
    let n := s.req.w1.toNat
    if poolOk n ∧ n < s.poolFrames ∧ s.copies.length ≤ n * 16 then ({ s with poolFrames := n }, some .ok) else (s, none)
/-- Whether a generation is checkpointed to a target or draining into it. -/
def targetUsed (s : State) (id : Nat) : Bool :=
  s.gens.any fun e => e.2.target = id && (e.2.st = .draining || e.2.st = .checkpointed || e.2.st = .failed)
/-- CKREG: a checkpoint target defined, or removed by a length of 0. -/
def execCkreg (s : State) : Out :=
  requestEv s .ckreg fun s =>
    let r := s.req
    let id := r.w1.toNat
    let inArea : Bool := r.w2 = 1 || r.w3.toNat + r.w4.toNat ≤ Config.ckptArea
    if !(aligned4k r.w3 && aligned4k r.w4 && aligned4k r.w5 && aligned4k r.w6) then (s, some .refused)
    else if r.w4 ≠ 0 ∧ (r.w4.toNat < r.w6.toNat ∨ !inArea) then (s, some .refused)
    else if targetUsed s id then (s, some .busy)
    else if r.w4 = 0 then ({ s with targets := Map.del s.targets id }, some .ok)
    else
      let t : Target := ⟨decide (r.w2 = 1), r.w3.toNat, r.w4.toNat, r.w5.toNat, r.w6.toNat, [], []⟩
      ({ s with targets := Map.set s.targets id t }, some .ok)

/-! ## The fabric (R435, R436) -/

/-- EXPORT: an entry of the export table, or its removal. -/
def execExportReq (s : State) : Out :=
  requestEv s .exportReq fun s =>
    let r := s.req
    if !aligned4k r.w3 || !aligned4k r.w4 || r.w5 = 2 then (s, some .refused)
    else if r.w5 = 0 then ({ s with exports := Map.del s.exports r.w1.toNat }, some .ok)
    else
      let e : ExportEntry := ⟨r.w2.toNat, r.w3.toNat, r.w4.toNat, decide (r.w5 = 3)⟩
      ({ s with exports := Map.set s.exports r.w1.toNat e }, some .ok)
/-- RWIN: a reduction window. -/
def execRwin (s : State) : Out :=
  requestEv s .rwin fun s =>
    let r := s.req
    let held : Bool := match Map.get? s.redWins r.w1.toNat with | some w => !w.held.isEmpty | none => false
    if !aligned4k r.w3 || r.w4.toNat % 65536 ≠ 0 || r.w6.toNat < 64 || 65536 < r.w6.toNat then (s, some .refused)
    else if held then (s, some .busy)
    else
      let w : RedWin := ⟨r.w2.toNat, r.w3.toNat, r.w4.toNat, r.w5.toNat, r.w6.toNat, []⟩
      ({ s with redWins := Map.set s.redWins r.w1.toNat w }, some .ok)

/-! ## Frames (R428, R429) -/

/-- Whether a frame has been moved to a spare, or taken from the pool. -/
def frameRetired (s : State) (f : Nat) : Bool := (Map.get? s.remap f).isSome || s.poolGone.contains f
/-- The lowest spare that holds no frame. -/
def freeSpare (s : State) : Nat :=
  ((List.range 4096).find? fun i => !(s.remap.any (·.2 = i)) && !(s.retiring.any (·.spare = i))).getD 4096
/-- A frame's retirement starts: its accesses are held, and a spare is taken (R428, step 1). -/
def startRetire (s : State) (f : Nat) : State :=
  { s with retiring := s.retiring ++ [⟨f, freeSpare s⟩], spares := s.spares - 1 }
/-- Whether the copies of a frame of the pool fit in the other pool frames (R354). -/
def poolSpare (s : State) : Bool := s.copies.length ≤ (s.poolFrames - 1) * 16
/-- A frame of the pool retired: its copies move to free pool frames, and the pool shrinks by it (R354). -/
def retirePool (s : State) (f : Nat) : State := { s with poolFrames := s.poolFrames - 1, poolGone := f :: s.poolGone }
/-- RETIRE: a frame's retirement starts; it answers OK once the copy is done, and at once for a frame already retired. A frame of
the pool waits while no pool frame is free for its copies (R354). -/
def execRetire (s : State) : Out :=
  requestEv s .retire fun s =>
    let f := s.req.w1.toNat
    if devSize ≤ f * 65536 then (s, some .refused)
    else if frameRetired s f then (s, some .ok)
    else if s.retiring.any fun r => r.frame = f then (s, none)
    else if poolFrame s f then (if poolSpare s then (retirePool s f, some .ok) else (s, none))
    else if s.spares = 0 then (s, some .limit)
    else (startRetire s f, none)

/-! ## Operators (R449, R450, R461, R463) -/

/-- The groves that a request names in its first two operand words. -/
def namedGroves (r : RF) : List Nat := (List.range 96).filter fun g => if g < 64 then tst r.w1 g else tst r.w2 (g - 64)
/-- Whether an object is in a grove, or on its way into or out of it. -/
def objectAt (s : State) (g : Nat) (o : Obj) : Bool :=
  match o.wh with
  | .resident c h => c = s.chip && h = g
  | .moving c h c' h' => (c = s.chip && h = g) || (c' = s.chip && h' = g)
  | .tier _ => false
/-- Whether a grove holds a live instance, a dictionary region or a pinned object, or a request other than `p` still moves its
objects (R450). -/
def groveBusy (s : State) (p : Pending) (g : Nat) : Bool :=
  s.insts.any (fun e => e.2.img.groves.contains g) || !(s.groveAt g).dict.isEmpty ||
    s.objs.any (fun e => objectAt s g e.2 && e.2.pins ≠ 0) ||
    (s.reqs.erase p).any fun q => q.op = .grovecfg && q.began && (namedGroves q.req).contains g
/-- Whether an enabled timed queue of another partition reserves a grove. -/
def reservedBy (s : State) (part : BitVec 4) (g : Nat) : Bool :=
  s.queues.any fun e => e.2.st ≠ .disabled && qClass e.2.desc = 2 && qPart e.2.desc ≠ part && qReserves e.2.desc g
/-- What a GROVECFG does now (R450). -/
def grovecfg (p : Pending) (s : State) : State × Option Status :=
  let r := p.req
  let gs := namedGroves r
  let part : BitVec 4 := r.w3.setWidth 4
  if gs.any (reservedBy s part) then (s, some .refused)
  else if gs.any (groveBusy s p) then (s, some .busy)
  else
    let mine := s.objs.filter fun e => gs.any (fun g => objectAt s g e.2) && e.2.part ≠ part
    if mine.isEmpty then
      (gs.foldl (fun (s : State) (g : Nat) => s.setGrove g { s.groveAt g with part := part, prot := tst r.w3 8 }) s, some .ok)
    else
      let still (o : Obj) : Bool := match o.wh with | .resident .. => true | _ => false
      let s := (mine.filter fun e => still e.2).foldl (fun (s : State) (e : Nat × Obj) => acceptMove s e.1 s.chip 127) s
      ({ s with reqs := s.reqs.map fun q => if q = p then { q with began := true } else q }, none)
/-- GROVECFG: the resident objects of other partitions move to the state tier; once they have, the groves take their
partition and mode (R450). Of blocks with equal operands, one that has not begun answers beside one that has. -/
def execGrovecfg (s : State) : Out :=
  let later := s.reqs.find? fun p => p.op = .grovecfg && p.req = s.req && !p.began
  .next (match if (s.reqs.any fun p => p.op = .grovecfg && p.req = s.req && p.began) then later.or (pendingReq s .grovecfg)
      else pendingReq s .grovecfg with
    | none => s
    | some p => requestOn s p (grovecfg p))
/-- TELEM: telemetry started at an address and interval, or stopped. -/
def execTelem (s : State) : Out :=
  requestEv s .telem fun s =>
    let r := s.req
    if !aligned4k r.w1 || devSize < r.w1.toNat + 8192 || r.w2.toNat < 100 || 1000000 < r.w2.toNat then (s, some .refused)
    else ({ s with telemPa := r.w1.toNat, telemEvery := r.w2.toNat, telemLast := s.time.toNat }, some .ok)
/-- POWER: the power limit and the highest clock; the clock lies between 350 MHz and FMAX (R463). -/
def execPower (s : State) : Out :=
  requestEv s .power fun s =>
    let p := s.req.w1.toNat
    let f := s.req.w2.toNat
    if p < 1200 ∨ 2800 < p ∨ f < 350 ∨ 700 < f ∨ f % 25 ≠ 0 then (s, some .refused)
    else ({ s with plim := p, fmax := f, mhz := Nat.min s.mhz f }, some .ok)
/-- HANG: sapwood writes SYS.HANG of the named groves. -/
def execHang (s : State) : Out :=
  requestEv s .hang fun s =>
    let r := s.req
    if r.w3.toNat < 65536 then (s, some .refused)
    else
      ((namedGroves r).foldl (fun (s : State) (g : Nat) => s.setGrove g { s.groveAt g with hang := r.w3.setWidth 32 }) s,
        some .ok)

/-! ## Services (R447, R448) -/

/-- FABREQ: sapwood accepts a request block (R418); the request of State.ev is an SVC that asks for it. -/
def execFabreq (s : State) : Out := .next (answerEv s fun i => serviceOf i = 1)
/-- ATTEST: heartwood's report is written (R448). -/
def execAttest (s : State) : Out := .next (answerEv s fun i => serviceOf i = 2)
/-- MEXT: a measurement register is extended (R443). -/
def execMext (s : State) : Out := .next (answerEv s fun i => serviceOf i = 3)

end Sys2Proof.Machine
end

