-- ==== Sys2Proof/Machine/Fabric.lean ====
section
/-! DEFINITION. Accesses from outside the package and the Canopy fabric: the host's accesses and snoops (R133, R134), releases
of dynamic-capacity extents (R416), remote accesses and the export table (R435), ports, flits and paths (R393, R433, R434),
and the combining of contributions (R132, R436). An event that is not enabled leaves the state unchanged. -/

namespace Sys2Proof.Machine
open Sys2Proof

/-! ## The host (R133, R134, R416) -/

/-- A host line written back and dropped from every pending set of a die (R134, step 4). -/
def evictLine (d : Die) (line : Nat) : Die :=
  { d with pending := d.pending.map fun e => (e.1, e.2.filter fun l => l ≠ line) }
/-- Lines that satisfy a test written back, on every die. -/
def evictLines (s : State) (f : Nat → Bool) : State :=
  { s with dies := s.dies.map fun d => (d.1, { d.2 with
    pending := d.2.pending.map fun e => (e.1, e.2.filter fun l => !f l) }) }
/-- PENDING_LINE_EVICT: the L2 of die d evicts a pending host line early. -/
def execPendingLineEvict (d line : Nat) (s : State) : Out :=
  .next (if (Map.get? s.dies d).isSome then s.setDie d (evictLine (s.dieAt d) line) else s)

/-- A read of device memory by the host or another package: every line is leased, and a read of a signal's line
acquires it (R134, step 3). -/
def readFrom (s : State) (pa len : Nat) : State :=
  outRead ((List.range (ceilDiv (pa % 64 + len) 64)).foldl (fun (s : State) (i : Nat) =>
    lineAcquire s (.dev (64 * (pa / 64 + i)))) s) (.dev pa) len
/-- HOST_MEM_ACCESS: a CXL.mem access of the host is performed at its home slice, and takes its place in the memory order.
An access outside device memory reaches nothing, and one that its controller or the pool holds is not performed yet. -/
def execHostMemAccess (write : Bool) (pa : Nat) (data : List Byte) (s : State) : Out :=
  .next (if devSize < pa + data.length || spanWaits s pa data.length then s
    else if write then
      if spanHeld s pa data.length then s else writeSpan s (.dev pa) data
    else readFrom s pa data.length)

/-- CXL_SNOOP: the host reads or takes back the line of host memory a, and the answer waits until what is pending for a
signal in it, and the line itself, have been written back (R134, step 3). With f the host then writes the low c bytes of d
at byte b of the line. -/
def execCxlSnoop (s : State) : Out :=
  let e := s.ev
  let s := evictLines (lineAcquire s (.host (64 * e.a))) fun l => l = e.a
  .next (if e.f ∧ e.b + e.c ≤ 64 then
      { s with hostMem := setBytes s.hostMem (64 * e.a + e.b) ((leBytes e.c e.d).map some) }
    else s)

/-- DC_EXTENT_RELEASE: refused while a generation is checkpointed to the extent or draining into it; else every line of the
extent is written back and dropped (R416). -/
def execDcExtentRelease (base len : Nat) (s : State) : Out :=
  let used := s.targets.any fun e =>
    e.2.host && overlap base len e.2.base e.2.len && targetUsed s e.1
  .next (if used then s else evictLines s fun l => overlap (64 * l) 64 base len)

/-! ## Remote accesses (R131, R435) -/

/-- Whether an export entry lets a chip make an access; source chip 0xFFF stands for every chip. -/
def ExportEntry.allows (e : ExportEntry) (chip pa len : Nat) (write : Bool) : Bool :=
  (e.chip = chip || e.chip = 0xFFF) && e.base ≤ pa && pa + len ≤ e.base + e.len && (!write || e.w)
/-- The atomic that a remote access carries: number a of the event, less one. -/
def remoteKind (n : Nat) : Option AtomKind :=
  if n = 0 then none else [AtomKind.add, .min, .max, .minn, .maxn, .and, .or, .xor, .xchg, .cas, .fadd][n - 1]?
/-- An atomic that has arrived from another package, performed at its home; poisoned data is not written (R456). -/
def remoteAtomic (s : State) (k : AtomKind) (pa y v n : Nat) : State :=
  if (poisonOf s (.dev pa)).isSome then s
  else
    match rmw k n (leNat (s.mem.readN pa n)) y v with
    | some x => outWrite (lineAcquire s (.dev pa)) (.dev pa) (leBytes n x)
    | none => readFrom s pa n
/-- Whether an atomic writes at a place: an ACAS that fails does not, nor one on a poisoned block (R235, R456). -/
def atomicWrites (s : State) (p : Place) (k : AtomKind) (n x new : Nat) : Bool :=
  (poisonOf s p).isNone && (rmw k n (leNat (readPlace s p n)) x new).isSome
/-- REMOTE_ACCESS: an access from another package is checked against the export table; a refused one performs nothing and is
a security event. State.ev names an atomic: its kind in a, and ACAS's new value in b, with the operand as the data. -/
def execRemoteAccess (chip : Nat) (write : Bool) (pa : Nat) (data : List Byte) (s : State) : Out :=
  let kind := remoteKind s.ev.a
  let wr := write || kind.isSome
  let writes : Bool := match kind with | some k => atomicWrites s (.dev pa) k data.length (leNat data) s.ev.b | none => write
  if !s.exports.any fun e => e.2.allows chip pa data.length wr then .next { s with security := s.security + 1 }
  else if Place.hole (.dev pa) data.length then .fault .noDeviceMemory
  else if spanWaits s pa data.length || (writes && spanHeld s pa data.length) then .next s
  else
    match kind with
    | some k => .next (remoteAtomic s k pa (leNat data) s.ev.b data.length)
    | none => .next (if write then writeSpan s (.dev pa) data else readFrom s pa data.length)

/-! ## Ports (R393, R433, R434) -/

/-- The ports of a package (R12). -/
def portCount : Nat := 24
/-- Port n replaced. -/
def State.setPort (s : State) (n : Nat) (k : Port) : State := { s with ports := Map.set s.ports n k }
/-- What is left unacknowledged once a sequence number has been acknowledged. -/
def afterAck (l : List Flit) (ack : BitVec 16) : List Flit :=
  if l.any (·.seq = ack) then (l.dropWhile (·.seq ≠ ack)).drop 1 else l
/-- A flit accepted: it acknowledges flits of the port, and returns credits; one of its own is owed for its virtual channel (R433). What a
message of another package asks for comes as an event of its own. -/
def Port.accept (k : Port) (f : Flit) : Port :=
  { k with
    expect := k.expect + 1
    unacked := afterAck k.unacked f.ack
    credits := Vector.ofFn fun i => k.credits[i] + f.credit i.val
    owed := Vector.ofFn fun i => k.owed[i] + (if i.val = f.vc.toNat then 1 else 0) }
/-- FLIT_RECEIVE: 256 bytes arrive at a port, by their first 16, their payload and their CRC. A flit whose CRC is good and whose number is
the next one is accepted; any other is dropped, and its sender resends it (R433). -/
def execFlitReceive (port : Nat) (head : BitVec 128) (payload : BitVec 1856) (crc : BitVec 64) (s : State) : Out :=
  let k := s.portAt port
  let f := Flit.ofParts head payload
  .next (if k.st = .up && crc = flitCrc head payload && f.seq = k.expect then s.setPort port (k.accept f) else s)
/-- LINK_TRAIN: a link trains at the highest version that IFVER and the other end's range both hold, where there is one, and flits
not acknowledged are sent again (R393, R433). -/
def execLinkTrain (port lo hi : Nat) (s : State) : Out :=
  let v := Nat.min hi (bits (ifver s) 22 2).toNat
  .next (if s.booted && port < portCount && lo ≤ v && offers s 20 22 2 v then
      s.setPort port { s.portAt port with st := .up, version := v }
    else s)
/-- The cycles of SYS.TIME in 1 ms and in 10 ms (R8, R434). -/
def portLimit : Nat := 700000
def pathLimit : Nat := 7000000
/-- PORT_RETRAIN_START: port a loses its link and retrains. -/
def execPortRetrainStart (s : State) : Out :=
  let k := s.portAt s.ev.a
  .next (if k.st = .up then s.setPort s.ev.a { k with st := .retraining, since := s.time.toNat } else s)
/-- Whether a port has retrained for 1 ms. -/
def retrainOver (s : State) (k : Port) : Bool := k.st = .retraining && k.since + portLimit ≤ s.time.toNat
/-- PORT_RETRAIN_TIMEOUT: port a has not retrained within 1 ms and is marked down. -/
def execPortRetrainTimeout (s : State) : Out :=
  let k := s.portAt s.ev.a
  .next (if retrainOver s k then s.setPort s.ev.a { k with st := .down } else s)

/-! ## No path (R434, R437) -/

/-- Whether a place is another package's. -/
def Place.away : Place → Bool
  | .remote .. => true
  | _ => false
/-- Whether a place is in a package to which the event says no path is left: package a with f; else any other, since every port
of this one is down. That a package is cut off beyond its ports is the event's to say (DESIGN CHOICE, assumption log 21). -/
def Place.lost (s : State) : Place → Bool
  | .remote chip _ => !s.ev.f || chip = s.ev.a
  | _ => false
/-- Whether no port has carried traffic for 10 ms. -/
def pathless (s : State) : Bool := pathLimit ≤ s.time.toNat && s.ports.all fun e => e.2.st ≠ .up && e.2.since + pathLimit ≤ s.time.toNat
/-- Whether the event's loss can be: of another package, or of all of them where no port has been up for 10 ms. -/
def lossReal (s : State) : Bool := if s.ev.f then s.ev.a ≠ s.chip else pathless s
/-- A dropped write reported to sapwood: its service context wakes, on the core of the context that wrote, or on core 0 for the front end
(R316, R434; DESIGN CHOICE, assumption log 103). -/
def reportDrop (s : State) (c : Nat) : State := wakeService s c
/-- What an operation of the context that acts holds for a lost package dropped, granule by granule. -/
def dropAcc (s : State) (a : Acc) : State :=
  if a.pieces.any fun p => p.pl.lost s then
    let t := dropPieces s a fun p => p.pl.lost s
    if a.op.noLand then reportDrop t s.core else t
  else s
/-- Whether a source of a granule lies in a package to which no path is left. -/
def srcAway (s : State) (x : Src) : Bool :=
  match x with
  | .mem va len => match jobLeads s va len false with | .ok p => p.lost s | .error _ => false
  | _ => false
/-- Where a granule that a job has read would be written in memory. -/
def dstPlace (s : State) (j : Job) (k : Nat) : Option Place :=
  let at_ (va len : Nat) : Option Place := (jobLeads s va len true).toOption
  match j.dst k with
  | .mem va len => at_ va len
  | .part va _ => at_ va 16
  | _ => none
/-- Whether a granule that a job has read would be written to a package to which no path is left. -/
def dstAway (s : State) (j : Job) (k : Nat) : Bool := (dstPlace s j k).any (Place.lost s)
/-- Whether a job holds a read of a package to which no path is left. -/
def readsAway (s : State) (j : Job) : Bool :=
  j.tok.isNone && !j.finished && !jobBehind s j && (List.range 256).any fun i =>
    let k := j.p + i
    k < j.count && !j.has k && (j.read? k).isNone &&
      (((j.unread k).map (fun b => Src.mem (j.entryAddr b) 4)).toList.any (srcAway s) || (j.srcs (fun _ => 0) k).any (srcAway s))
/-- A job's held accesses dropped: a read ends it with poison (R248); a write is lost, and fails its task's commit. -/
def dropJob (s : State) (j : Job) : State :=
  let sig : Bool := match j.op with
    | .rsig .. => !j.finished && (match jobLeads s (j.arg 0) 8 true with | .ok p => p.lost s | .error _ => false)
    | _ => false
  if readsAway s j then jobFail s s.core s.ctx j.ord j.slot 10 4
  else
    let lost := if sig then [0] else (j.buf.map (·.1)).filter fun k => !j.has k && dstAway s j k
    if lost.isEmpty then s
    else
      let s := reportDrop (lost.foldl (fun (s : State) (k : Nat) => deliver s s.core s.ctx j.ord j.slot k) s) s.core
      s.setMe { s.me with accs := s.me.accs ++ [⟨j.ord, j.slot, .failed 10 4, [], neverLands, false⟩] }
/-- A context's held accesses and jobs dropped. -/
def dropAway (s : State) (c x : Nat) : State :=
  let t := { s with core := c, ctx := x }
  let t := t.me.accs.foldl dropAcc t
  let t := t.me.jobs.foldl dropJob t
  { t with core := s.core, ctx := s.ctx }
/-- Whether an object is on its way between two chips, one of which has no path to the other. -/
def Obj.crossing (s : State) (o : Obj) : Bool :=
  match o.wh with
  | .moving c _ c' _ => c ≠ c' && (!s.ev.f || c = s.ev.a || c' = s.ev.a)
  | _ => false
/-- Where an address of a queue leads in a package to which no path is left: the first such address of a range. -/
def feLost (s : State) (q va len : Nat) (wr : Bool) : Option Nat :=
  (pagesOf va len).find? fun a => match feResolve s (asidOf (s.queueAt q).desc) a (!wr) wr with
    | .ok p => p.lost s
    | .error _ => false
/-- The address of the access that a queue's packet, or its fetch, holds for a package to which no path is left. -/
def packetLost (s : State) (q : Nat) : Option Nat :=
  let k := s.queueAt q
  match k.fetched with
  | none =>
    if k.tail.toNat ≤ k.head.toNat then none else feLost s q (qRing k.desc + 64 * (k.head.toNat % 2 ^ qLog k.desc)) 64 false
  | some i =>
    if k.st ≠ .waiting then none
    else
      match i with
      | .launch .. => (launchRanges s q i).findSome? fun r => feLost s q r.1 r.2 false
      | .signal _ addr .. | .waitsig _ addr .. => feLost s q addr.toNat 8 false
      | .wrenq _ src dst len _ _ => (feLost s q src.toNat len.toNat false).or (feLost s q dst.toNat len.toNat true)
      | _ => none
/-- What a queue holds for a lost package dropped: a kept write is lost (R434), and a packet, or a fetch, reads poison (R413; DEDUCED,
assumption log 103). -/
def dropQueue (s : State) (q : Nat) : State :=
  let k := s.queueAt q
  let kept := k.held.filter fun w => k.token.isSome || (feLost s q (w.addr k) w.data.length true).isNone
  let s := if kept.length < k.held.length then reportDrop (s.setQueue q { k with held := kept }) 0 else s
  match packetLost s q with
  | none => s
  | some a =>
    match k.st, k.fetched with
    | .active, some i | .waiting, some i =>
      let t := badPacket s q i 0x09 a
      match i with | .signal .. | .wrenq .. => reportDrop t 0 | _ => t
    | .active, none | .publishWait, none => let pk := headTag k; haltQueue s q pk.1 pk.2 0x09 a
    | _, _ => s
/-- The contributions that the switches hold for a lost home dropped: the attempt of the task that made one, where it goes on, takes class
10 at its next commit check (R434, R436). -/
def dropContribution (s : State) (n : Contribution) : State :=
  let c := keyCore n.c
  let x := keyCtx n.c
  let s := reportDrop s c
  let k := s.ctxAt c x
  match k.task.bind s.task? with
  | some t =>
    if t.began ≤ n.since then s.setCtx c x { k with accs := k.accs ++ [⟨n.ord, lostMark + noSlot, .failed 10 4, [], neverLands, false⟩] }
    else s
  | none => s
/-- The contributions of a window dropped where its home is lost. -/
def dropWindow (s : State) (n : Nat) (w : RedWin) : State :=
  if w.home = s.chip || !(Place.remote w.home w.base).lost s then s
  else w.held.foldl dropContribution { s with redWins := Map.set s.redWins n { w with held := [] } }
/-- PATH_LOSS_TIMEOUT: 10 ms have passed with no path to another package, or to package a with f: every access held for it is
dropped, and a move to or from it is abandoned. -/
def execPathLossTimeout (s : State) : Out :=
  .next (if !lossReal s then s
    else
      let t := s.ctxs.foldl (fun (t : State) (e : Nat × Ctx) => dropAway t (keyCore e.1) (keyCtx e.1)) s
      let t := t.queues.foldl (fun (t : State) (e : Nat × Queue) => dropQueue t e.1) t
      let t := t.redWins.foldl (fun (t : State) (e : Nat × RedWin) => dropWindow t e.1 e.2) t
      (t.objs.filter fun e => e.2.crossing t).foldl (fun (t : State) (e : Nat × Obj) => moveAbandon t e.1) (settleSignals t))

/-! ## What other packages and heartwood do (DESIGN CHOICE, assumption log 12) -/

/-- An object that another package has made: its home is there (R302, R324). -/
def objectAway (s : State) (chip g : Nat) (x : W64) (part : BitVec 4) : State :=
  let tiles := (bits x 0 6).toNat + 1
  let ldk := (bits x 8 4).toNat
  let ldv := (bits x 12 4).toNat
  let us := newUnits s (unitsOf (tiles * 2 ^ ldk * 2 ^ ldv * (if tst x 16 then 2 else 4)))
  let used := (usedObjects s).filter fun k => k / 2 ^ 32 = chip
  let key := chip * 2 ^ 32 + firstFree (used.map (· % 2 ^ 32)) (2 ^ 32) used.length 1
  let wh := if us.length ≤ freeCharge s chip g then Where.resident chip g else .tier chip
  if chip = s.chip ∨ 96 ≤ g ∨ hnewBad x then s else (zeroUnits s us).setObj key (blankObj s wh ldk ldv tiles (tst x 16) us part)
/-- Whether an object is resident in another package. -/
def residentAway (s : State) (o : Obj) : Bool := match o.wh with | .resident c _ => c ≠ s.chip | _ => false
/-- A snapshot, fork or rollback made in another package, of an object that is resident in the grove that makes it and whose charge
it leaves within the grove's room (R305, R306, R321, R332). -/
def shareAway (s : State) (chip g : Nat) (part : BitVec 4) (i : Instr) (x y : W64) : State :=
  let key := objKey x
  match lookHandle s part x, engCheck s part i [] x y with
  | some (o, _), .ok n =>
    let t := match i with
      | .hroll .. => match lookHandle s part y with | some (_, us) => effRoll s key us | none => s
      | _ => effOf s part i x (objKey n) (selOf n)
    let t := match i, t.obj? key with
      | .hsnap .., some b => t.setObj key { b with nextSel := b.nextSel + 1 }
      | _, _ => t
    if o.wh ≠ .resident chip g ∨ 4096 < usedCharge t chip g then s else useObjects t [key]
  | _, _ => s
/-- What a context of another package asks of the directory, or does to an object (R332). -/
def askAway (s : State) (chip g : Nat) (part : BitVec 4) (i : Instr) (x y : W64) : State :=
  match i with
  | .hpin .. => (hpinAnswer s part x).1
  | .hunpin .. => (hunpinAnswer s part x).1
  | .hfree .. => ((hfreeAnswer s part x).map (·.1)).getD s
  | .hmig .. => (hmigAnswer s part x y).1
  | .spin .. => if (lookHandle s part x).isSome then (spinAsk s chip g (objKey x)).1 else s
  | .spout .. => if (lookHandle s part x).isSome then (spoutAsk s (objKey x)).1 else s
  | .hsnap .. | .hfork .. | .hroll .. => shareAway s chip g part i x y
  | _ => s
/-- What another package, or heartwood, does. -/
def awayAct (s : State) (a : Away) : State :=
  let there (key : Nat) (f : Obj → State) : State :=
    match s.obj? key with
    | some o => if residentAway s o then f o else s
    | none => s
  match a with
  | .write chip pa bs =>
    if chip = s.chip then s
    else { s with remoteMem := Map.set s.remoteMem chip (setBytes (Map.at_ s.remoteMem chip []) pa (bs.map some)) }
  | .object chip g x part => objectAway s chip g x part
  | .unit key k x => there key fun _ => writeUnit s key k x
  | .touch key chip g => if chip = s.chip ∨ 96 ≤ g then s else touch s key (awayCore chip g) 0
  | .ask chip g part i x y => if chip = s.chip ∨ 96 ≤ g then s else askAway s chip g part i x y
  | .message c => if c < 768 then wakeService s c else s

/-! ## Combining (R132, R436) -/

/-- Two contributions to one address with equal operation and size merge. An ACAS, whose outcome hangs on what it finds, is performed by
itself (DESIGN CHOICE, assumption log 48). -/
def Contribution.merges (a b : Contribution) : Bool := a.op = b.op && a.len = b.len && a.pa = b.pa && a.op ≠ .cas
/-- The operand of the write that two contributions merge into, in arrival order. -/
def mergeOperand (a b : Contribution) : Nat := (rmw a.op a.len a.x b.x 0).getD b.x
/-- Contributions in their groups, in order of first arrival. -/
def mergeGroups : List Contribution → List Contribution
  | l => l.foldl (fun (gs : List Contribution) (c : Contribution) =>
      if gs.any fun g => g.merges c then gs.map fun g => if g.merges c then { g with x := mergeOperand g c } else g
      else gs ++ [c]) []
/-- A merged write performed at the home of its window. -/
def mergedWrite (s : State) (home : Nat) (m : Contribution) : State :=
  let p : Place := if home = s.chip then .dev m.pa else .remote home m.pa
  let s := sendTo s p
  if (poisonOf s p).isSome then s
  else
    match rmw m.op m.len (leNat (readPlace s p m.len)) m.x m.new with
    | some v => outWrite s p (leBytes m.len v)
    | none => outTouch s p
/-- The contributions that a group's merged write stands for. -/
def Contribution.within (m c : Contribution) : Bool := if m.op = .cas then c = m else m.merges c
/-- A contribution that acquires has been performed: what it has acquired is written back, and its context goes on above it (R129, R131,
R134). -/
def endContribution (s : State) (p : Place) (n : Contribution) : State :=
  if !n.acq then s
  else
    let c := keyCore n.c
    let x := keyCtx n.c
    let k := s.ctxAt c x
    let s := s.setCtx c x { k with lts := BitVec.ofNat 64 (Nat.max k.lts.toNat s.outTs) }
    if n.sys then sysAcquire s p else s
/-- The home of a merged write. -/
def RedWin.place (w : RedWin) (s : State) (m : Contribution) : Place := if w.home = s.chip then .dev m.pa else .remote w.home m.pa
/-- Whether a merged write is held for pool space (R351). -/
def mergedHeld (s : State) (w : RedWin) (m : Contribution) : Bool :=
  placeHeld s (w.place s m) && atomicWrites s (w.place s m) m.op m.len m.x m.new
/-- COMBINE_INTERVAL_EXPIRE: the interval of group b of window a ends, and its merged write reaches the home: merged writes of
unequal operation or size reach it in either order (R436). -/
def execCombineIntervalExpire (s : State) : Out :=
  .next (match Map.get? s.redWins s.ev.a with
    | none => s
    | some w =>
      match (mergeGroups w.held)[s.ev.b]? with
      | none => s
      | some m =>
        let p := w.place s m
        if placeWaits s p || mergedHeld s w m || p.hole m.len then s
        else
          let (gone, rest) := w.held.partition m.within
          let t := mergedWrite { s with redWins := Map.set s.redWins s.ev.a { w with held := rest } } w.home m
          settleSignals (gone.foldl (fun t n => endContribution t p n) t))

end Sys2Proof.Machine
end

