-- ==== Sys2Proof/Machine/Firmware.lean ====
section
/-! DEFINITION. Memory controllers and base-die links (R428, R430, R446, R459, R460), boot, keys and measurement (R438, R440,
R442-R445), telemetry and power (R461, R463), and lockstep (R452, R453). What hardware or the owner brings about is carried by
`State.ev` (DESIGN CHOICE, assumption log 21). An event that is not enabled leaves the state unchanged. -/

namespace Sys2Proof.Machine
open Sys2Proof

/-! ## Retirement (R428-R430, R460) -/

/-- FRAME_RETIRE: the device's own policy retires frame a: an uncorrectable error in it, or 16 corrected ones in one window;
not a frame retired or being retired, and only while a spare is free. -/
def execFrameRetire (s : State) : Out :=
  let f := s.ev.a
  .next (if s.worn.contains f && !(s.retiring.any fun r => r.frame = f) && !frameRetired s f &&
      (if poolFrame s f then poolSpare s else s.spares ≠ 0) then (if poolFrame s f then retirePool s f else startRetire s f)
    else s)
/-- The cached translations that lead into no byte of a frame (R428, step 3). -/
def dropFrame (f : Nat) (l : List TlbEntry) : List TlbEntry :=
  l.filter fun e => !(e.tgt = 0 && overlap e.pa (2 ^ e.k) (f * 65536) 65536)
/-- RETIRE_COPY_DONE: frame a's content has been copied to its spare, with d what the check of R455 found of the block at
position b; the remap is written, cached translations of its addresses are dropped, and the accesses held go on. A RETIRE of
the frame answers OK, once its STATUS can be written (R351, R428). -/
def execRetireCopyDone (s : State) : Out :=
  let f := s.ev.a
  .next (match s.retiring.find? fun r => r.frame = f with
    | none => s
    | some r =>
      -- a frame lies across all sixteen stacks (R427)
      if (List.range 16).any (rekeys s) then s else
      -- a line whose read meets an uncorrectable error is copied poisoned (R428, R455)
      let s := (List.range 512).foldl (fun s i => countLink s (f * 65536 + 128 * i)) s
      let s := if s.ev.b < 1024 then checkHbm s (.dev (f * 65536 + 64 * s.ev.b)) (hbmCheck s.ev.d) else s
      let s := { s with
        remap := Map.set s.remap f r.spare
        retiring := s.retiring.filter fun r => r.frame ≠ f
        ecc := Map.del s.ecc f
        worn := s.worn.filter fun x => x ≠ f
        cores := s.cores.map fun (c : Nat × Core) => (c.1, { c.2 with tlb := dropFrame f c.2.tlb })
        groves := s.groves.map fun (g : Nat × Grove) => (g.1, { g.2 with tlb := dropFrame f g.2.tlb }) }
      let mine := s.reqs.filter fun p => p.op = .retire && p.req.w1.toNat = f
      mine.foldl (fun (s : State) (p : Pending) => if blockHeld s p then s else finishReq s p .ok) s)

/-! ## Channels and base-die links (R446, R459) -/

/-- PARITY_ALERT: channel a replays what followed the last good command; with f the replay fails too, and after eight in a row
the channel retrains. -/
def execParityAlert (s : State) : Out :=
  let k := Map.at_ s.chans s.ev.a Chan.reset
  let n := if s.ev.f then k.replays + 1 else 0
  let s' := s.count fun c => { c with capar := c.capar + 1 }
  .next (if 512 ≤ s.ev.a || k.failed || k.retraining then s
    else { s' with chans := Map.set s.chans s.ev.a { k with replays := n, retraining := decide (8 ≤ n), since := s.time.toNat } })
/-- CHANNEL_RETRAIN_DONE: channel a's retraining ends, and its held accesses go on; with f it has failed, and so has the
channel. -/
def execChannelRetrainDone (s : State) : Out :=
  let k := Map.at_ s.chans s.ev.a Chan.reset
  .next (if k.retraining then { s with chans := Map.set s.chans s.ev.a ⟨s.ev.f, false, 0, 0⟩ } else s)
/-- LINK_REKEY: stack a's link takes a new key after 2^36 transfers, and its held accesses go on. -/
def execLinkRekey (s : State) : Out :=
  let n := s.ev.a
  .next (if rekeys s n then
      { s with linkUse := Map.set s.linkUse n 0, linkKeys := Map.set s.linkKeys n (Config.freeKey s.fresh n) }
    else s)
/-- LINK_TAG_FAIL: the tag of a transfer of the block at physical address a fails, and the transfer is resent; with f the
resend fails too, and the block is poisoned as an integrity violation. -/
def execLinkTagFail (s : State) : Out :=
  let s := countLink s s.ev.a
  .next (if s.ev.f ∧ s.ev.a < devSize then { poisonAt s (.dev s.ev.a) 11 2 with security := s.security + 1 } else s)

/-! ## Boot (R442-R445) -/

/-- Device reset: what persists is the key slots, the security version, the bad-frame list and the package's number; host
memory and other packages are not the device's. -/
def resetState (s : State) : State :=
  { State.reset with
    hostMem := s.hostMem
    remoteMem := s.remoteMem
    chip := s.chip
    remap := s.remap
    spares := 4096 - s.remap.length
    keySlots := s.keySlots
    svn := s.svn
    fresh := s.fresh
    agenda := s.agenda }
/-- The signed message of a firmware image: its bytes before the signature block (R441). -/
def fwMessage (img : List Byte) : List Byte := img.take (img.length - 3456)
/-- The signature block of a firmware image (R441). -/
def signBlock (img : List Byte) : List Byte := img.drop (img.length - 3456)
/-- SVN of a firmware image (R441). -/
def fwSvn (img : List Byte) : Nat := numAt (signBlock img) 8 4
/-- Whether heartwood, or the boot ROM, accepts a firmware image under slot 0 beside a security version (R442). -/
def firmwareOk (s : State) (svn : Nat) (img : List Byte) : Bool :=
  decide (3456 ≤ img.length) && decide (svn ≤ fwSvn img) && signedUnder s 0 (fwMessage img) (signBlock img)
/-- The boot step that fails, if any: steps 1 and 6 refuse an image that heartwood does not accept, the second beside the security version
that step 2 has raised; that a link or base die fails to authenticate in step 3, or the persistent store is unreadable in step 4, is
the event's to say (R442, R444; DESIGN CHOICE, assumption log 21). -/
def bootFails (linkFails storeFails : Bool) (heart sap : List Byte) (s : State) : Option Nat :=
  if !firmwareOk s s.svn heart then some 1
  else if linkFails then some 3
  else if storeFails then some 4
  else if !firmwareOk s (Nat.max s.svn (fwSvn heart)) sap then some 6
  else none
/-- The service context of a core loaded with sapwood, at its entry (R439, R440, R444; PRESUMED, assumption log 100). -/
def loadService (s : State) (c : Nat) : State :=
  let pc := match s.sapwood with | some i => (i.types.head?.map (·.entry)).getD 0 | none => 0
  s.setCtx c 8 { Ctx.reset c 8 with st := .running, pc := pc, nextAt := (s.coreAt c).cyc }
/-- Every stack's keys: those of one kind (R445). -/
def newKeys (s : State) (kind : Nat) : Map (BitVec 256) :=
  (List.range 16).map fun n => (n, Config.freeKey s.fresh (16 * kind + n))
/-- Boot step n, where it succeeds (R444). Step 5 writes zeros under the new memory keys over what a device reset has left unreadable. -/
def bootStep (heart sap : List Byte) (s : State) (n : Nat) : State :=
  match n with
  | 1 => extendMeas s 0 (Config.sha384 (fwMessage heart))
  | 2 => { s with svn := Nat.max s.svn (fwSvn heart) }
  | 3 => { s with linkKeys := newKeys s 0, memKeys := newKeys s 1 }
  | 4 => extendMeas s 2 (Config.sha384 (Config.badFrameBytes s.remap))
  | 5 => { s with mem := [], poolFrames := 0 }
  | 6 =>
    let s := extendMeas s 1 (Config.sha384 (fwMessage sap))
    (List.range 768).foldl loadService { s with sapwood := some (imageRead (fwMessage sap)) }
  | 7 => { s with booted := true }
  | _ => s
/-- DEVICE_RESET: the boot sequence, to its end or to the step that fails. The event carries the bytes of the heartwood and sapwood images,
and whether steps 3 and 4 fail. -/
def execDeviceReset (linkFails storeFails : Bool) (heart sap : List Byte) (s : State) : Out :=
  let r := resetState s
  .next (match bootFails linkFails storeFails heart sap r with
    | none => (List.range 8).foldl (bootStep heart sap) r
    | some n => { (List.range n).foldl (bootStep heart sap) r with bootFail := n })

/-- Whether a request is an SVC. -/
def svcReq (r : Req) : Bool := match r.op with | .svc .. => true | _ => false
/-- The SVCs in flight of a context answer all ones (R440). -/
def svcLost (s : State) (c x : Nat) : State :=
  let t := { s with core := c, ctx := x }
  let t := (t.me.reqs.filter svcReq).foldl (fun (t : State) (r : Req) =>
    landData (t.setMe { t.me with reqs := t.me.reqs.filter fun q => q.ord ≠ r.ord }) (.s (reqDest r.op) (BitVec.allOnes 64))
      r.ord 0 r.bound false) t
  { t with core := s.core, ctx := s.ctx }
/-- SAPWOOD_RELOAD: the service context of core a has raised a cause that sapwood cannot handle; it is loaded again and restarts at its
entry, and the core's SVCs in flight answer all ones. -/
def execSapwoodReload (s : State) : Out :=
  let c := s.ev.a
  let k := s.ctxAt c 8
  .next (if k.st = .parked ∧ k.task = none then
      loadService ((List.range 8).foldl (fun (s : State) (x : Nat) => svcLost s c x) s) c
    else s)

/-- KEY_SLOT_PROVISION: the owner provisions key slot a, of 1 to 7. -/
def execKeySlotProvision (s : State) : Out :=
  let n := s.ev.a
  .next (if 1 ≤ n ∧ n ≤ 7 ∧ Map.get? s.keySlots n = none then { s with keySlots := Map.set s.keySlots n true } else s)
/-- KEY_SLOT_REVOKE: a provisioned slot is revoked, and heartwood refuses images signed under it. -/
def execKeySlotRevoke (s : State) : Out :=
  let n := s.ev.a
  .next (if 1 ≤ n ∧ n ≤ 7 ∧ Map.get? s.keySlots n = some true then { s with keySlots := Map.set s.keySlots n false } else s)

/-! ## Telemetry (R461) -/

/-- Two 32-bit fields in one word. -/
def pairWord (a b : Nat) : Nat := a % 2 ^ 32 + b % 2 ^ 32 * 2 ^ 32
/-- The words of the telemetry area from 0x008 to 0x0FF. -/
def telemHead (s : State) (watts temp : Nat) : List Nat :=
  let k := s.counters
  [s.time.toNat, pairWord s.mhz watts, k.capcyc, pairWord temp s.throttled, k.eccCorr, k.eccUnc, k.integ, k.capar,
    pairWord (s.remap.length + s.poolGone.length) s.spares, k.shoots, k.runaway, pairWord k.snapOk k.snapFail,
    pairWord s.poolFrames (ceilDiv s.copies.length 16), k.poolHold, k.pgin, k.pgout, k.pggrove, k.pgchip, k.stabs, k.hangs] ++
    List.replicate 11 0
/-- The record of grove g. -/
def telemGrove (s : State) (g : Nat) : List Nat :=
  let k := s.groveAt g
  let frz := (List.range 8).foldl (fun (n : Nat) (i : Nat) => n + (s.coreAt (g * 8 + i)).frzcore.toNat) 0
  [frz, k.issue, k.svcIss, k.parks, k.evict,
    pairWord (usedCharge s s.chip g) (k.part.toNat + (if k.prot then 256 else 0)), k.mismatch, k.fails]
/-- A 64-bit word stored by firmware. -/
def storeWord (s : State) (pa x : Nat) : State := outWrite s (.dev pa) (leBytes 8 x)
/-- Words stored one after another. -/
def storeWords (s : State) (pa : Nat) : List Nat → State
  | [] => s
  | x :: t => storeWords (storeWord s pa x) (pa + 8) t
/-- TELEM_WRITE: sapwood writes the area at the end of an interval, whose microseconds are 700 cycles each (R8): SEQ odd, every
field, SEQ even. The event carries the watts averaged in a and the highest junction temperature in b. -/
def execTelemWrite (s : State) : Out :=
  .next (if s.telemPa = 0 ∨ s.time.toNat < s.telemLast + s.telemEvery * 700 ∨ spanHeld s s.telemPa 8192 ∨
      spanWaits s s.telemPa 8192 then s
    else
      let t := storeWord s s.telemPa (s.telemSeq + 1)
      let t := storeWords t (s.telemPa + 8) (telemHead s s.ev.a s.ev.b ++ (List.range 96).flatMap (telemGrove s))
      let t := storeWord t s.telemPa (s.telemSeq + 2)
      { t with telemSeq := s.telemSeq + 2, telemLast := s.time.toNat })

/-! ## Power (R463) -/

/-- The clock one step lower, and no lower than 350 MHz. -/
def stepDown (mhz : Nat) : Nat := Nat.max 350 (mhz - 25)
/-- Whether a power and a junction temperature lie below the limits beneath which the clock may rise: 95 % of PLIM and 90 °C. -/
def cool (s : State) (watts temp : Nat) : Bool := decide (watts * 100 < s.plim * 95 ∧ temp < 90)
/-- The 10 ms that a step up needs start again. -/
def warm (s : State) : State := { s with warmAt := s.time.toNat }
/-- POWER_AVERAGE_CHECK: the power averaged over 1 ms, a, with the junction at b, is compared with PLIM: the clock drops at most one step
each 1 ms, which is 700,000 cycles (R8; DEDUCED, assumption log 104). -/
def execPowerAverageCheck (s : State) : Out :=
  let t := if cool s s.ev.a s.ev.b then s else warm s
  let due : Bool := match s.powerAt with | some n => decide (n + 700000 ≤ s.time.toNat) | none => true
  .next (if s.plim < s.ev.a ∧ due then { t with mhz := stepDown s.mhz, powerAt := some s.time.toNat } else t)
/-- JUNCTION_95C: the clock drops one step. -/
def execJunction95c (s : State) : Out := .next { warm s with mhz := stepDown s.mhz, throttled := s.throttled + 1 }
/-- JUNCTION_105C: the clock goes to 350 MHz at once. -/
def execJunction105c (s : State) : Out := .next { warm s with mhz := 350, throttled := s.throttled + 1 }
/-- JUNCTION_115C: every clock is gated until a device reset, and the host link drops. -/
def execJunction115c (s : State) : Out := .next { s with gated := true }
/-- CLOCK_STEP_UP: power a and junction b have stayed below 95 % of PLIM and 90 °C for 10 ms, which is 7,000,000 cycles; the clock rises one
step, and no higher than FMAX (R463; DEDUCED, assumption log 104). -/
def execClockStepUp (s : State) : Out :=
  .next (if !cool s s.ev.a s.ev.b then warm s
    else if s.warmAt + 7000000 ≤ s.time.toNat then { warm s with mhz := Nat.min s.fmax (s.mhz + 25) }
    else s)

/-! ## Lockstep (R452, R453) -/

/-- What a mismatched bundle of a context, and every later one, has not yet performed is dropped: those before it have matched
(R453). -/
def dropFrom (k : Ctx) (ord : Nat) : Ctx :=
  { k with
    matched := ord
    unmatched := []
    accs := k.accs.filter fun a => a.ord < ord
    reqs := k.reqs.filter fun r => r.ord < ord
    jobs := k.jobs.filter fun j => j.ord < ord }
/-- A bundle of a context mismatches: it has no effect beyond the core, and its task, if it goes on, takes class 10, code 0x0020, in
place of what a later bundle has raised (R453). -/
def mismatch (s : State) (c x ord : Nat) : State :=
  let s := dropEng s c fun o => o.x = x && ord ≤ o.ord
  let k := dropFrom (s.ctxAt c x) ord
  s.setCtx c x (if k.st = .ending then k else { k with err := some ⟨0, 10, 0x20, noSlot, 0, 0, 0⟩ })
/-- LOCKSTEP_COMPARE: the signatures of the pair led by core a are compared up to the bundle of issue order d of context b, which the
trailing core has issued two cycles after it; with f they differ there, and the bundle's task takes class 10, code 0x0020. -/
def execLockstepCompare (s : State) : Out :=
  let c := s.ev.a
  let x := s.ev.b
  let k := s.ctxAt c x
  let g := s.groveAt (groveOf c)
  let due : Bool := k.unmatched.any fun u => u.1 = s.ev.d && decide (u.2 + 2 ≤ s.time.toNat)
  .next (if !g.prot || c % 2 = 1 || !due then s
    else if s.ev.f then mismatch (s.setGrove (groveOf c) { g with mismatch := g.mismatch + 1 }) c x s.ev.d
    else
      let t := s.setCtx c x { k with matched := s.ev.d + 1, unmatched := k.unmatched.filter fun u => s.ev.d < u.1 }
      { leaveEdge { t with core := c, ctx := x } k.matched s.ev.d with core := s.core, ctx := s.ctx })

end Sys2Proof.Machine
end

