-- ==== Sys2Proof/Machine/Dispatch.lean ====
section
/-! DEFINITION. One arm per instruction: the meaning it has. -/

namespace Sys2Proof.Machine
open Sys2Proof

def exec (i : Instr) (s : State) : Host.Outcome State Fault Refusal :=
  match i with
  | .nop => Sys2Proof.Machine.execNop s
  | .add d a y => Sys2Proof.Machine.execAdd d a y s
  | .sub d a y => Sys2Proof.Machine.execSub d a y s
  | .mul d a y => Sys2Proof.Machine.execMul d a y s
  | .mulh d a y => Sys2Proof.Machine.execMulh d a y s
  | .mulhn d a y => Sys2Proof.Machine.execMulhn d a y s
  | .div d a y => Sys2Proof.Machine.execDiv d a y s
  | .divn d a y => Sys2Proof.Machine.execDivn d a y s
  | .rem d a y => Sys2Proof.Machine.execRem d a y s
  | .remn d a y => Sys2Proof.Machine.execRemn d a y s
  | .and d a y => Sys2Proof.Machine.execAnd d a y s
  | .or d a y => Sys2Proof.Machine.execOr d a y s
  | .xor d a y => Sys2Proof.Machine.execXor d a y s
  | .andn d a y => Sys2Proof.Machine.execAndn d a y s
  | .shl d a y => Sys2Proof.Machine.execShl d a y s
  | .shr d a y => Sys2Proof.Machine.execShr d a y s
  | .sar d a y => Sys2Proof.Machine.execSar d a y s
  | .rol d a y => Sys2Proof.Machine.execRol d a y s
  | .min d a y => Sys2Proof.Machine.execMin d a y s
  | .max d a y => Sys2Proof.Machine.execMax d a y s
  | .minn d a y => Sys2Proof.Machine.execMinn d a y s
  | .maxn d a y => Sys2Proof.Machine.execMaxn d a y s
  | .clz d a => Sys2Proof.Machine.execClz d a s
  | .ctz d a => Sys2Proof.Machine.execCtz d a s
  | .popc d a => Sys2Proof.Machine.execPopc d a s
  | .sext d a w => Sys2Proof.Machine.execSext d a w s
  | .zext d a w => Sys2Proof.Machine.execZext d a w s
  | .sel d a b neg p => Sys2Proof.Machine.execSel d a b neg p s
  | .movi d v => Sys2Proof.Machine.execMovi d v s
  | .movhi d v => Sys2Proof.Machine.execMovhi d v s
  | .bfx d a pos len => Sys2Proof.Machine.execBfx d a pos len s
  | .bfi d a pos len => Sys2Proof.Machine.execBfi d a pos len s
  | .cmp c n d a y => Sys2Proof.Machine.execCmp c n d a y s
  | .pand d a b nb na => Sys2Proof.Machine.execPand d a b nb na s
  | .por d a b nb na => Sys2Proof.Machine.execPor d a b nb na s
  | .pxor d a b nb na => Sys2Proof.Machine.execPxor d a b nb na s
  | .pnot d a => Sys2Proof.Machine.execPnot d a s
  | .pmov d a => Sys2Proof.Machine.execPmov d a s
  | .bta d t => Sys2Proof.Machine.execBta d t s
  | .btrWrite d a off => Sys2Proof.Machine.execBtrWrite d a off s
  | .btrRead d a => Sys2Proof.Machine.execBtrRead d a s
  | .loopWrite d y => Sys2Proof.Machine.execLoopWrite d y s
  | .loopRead d a => Sys2Proof.Machine.execLoopRead d a s
  | .rdpc d off => Sys2Proof.Machine.execRdpc d off s
  | .fadd f d a b => Sys2Proof.Machine.execFadd f d a b s
  | .fsub f d a b => Sys2Proof.Machine.execFsub f d a b s
  | .fmul f d a b => Sys2Proof.Machine.execFmul f d a b s
  | .ffma f d a b c => Sys2Proof.Machine.execFfma f d a b c s
  | .fdiv f d a b => Sys2Proof.Machine.execFdiv f d a b s
  | .fsqrt f d a => Sys2Proof.Machine.execFsqrt f d a s
  | .fmin f d a b => Sys2Proof.Machine.execFmin f d a b s
  | .fmax f d a b => Sys2Proof.Machine.execFmax f d a b s
  | .fcmp c f d a b => Sys2Proof.Machine.execFcmp c f d a b s
  | .fcvt d a m src dst => Sys2Proof.Machine.execFcvt d a m src dst s
  | .ld sz n d a disp land => Sys2Proof.Machine.execLd sz n d a disp land s
  | .st sz b a disp => Sys2Proof.Machine.execSt sz b a disp s
  | .ldfe q sz n d a disp land => Sys2Proof.Machine.execLdfe q sz n d a disp land s
  | .stfe q sz b a disp => Sys2Proof.Machine.execStfe q sz b a disp s
  | .ldg sz n d a b disp land => Sys2Proof.Machine.execLdg sz n d a b disp land s
  | .fence sc => Sys2Proof.Machine.execFence sc s
  | .pref l2 a disp => Sys2Proof.Machine.execPref l2 a disp s
  | .aadd d a b o => Sys2Proof.Machine.execAadd d a b o s
  | .amin d a b o => Sys2Proof.Machine.execAmin d a b o s
  | .amax d a b o => Sys2Proof.Machine.execAmax d a b o s
  | .aminn d a b o => Sys2Proof.Machine.execAminn d a b o s
  | .amaxn d a b o => Sys2Proof.Machine.execAmaxn d a b o s
  | .aand d a b o => Sys2Proof.Machine.execAand d a b o s
  | .aor d a b o => Sys2Proof.Machine.execAor d a b o s
  | .axor d a b o => Sys2Proof.Machine.execAxor d a b o s
  | .axchg d a b o => Sys2Proof.Machine.execAxchg d a b o s
  | .acas d a b o => Sys2Proof.Machine.execAcas d a b o s
  | .afadd d a b o => Sys2Proof.Machine.execAfadd d a b o s
  | .red op a b o => Sys2Proof.Machine.execRed op a b o s
  | .arrive sc d a disp land => Sys2Proof.Machine.execArrive sc d a disp land s
  | .waitb sc d a b disp land => Sys2Proof.Machine.execWaitb sc d a b disp land s
  | .waitbTry sc d a b disp land => Sys2Proof.Machine.execWaitbTry sc d a b disp land s
  | .binit sc a b disp => Sys2Proof.Machine.execBinit sc a b disp s
  | .spawn d a land => Sys2Proof.Machine.execSpawn d a land s
  | .spawnk d a b land => Sys2Proof.Machine.execSpawnk d a b land s
  | .tabort code => Sys2Proof.Machine.execTabort code s
  | .tstat d a land => Sys2Proof.Machine.execTstat d a land s
  | .watch d a disp land => Sys2Proof.Machine.execWatch d a disp land s
  | .unwatch d a land => Sys2Proof.Machine.execUnwatch d a land s
  | .wstat d a land => Sys2Proof.Machine.execWstat d a land s
  | .snap d land => Sys2Proof.Machine.execSnap d land s
  | .gdrop d a land => Sys2Proof.Machine.execGdrop d a land s
  | .groll d a b land => Sys2Proof.Machine.execGroll d a b land s
  | .ckpt d a b land => Sys2Proof.Machine.execCkpt d a b land s
  | .gstat d a land => Sys2Proof.Machine.execGstat d a land s
  | .hnew d a land => Sys2Proof.Machine.execHnew d a land s
  | .hfree d a land => Sys2Proof.Machine.execHfree d a land s
  | .hfork d a land => Sys2Proof.Machine.execHfork d a land s
  | .havg d a b n land => Sys2Proof.Machine.execHavg d a b n land s
  | .hsnap d a land => Sys2Proof.Machine.execHsnap d a land s
  | .hroll d a b land => Sys2Proof.Machine.execHroll d a b land s
  | .hmig d a b land => Sys2Proof.Machine.execHmig d a b land s
  | .hpin d a land => Sys2Proof.Machine.execHpin d a land s
  | .hunpin d a land => Sys2Proof.Machine.execHunpin d a land s
  | .hstat d a land => Sys2Proof.Machine.execHstat d a land s
  | .pgready d a b land => Sys2Proof.Machine.execPgready d a b land s
  | .rdsys d num => Sys2Proof.Machine.execRdsys d num s
  | .wrsys a num => Sys2Proof.Machine.execWrsys a num s
  | .trap code => Sys2Proof.Machine.execTrap code s
  | .svc d a service land => Sys2Proof.Machine.execSvc d a service land s
  | .phase n => Sys2Proof.Machine.execPhase n s
  | .halt => Sys2Proof.Machine.execHalt s
  | .vnop => Sys2Proof.Machine.execVnop s
  | .vadd t d a b g => Sys2Proof.Machine.execVadd t d a b g s
  | .vsub t d a b g => Sys2Proof.Machine.execVsub t d a b g s
  | .vmul t d a b g => Sys2Proof.Machine.execVmul t d a b g s
  | .vfma t d a b c g => Sys2Proof.Machine.execVfma t d a b c g s
  | .vfms t d a b c g => Sys2Proof.Machine.execVfms t d a b c g s
  | .vfnma t d a b c g => Sys2Proof.Machine.execVfnma t d a b c g s
  | .vmin t n d a b g => Sys2Proof.Machine.execVmin t n d a b g s
  | .vmax t n d a b g => Sys2Proof.Machine.execVmax t n d a b g s
  | .vabs t d a g => Sys2Proof.Machine.execVabs t d a g s
  | .vneg t d a g => Sys2Proof.Machine.execVneg t d a g s
  | .vaddsat t n d a b g => Sys2Proof.Machine.execVaddsat t n d a b g s
  | .vsubsat t n d a b g => Sys2Proof.Machine.execVsubsat t n d a b g s
  | .vmulh t n d a b g => Sys2Proof.Machine.execVmulh t n d a b g s
  | .vrcp t d a g => Sys2Proof.Machine.execVrcp t d a g s
  | .vrsq t d a g => Sys2Proof.Machine.execVrsq t d a g s
  | .vexp2 t d a g => Sys2Proof.Machine.execVexp2 t d a g s
  | .vlog2 t d a g => Sys2Proof.Machine.execVlog2 t d a g s
  | .vtanh t d a g => Sys2Proof.Machine.execVtanh t d a g s
  | .vsigm t d a g => Sys2Proof.Machine.execVsigm t d a g s
  | .vsqrt t d a g => Sys2Proof.Machine.execVsqrt t d a g s
  | .vdiv t d a b g => Sys2Proof.Machine.execVdiv t d a b g s
  | .vand t d a b g => Sys2Proof.Machine.execVand t d a b g s
  | .vor t d a b g => Sys2Proof.Machine.execVor t d a b g s
  | .vxor t d a b g => Sys2Proof.Machine.execVxor t d a b g s
  | .vnot t d a g => Sys2Proof.Machine.execVnot t d a g s
  | .vshl t d a y g => Sys2Proof.Machine.execVshl t d a y g s
  | .vshr t d a y g => Sys2Proof.Machine.execVshr t d a y g s
  | .vsar t d a y g => Sys2Proof.Machine.execVsar t d a y g s
  | .vcmp c t n d a b g => Sys2Proof.Machine.execVcmp c t n d a b g s
  | .vsel t d a b sel g => Sys2Proof.Machine.execVsel t d a b sel g s
  | .vpand d a b nb na => Sys2Proof.Machine.execVpand d a b nb na s
  | .vpor d a b nb na => Sys2Proof.Machine.execVpor d a b nb na s
  | .vpnot d a => Sys2Proof.Machine.execVpnot d a s
  | .vany t d a g => Sys2Proof.Machine.execVany t d a g s
  | .vall t d a g => Sys2Proof.Machine.execVall t d a g s
  | .vpcnt t d a g => Sys2Proof.Machine.execVpcnt t d a g s
  | .vcvt dst src n sat m part d a g => Sys2Proof.Machine.execVcvt dst src n sat m part d a g s
  | .vqnt dst src part d a b c g => Sys2Proof.Machine.execVqnt dst src part d a b c g s
  | .vdqnt dst src part d a b c g => Sys2Proof.Machine.execVdqnt dst src part d a b c g s
  | .vmov t d a g => Sys2Proof.Machine.execVmov t d a g s
  | .vbcast t d x g => Sys2Proof.Machine.execVbcast t d x g s
  | .vextr t n d a ix => Sys2Proof.Machine.execVextr t n d a ix s
  | .vinsr t d x ix => Sys2Proof.Machine.execVinsr t d x ix s
  | .vperm t d a b c g => Sys2Proof.Machine.execVperm t d a b c g s
  | .vshuf t p d a b g => Sys2Proof.Machine.execVshuf t p d a b g s
  | .vrot t d a ix g => Sys2Proof.Machine.execVrot t d a ix g s
  | .viota t d x g => Sys2Proof.Machine.execViota t d x g s
  | .vrsum t n d a g => Sys2Proof.Machine.execVrsum t n d a g s
  | .vrmax t n d a g => Sys2Proof.Machine.execVrmax t n d a g s
  | .vrmin t n d a g => Sys2Proof.Machine.execVrmin t n d a g s
  | .vargmax t n d a g => Sys2Proof.Machine.execVargmax t n d a g s
  | .vscan t d a g => Sys2Proof.Machine.execVscan t d a g s
  | .vtopk t n k d c a g => Sys2Proof.Machine.execVtopk t n k d c a g s
  | .vdot t n d a b g => Sys2Proof.Machine.execVdot t n d a b g s
  | .vld t d m g => Sys2Proof.Machine.execVld t d m g s
  | .vst t a m g => Sys2Proof.Machine.execVst t a m g s
  | .vldfe q t d m g => Sys2Proof.Machine.execVldfe q t d m g s
  | .vstfe q t a m g => Sys2Proof.Machine.execVstfe q t a m g s
  | .vldw t d win m g => Sys2Proof.Machine.execVldw t d win m g s
  | .vlds t d c m g => Sys2Proof.Machine.execVlds t d c m g s
  | .vsts t a c m g => Sys2Proof.Machine.execVsts t a c m g s
  | .vldx t d b m g => Sys2Proof.Machine.execVldx t d b m g s
  | .vfromacc t d a rp g => Sys2Proof.Machine.execVfromacc t d a rp g s
  | .vtoacc t d a rp g => Sys2Proof.Machine.execVtoacc t d a rp g s
  | .mnop => Sys2Proof.Machine.execMnop s
  | .msetShapeImm p w => Sys2Proof.Machine.execMsetShapeImm p w s
  | .msetTableImm p w => Sys2Proof.Machine.execMsetTableImm p w s
  | .msetShapeReg p x => Sys2Proof.Machine.execMsetShapeReg p x s
  | .msetTableReg p x => Sys2Proof.Machine.execMsetTableReg p x s
  | .mclaim mask => Sys2Proof.Machine.execMclaim mask s
  | .mrelease mask => Sys2Proof.Machine.execMrelease mask s
  | .mwait mask => Sys2Proof.Machine.execMwait mask s
  | .mzero d => Sys2Proof.Machine.execMzero d s
  | .mmaBf16 d pa pb f => Sys2Proof.Machine.execMmaBf16 d pa pb f s
  | .mmaF16 d pa pb f => Sys2Proof.Machine.execMmaF16 d pa pb f s
  | .mmaF32 d pa pb f => Sys2Proof.Machine.execMmaF32 d pa pb f s
  | .mmaF64 d pa pb f => Sys2Proof.Machine.execMmaF64 d pa pb f s
  | .mmaI8 d pa pb f => Sys2Proof.Machine.execMmaI8 d pa pb f s
  | .mmawI4 d pa pb f => Sys2Proof.Machine.execMmawI4 d pa pb f s
  | .mmawE2m1 d pa pb f => Sys2Proof.Machine.execMmawE2m1 d pa pb f s
  | .mgrpI4i8 d pa pb f g => Sys2Proof.Machine.execMgrpI4i8 d pa pb f g s
  | .mgrpI8 d pa pb f g => Sys2Proof.Machine.execMgrpI8 d pa pb f g s
  | .mscac d src pa pb g => Sys2Proof.Machine.execMscac d src pa pb g s
  | .mtrn d src w64 => Sys2Proof.Machine.execMtrn d src w64 s
  | .maccadd t d src => Sys2Proof.Machine.execMaccadd t d src s
  | .mcvtacc m d src => Sys2Proof.Machine.execMcvtacc m d src s
  | .fwbind fb h tile => Sys2Proof.Machine.execFwbind fb h tile s
  | .fwread fb d row x => Sys2Proof.Machine.execFwread fb d row x s
  | .fwfade fb x => Sys2Proof.Machine.execFwfade fb x s
  | .fwwrite hebb fb x => Sys2Proof.Machine.execFwwrite hebb fb x s
  | .fwstep hebb post fb d row x => Sys2Proof.Machine.execFwstep hebb post fb d row x s
  | .fwchunk hebb post fb d pk pv pq n noread => Sys2Proof.Machine.execFwchunk hebb post fb d pk pv pq n noread s
  | .fwunbind fb => Sys2Proof.Machine.execFwunbind fb s
  | .fwwait mask => Sys2Proof.Machine.execFwwait mask s
  | .cnop => Sys2Proof.Machine.execCnop s
  | .cpy sf c a b l => Sys2Proof.Machine.execCpy sf c a b l s
  | .cpy2d sf c a => Sys2Proof.Machine.execCpy2d sf c a s
  | .gather sf c a => Sys2Proof.Machine.execGather sf c a s
  | .scatter c a => Sys2Proof.Machine.execScatter c a s
  | .osfill c slot b l => Sys2Proof.Machine.execOsfill c slot b l s
  | .wsfill c slot b => Sys2Proof.Machine.execWsfill c slot b s
  | .wswrite c a b l => Sys2Proof.Machine.execWswrite c a b l s
  | .wopen c k a => Sys2Proof.Machine.execWopen c k a s
  | .wadv c k a => Sys2Proof.Machine.execWadv c k a s
  | .wclose c k => Sys2Proof.Machine.execWclose c k s
  | .rput c a b l => Sys2Proof.Machine.execRput c a b l s
  | .rget sf c a b l => Sys2Proof.Machine.execRget sf c a b l s
  | .rsig c sc op a b => Sys2Proof.Machine.execRsig c sc op a b s
  | .mcast c slot b l => Sys2Proof.Machine.execMcast c slot b l s
  | .spin c a => Sys2Proof.Machine.execSpin c a s
  | .spout c a => Sys2Proof.Machine.execSpout c a s
  | .cwait c => Sys2Proof.Machine.execCwait c s
  | .cflush c a b => Sys2Proof.Machine.execCflush c a b s
  | .cinv c a b => Sys2Proof.Machine.execCinv c a b s
  | .jt c t => Sys2Proof.Machine.execJt c t s
  | .call c t => Sys2Proof.Machine.execCall c t s
  | .ret c => Sys2Proof.Machine.execRet c s
  | .loop c l t => Sys2Proof.Machine.execLoop c l t s
  | .endTask => Sys2Proof.Machine.execEndTask s
  | .yieldRun => Sys2Proof.Machine.execYieldRun s
  | .nopPacket h => Sys2Proof.Machine.execNopPacket h s
  | .launch h img rec nrec lblk deadline sig => Sys2Proof.Machine.execLaunch h img rec nrec lblk deadline sig s
  | .signal h addr val sc op => Sys2Proof.Machine.execSignal h addr val sc op s
  | .waitsig h addr val sc op => Sys2Proof.Machine.execWaitsig h addr val sc op s
  | .wrenq h src dst len tq tailVal => Sys2Proof.Machine.execWrenq h src dst len tq tailVal s
  | .preempt h n => Sys2Proof.Machine.execPreempt h n s
  | .restore h n => Sys2Proof.Machine.execRestore h n s
  | .endinst h n => Sys2Proof.Machine.execEndinst h n s
  | .tail q v => Sys2Proof.Machine.execTail q v s
  | .cplhead q v => Sys2Proof.Machine.execCplhead q v s
  | .queueEnable q => Sys2Proof.Machine.execQueueEnable q s
  | .queueDisable q => Sys2Proof.Machine.execQueueDisable q s
  | .queueSkip q => Sys2Proof.Machine.execQueueSkip q s
  | .queueUnfreeze q => Sys2Proof.Machine.execQueueUnfreeze q s
  | .ifsel v => Sys2Proof.Machine.execIfsel v s
  | .registerWrite off v => Sys2Proof.Machine.execRegisterWrite off v s
  | .hostMemAccess write pa data => Sys2Proof.Machine.execHostMemAccess write pa data s
  | .pendingLineEvict d line => Sys2Proof.Machine.execPendingLineEvict d line s
  | .dcExtentRelease base len => Sys2Proof.Machine.execDcExtentRelease base len s
  | .remoteAccess chip write pa data => Sys2Proof.Machine.execRemoteAccess chip write pa data s
  | .deviceReset linkFails storeFails heart sap => Sys2Proof.Machine.execDeviceReset linkFails storeFails heart sap s
  | .flitReceive port head payload crc => Sys2Proof.Machine.execFlitReceive port head payload crc s
  | .linkTrain port lo hi => Sys2Proof.Machine.execLinkTrain port lo hi s
  | .taskRecordAccept => Sys2Proof.Machine.execTaskRecordAccept s
  | .taskDispatch => Sys2Proof.Machine.execTaskDispatch s
  | .taskCommit => Sys2Proof.Machine.execTaskCommit s
  | .gangResume => Sys2Proof.Machine.execGangResume s
  | .preemption => Sys2Proof.Machine.execPreemption s
  | .loadDataArrive => Sys2Proof.Machine.execLoadDataArrive s
  | .landingDeadline => Sys2Proof.Machine.execLandingDeadline s
  | .requestAnswer => Sys2Proof.Machine.execRequestAnswer s
  | .fullEmptyTimeout => Sys2Proof.Machine.execFullEmptyTimeout s
  | .waitbTimeout => Sys2Proof.Machine.execWaitbTimeout s
  | .svcTimeout => Sys2Proof.Machine.execSvcTimeout s
  | .hangDetect => Sys2Proof.Machine.execHangDetect s
  | .walkComplete => Sys2Proof.Machine.execWalkComplete s
  | .wsWindowEnd => Sys2Proof.Machine.execWsWindowEnd s
  | .phaseDrainEnd => Sys2Proof.Machine.execPhaseDrainEnd s
  | .storePerform => Sys2Proof.Machine.execStorePerform s
  | .atomicPerform => Sys2Proof.Machine.execAtomicPerform s
  | .shootAccept => Sys2Proof.Machine.execShootAccept s
  | .rateWindowStart => Sys2Proof.Machine.execRateWindowStart s
  | .jobGranuleWrite => Sys2Proof.Machine.execJobGranuleWrite s
  | .jobComplete => Sys2Proof.Machine.execJobComplete s
  | .jobPageFault => Sys2Proof.Machine.execJobPageFault s
  | .jobDataError => Sys2Proof.Machine.execJobDataError s
  | .jobFootprintFault => Sys2Proof.Machine.execJobFootprintFault s
  | .matrixOpStart => Sys2Proof.Machine.execMatrixOpStart s
  | .matrixOpComplete => Sys2Proof.Machine.execMatrixOpComplete s
  | .fwOpStart => Sys2Proof.Machine.execFwOpStart s
  | .fwOpComplete => Sys2Proof.Machine.execFwOpComplete s
  | .directoryAnswer => Sys2Proof.Machine.execDirectoryAnswer s
  | .roomReserved => Sys2Proof.Machine.execRoomReserved s
  | .moveComplete => Sys2Proof.Machine.execMoveComplete s
  | .snapCutComplete => Sys2Proof.Machine.execSnapCutComplete s
  | .poolCopyDone => Sys2Proof.Machine.execPoolCopyDone s
  | .heldWriteRelease => Sys2Proof.Machine.execHeldWriteRelease s
  | .ckptGranuleWrite => Sys2Proof.Machine.execCkptGranuleWrite s
  | .ckptDrainComplete => Sys2Proof.Machine.execCkptDrainComplete s
  | .packetFetch => Sys2Proof.Machine.execPacketFetch s
  | .packetStart => Sys2Proof.Machine.execPacketStart s
  | .packetComplete => Sys2Proof.Machine.execPacketComplete s
  | .instanceEndOfLife => Sys2Proof.Machine.execInstanceEndOfLife s
  | .launchAdmit => Sys2Proof.Machine.execLaunchAdmit s
  | .waitsigPoll => Sys2Proof.Machine.execWaitsigPoll s
  | .frontEndWriteFault => Sys2Proof.Machine.execFrontEndWriteFault s
  | .budgetExceed => Sys2Proof.Machine.execBudgetExceed s
  | .root => Sys2Proof.Machine.execRoot s
  | .shoot => Sys2Proof.Machine.execShoot s
  | .shootComplete => Sys2Proof.Machine.execShootComplete s
  | .pgreg => Sys2Proof.Machine.execPgreg s
  | .pgunreg => Sys2Proof.Machine.execPgunreg s
  | .gpool => Sys2Proof.Machine.execGpool s
  | .gpoolShrinkComplete => Sys2Proof.Machine.execGpoolShrinkComplete s
  | .ckreg => Sys2Proof.Machine.execCkreg s
  | .exportReq => Sys2Proof.Machine.execExportReq s
  | .rwin => Sys2Proof.Machine.execRwin s
  | .retire => Sys2Proof.Machine.execRetire s
  | .grovecfg => Sys2Proof.Machine.execGrovecfg s
  | .telem => Sys2Proof.Machine.execTelem s
  | .power => Sys2Proof.Machine.execPower s
  | .hang => Sys2Proof.Machine.execHang s
  | .fabreq => Sys2Proof.Machine.execFabreq s
  | .attest => Sys2Proof.Machine.execAttest s
  | .mext => Sys2Proof.Machine.execMext s
  | .frameRetire => Sys2Proof.Machine.execFrameRetire s
  | .retireCopyDone => Sys2Proof.Machine.execRetireCopyDone s
  | .parityAlert => Sys2Proof.Machine.execParityAlert s
  | .channelRetrainDone => Sys2Proof.Machine.execChannelRetrainDone s
  | .linkRekey => Sys2Proof.Machine.execLinkRekey s
  | .linkTagFail => Sys2Proof.Machine.execLinkTagFail s
  | .portRetrainTimeout => Sys2Proof.Machine.execPortRetrainTimeout s
  | .pathLossTimeout => Sys2Proof.Machine.execPathLossTimeout s
  | .combineIntervalExpire => Sys2Proof.Machine.execCombineIntervalExpire s
  | .sapwoodReload => Sys2Proof.Machine.execSapwoodReload s
  | .telemWrite => Sys2Proof.Machine.execTelemWrite s
  | .powerAverageCheck => Sys2Proof.Machine.execPowerAverageCheck s
  | .junction95c => Sys2Proof.Machine.execJunction95c s
  | .junction105c => Sys2Proof.Machine.execJunction105c s
  | .junction115c => Sys2Proof.Machine.execJunction115c s
  | .clockStepUp => Sys2Proof.Machine.execClockStepUp s
  | .lockstepCompare => Sys2Proof.Machine.execLockstepCompare s
  | .portRetrainStart => Sys2Proof.Machine.execPortRetrainStart s
  | .cxlSnoop => Sys2Proof.Machine.execCxlSnoop s
  | .keySlotProvision => Sys2Proof.Machine.execKeySlotProvision s
  | .keySlotRevoke => Sys2Proof.Machine.execKeySlotRevoke s

end Sys2Proof.Machine
end

