-- ==== Sys2Proof/Machine/Issue.lean ====
section
/-! DEFINITION. The issue of one bundle of a context, on its core or, for a gang, on every core of its grove: fetching, the
checks of R167, the slots, the header, a yield, and a pre-emption taken at a safe point (R30-R39, R66, R153-R167, R191). -/

namespace Sys2Proof.Machine
open Sys2Proof

/-! ## Running in sequence -/

/-- What follows a step that goes on. -/
def Out.andThen (o : Out) (f : State → Out) : Out :=
  match o with
  | .next s => f s
  | .fault r => .fault r
  | .refused r => .refused r
/-- A part of a bundle's issue on each of its cores, one core after another. -/
def onCores (f : State → Out) : List Nat → State → Out
  | [], s => .next s
  | c :: t, s => Out.andThen (f { s with core := c }) (onCores f t)

/-! ## Whether a context may issue (R30-R34, R38, R109) -/

/-- The non-frozen cycles of a grove's cores. -/
def groveCycs (s : State) (g : Nat) : List Nat := (List.range 8).map fun i => (s.coreAt (g * 8 + i)).cyc
/-- Whether some core of a grove has run `n` cycles since a task of it could be dispatched. -/
def readyFor (s : State) (g n : Nat) (t : Task) : Bool :=
  match t.readyAt with
  | some r => (r.zip (groveCycs s g)).any fun p => p.1 + n ≤ p.2
  | none => false
/-- The cycles after its readiness from which a task's first bundle is due: the first bundles of all eight contexts of a core, one a cycle,
then issue within R375's 64 (DEDUCED, assumption log 78). -/
def firstBound : Nat := 54
/-- Whether a context's first bundle is due under R375: it issues then even within another context's run, which goes on after it, while
the core's choice of the context for its own run stays R31's (DEDUCED, assumption log 78). -/
def firstDue (s : State) (c x : Nat) : Bool :=
  match (s.ctxAt c x).task.bind s.task? with
  | some t => t.st = .running && readyFor s (groveOf c) firstBound t
  | none => false
/-- Whether a core of a protected grove trails another: it issues nothing of its own (R452). -/
def trails (s : State) (c : Nat) : Bool := (s.groveAt (groveOf c)).prot && c % 2 = 1
/-- Whether one core of a context's bundle can issue it now: one bundle a core and cycle, none while a bundle waits for
landing-buffer entries that are not free (R54), task contexts in their run, the service context within its share. -/
def coreReady (s : State) (x c : Nat) : Bool :=
  let k := s.ctxAt c x
  let o := s.coreAt c
  let spent : Bool := match o.lastIssue with | some (t, _) => t = o.cyc | none => false
  !coreFrozen s c && !trails s c && k.st = .running && k.err.isNone && decide (k.nextAt ≤ o.cyc) && !spent && !bufShort s c o.bufNeed &&
    (if x = 8 then decide (o.svcIssued < o.svcShare.toNat) else o.current = some x || firstDue s c x)
/-- Whether a context can issue its next bundle now. -/
def issueReady (s : State) (c x : Nat) : Bool := (imageAt s c x).isSome && (mates s c x).all (coreReady s x)
/-- Whether a literal bundle must still wait its extra cycle on a core (R156). -/
def literalWaits (s : State) (x c : Nat) : Bool :=
  let k := s.ctxAt c x
  k.bundleNo ≠ 0 && (s.coreAt c).cyc ≤ k.nextAt

/-! ## The parts of an issue -/

/-- A bundle's operations without their squash bits. -/
def instrsOf (b : Bundle) : Ops := b.ops.map fun o => (o.1, o.2.op)
/-- Whether an operation fails its task once its bundle has taken effect (R290). -/
def aborts (i : Instr) : Bool := match i with | .tabort .. => true | _ => false
/-- What stops a bundle on each of its cores. The .wf stores of the cores before a core come first (R115). -/
def coreStops (ops : Ops) : List Nat → State → List (Nat × Stop)
  | [], _ => []
  | c :: t, s =>
    let u := { s with core := c }
    match precheck u ops with
    | .ok _ => coreStops ops t (wfPart u (wfFirst u ops))
    | .error e => (c, e) :: coreStops ops t u
/-- The rank of what stops a bundle: a cause before a wait, and the wait of .wf stores, which perform what they can, last. -/
def Stop.weight : Stop → Nat
  | .trap _ => 0
  | .full => 2
  | _ => 1
/-- What stops a bundle that its cores issue together: the first cause, else the first wait. -/
def checkCores (ops : Ops) (cs : List Nat) (s : State) : Option (Nat × Stop) :=
  let r := coreStops ops cs s
  (List.range 3).findSome? fun n => r.find? fun e => e.2.weight = n
/-- One operation of a checked bundle in its slot. -/
def runSlot (s : State) (o : Slot × SlotOp) : Out := exec o.2.op { s with slot := o.1, squash := o.2.squash }
/-- The operations of a checked bundle, in slot order. -/
def runSlots : List (Slot × SlotOp) → State → Out
  | [], s => .next s
  | o :: t, s => Out.andThen (runSlot s o) (runSlots t)
/-- The header operation of a bundle, which reads its registers for itself (R160). -/
def runHeader (b : Bundle) (s : State) : Out :=
  match b.seq with
  | some i => Out.andThen (exec i { s with slot := .s, inHeader := true, squash := false }) fun s => .next { s with inHeader := false }
  | none => .next s
/-- Whether a restore routine that a context runs is over: its next bundle follows the safe point (R68). -/
def restoreOver (img : Image) (k : Ctx) : Bool :=
  !k.saving && (match k.safePt.bind fun n => img.safes[n]? with
    | some p => k.pc = afterBundle img p.addr
    | none => false)
/-- A context about to issue the bundle that follows the safe point has left the restore routine (R68, R371). -/
def leaveRestore (img : Image) (k : Ctx) : Ctx := { k with safePt := if restoreOver img k then none else k.safePt }
/-- A context's next bundle issues, so its FENCE has completed: beyond the package, it has released and acquired (R131, R232). FENCE.system
names no signal, and R134 does not say what becomes of the context's set of host lines at it: the set stays with the context (DESIGN
CHOICE, assumption log 111). -/
def endFence (x : Nat) (s : State) (c : Nat) : State :=
  match (s.ctxAt c x).fence with
  | none => s
  | some (_, wide) =>
    let t := if wide then { meetOut { s with core := c, ctx := x } with core := s.core, ctx := s.ctx } else s
    t.setCtx c x { t.ctxAt c x with fence := none }
/-- A context takes up a bundle: its program counter passes it, and a delay position is used up (R161). -/
def takeBundle (img : Image) (k : Ctx) : Ctx := { k with pc := afterBundle img k.pc, delay := k.delay - 1 }
/-- A bundle has issued on a core: its results are in flight, its gap is counted from now (R33), and in a protected grove it waits to
be compared (R452). -/
def closeBundle (b : Bundle) (x : Nat) (s : State) (c : Nat) : State :=
  let k := s.ctxAt c x
  let o := s.coreAt c
  let g := s.groveAt (groveOf c)
  let s := s.setCtx c x { k with
    inflight := k.inflight ++ k.staged
    staged := []
    unmatched := if g.prot then k.unmatched ++ [(s.nextOrd, s.time.toNat)] else []
    nextAt := o.cyc + b.gap.val + 1
    bundleNo := k.bundleNo + 1
    wfDone := 0
    holdSince := none }
  let s := s.setCore c { o with
    lastIssue := some (o.cyc, x)
    lastInst := k.inst
    bufNeed := 0
    svcIssued := if x = 8 then o.svcIssued + 1 else o.svcIssued }
  s.setGrove (groveOf c) { g with
    issue := if x = 8 then g.issue else g.issue + 1
    svcIss := if x = 8 then g.svcIss + 1 else g.svcIss }
/-- The task of a context has issued a bundle (R439). -/
def noteIssue (s : State) (c x : Nat) : State :=
  match (s.ctxAt c x).task.bind fun n => (s.task? n).map fun t => (n, t) with
  | some (n, t) => s.setTask n { t with lastIssue := s.time.toNat, readyAt := none }
  | none => s

/-! ## Pre-emption at a safe point (R66, R69, R373, R382) -/

/-- The safe point of an image at an address, with its index. -/
def safeAt (img : Image) (pc : W32) : Option (Nat × SafePt) :=
  ((List.range img.safes.length).zip img.safes).find? fun p => p.2.addr = pc
/-- The bundle at `pc` has issued; where it is a safe point of a direct task of an instance that is being pre-empted, and the
save region has room, the pre-emption is taken: the run ends and PREEMPTION does the rest. -/
def safeStop (s : State) (c x : Nat) (img : Image) (b : Bundle) (inDelay : Bool) (pc : W32) : State :=
  let k := s.ctxAt c x
  let ask := (k.inst.bind s.inst?).bind fun i => if i.preempting.isSome then some i else none
  match ask, safeAt img pc, k.task.bind fun n => (s.task? n).map fun t => (n, t) with
  | some i, some (n, p), some (m, t) =>
    let staged := ((s.typeOf t).map (·.staged)).getD false
    if !b.sfp || b.seq.isSome || inDelay || staged || k.saving || x = 8 || k.st ≠ .running || k.err.isSome then s
    else
      match allocAreas i (p.size * 4096) (if k.gang then 8 else 1) with
      | none => s
      | some (i, as) =>
        let s := (s.setInst (k.inst.getD 0) i).setTask m { t with areas := as ++ t.areas }
        let cs := mates s c x
        let s := cs.foldl (fun (s : State) (c : Nat) =>
          s.setCtx c x { s.ctxAt c x with safePt := some n, err := some ⟨9, 14, 0, noSlot, 0, 0, 0⟩ }) s
        cs.foldl (fun (s : State) (c : Nat) => endRun s c x) s
  | _, _, _ => s

/-! ## The issue of a bundle -/

/-- A run ends at a yielding bundle whose context goes on; at a bundle that took a pre-emption it has ended (R30). -/
def runYield (b : Bundle) (s : State) : Out :=
  if b.yld ∧ b.seq ≠ some .endTask ∧ s.me.st = .running ∧ s.me.err.isNone then exec .yieldRun s else .next s
/-- The bundle's TABORT, once all else has taken effect. -/
def runAbort (b : Bundle) (s : State) : Out := runSlots (b.ops.filter fun o => aborts o.2.op) s

/-- A bundle that has passed every check issues on its cores: slots, header, what is in flight, a pre-emption, the yield and
a TABORT. -/
def issueBundle (s : State) (c x : Nat) (img : Image) (b : Bundle) : Out :=
  let cs := mates s c x
  let k := s.ctxAt c x
  let inDelay : Bool := decide (0 < k.delay)
  let s := cs.foldl (fun (s : State) (c : Nat) => let s := endFence x s c; s.setCtx c x (takeBundle img (s.ctxAt c x))) s
  let s := { s with here := k.pc, checked := true }
  Out.andThen (onCores (runSlots (b.ops.filter fun o => !aborts o.2.op)) cs s) fun s =>
  Out.andThen (onCores (runHeader b) cs.reverse s) fun s =>
    let s := noteIssue (cs.foldl (closeBundle b x) s) c x
    let s := safeStop s c x img b inDelay k.pc
    let s := { s with core := c, ctx := x }
  Out.andThen (runYield b s) fun s =>
  Out.andThen (runAbort b s) fun s =>
    .next { s with nextOrd := s.nextOrd + 1, checked := false, slot := .s, squash := false }

/-- Whether a .wf store of a bundle that has been tried has not been performed (R115); in a protected grove it waits at the core's
edge, the bundle having issued (R452). -/
def wfUnmet (s : State) (c x ord : Nat) : Bool :=
  !(s.groveAt (groveOf c)).prot && (s.ctxAt c x).accs.any fun a => a.ord = ord && a.isWf && !a.pieces.isEmpty

/-- What a context does with the bundle that it has fetched and decoded: it issues it, or does what stops it. `s` is the
machine before a transfer due takes effect, `t` after: a bundle that is held leaves the transfer to come (R162, R191). A bundle
whose .wf stores could not all be performed does not issue (R115). -/
def issueDecoded (s t : State) (c x : Nat) (img : Image) (b : Bundle) : Out :=
  match checkCores (instrsOf b) (mates s c x) t with
  | none => Out.andThen (issueBundle { t with core := c } c x img b) fun u =>
    if (mates s c x).any fun d => wfUnmet u d x t.nextOrd then Stop.full.out { s with core := c } (instrsOf b) else .next u
  | some (d, e) => e.out { s with core := d } (instrsOf b)

/-- Context x of core c tries to issue its next bundle; the lead core of a gang acts for it. -/
def issueCtx (s : State) (c x : Nat) : Out :=
  let cs := mates s c x
  let c := cs.headD c
  if !issueReady s c x then .next s
  else
    let s := { s with core := c, ctx := x, slot := .s, squash := false, checked := false }
    match imageAt s c x with
    | none => .next s
    | some img =>
      let t := cs.foldl (fun (s : State) (c : Nat) => s.setCtx c x (leaveRestore img (transferNow (s.ctxAt c x)))) s
      let k := t.ctxAt c x
      match fetchAt img k.pc.toNat with
      | .illegal n => .next (raiseTrap s ⟨1, 1, n, noSlot, 0, 0, 0⟩)
      | .bundle w lit =>
        if lit && cs.any (literalWaits s x) then .next s
        else
          match decodeBundle w (decide (0 < k.delay)) with
          | .error (e, n) => .next (raiseTrap s ⟨2, 2, e.code, n, 0, 0, 0⟩)
          | .ok b => issueDecoded s t c x img b

end Sys2Proof.Machine
end

