-- ==== Sys2Proof/Machine/Schedule.lean ====
section
/-! DEFINITION. One step of the machine: a cycle of the clock (R8, R33, R109, R220, R261, R281, R374), the move that is made
next (DESIGN CHOICE, assumption log 1), and the placing of one instruction for the next step (DESIGN CHOICE, assumption log 7). -/

namespace Sys2Proof.Machine
open Sys2Proof

/-! ## What follows every move -/

/-- The cores that have an entry, with those that trail one of them, ascending. -/
def knownCores (s : State) : List Nat :=
  let own := s.ctxs.foldl (fun (m : Map Unit) (e : Nat × Ctx) => Map.set m (keyCore e.1) ()) (s.cores.map fun e => (e.1, ()))
  (own.foldl (fun (m : Map Unit) (e : Nat × Unit) => if trails s (e.1 + 1) then Map.set m (e.1 + 1) () else m) own).map (·.1)
/-- Dropped generations from which no restore is outstanding any more are freed (R296, R355). -/
def settleGens (s : State) : State :=
  s.gens.foldl (fun s e => if e.2.dropped && !rollOut s e.1 then freeGen s e.1 else s) s
/-- Causes taken, attempts freed, static watches and generations that nothing needs dropped, packets that can complete, claims
that can now be had, and cores without a run that choose a context (R31, R49, R65, R258, R355, R384, R401). -/
def after (s : State) : State :=
  let s := freeEnded (settleAll s.draw)
  let s := s.insts.foldl (fun s e => dropStatics s e.1) s
  let s := completePackets (settleGens s)
  let s := (knownCores s).foldl wakeClaims s
  (knownCores s).foldl selectCtx s

/-! ## A cycle -/

/-- The failed accesses of a context whose landing cycle has come give their cause (R456). -/
def failDue (s : State) (c x : Nat) : State :=
  match failedAcc (s.ctxAt c x) fun a => decide (a.bound ≤ (s.coreAt c).cyc) with
  | some t => setCause s c x t
  | none => s
/-- A context of a core that is not frozen at the start of a cycle: what is due lands, and a freeze that starts now is timed from
now (R116). -/
def ctxTick (c : Nat) (s : State) (x : Nat) : State :=
  let s := failDue (s.landDue c x) c x
  noteLate (s.setCtx c x { s.ctxAt c x with frzSince := none }) c x
/-- The matrix operations that have reached their completion bound complete, behind those they share a tile with (R260, R261). -/
def matTick (s : State) (c : Nat) : State := (matDue (s.coreAt c)).foldl (fun s r => matFinish s c r.1) s
/-- A cycle of a core that is not frozen (R33, R34). -/
def runTick (s : State) (c : Nat) : State :=
  let k := s.coreAt c
  let n := k.cyc + 1
  let s := s.setCore c { k with cyc := n, svcIssued := if n % 64 = 0 then 0 else k.svcIssued }
  matTick ((List.range 9).foldl (ctxTick c) s) c
/-- A cycle of a frozen core: it is counted, and against the contexts whose requests freeze it (R58, R109). -/
def frozenTick (s : State) (c : Nat) : State :=
  let s := s.setCore c { s.coreAt c with frzcore := (s.coreAt c).frzcore + 1 }
  (List.range 9).foldl (fun (t : State) (x : Nat) =>
    if frozenOn s c x then
      let k := t.ctxAt c x
      noteLate (t.setCtx c x { k with frzctx := k.frzctx + 1 }) c x
    else t) s
/-- A core's state on a cycle remembered for the core that trails it (R452). -/
def lagTick (s : State) (c : Nat) (frozen : Bool) : State :=
  let k := s.coreAt c
  s.setCore c { k with frzLag := (frozen, k.frzLag.1) }
/-- Whether a core's clock stands still on a cycle: a trailing core receives the freezes of the core it trails two cycles later
(R109, R452). -/
def standsStill (s : State) (c : Nat) : Bool := if trails s c then (s.coreAt (c - 1)).frzLag.2 else coreFrozen s c
/-- A cycle of a core. -/
def coreTick (s : State) (c : Nat) (still : Bool) : State := lagTick (if still then frozenTick s c else runTick s c) c still
/-- The engine's operation that has reached its completion bound completes (R281). -/
def engTick (s : State) (c : Nat) : State :=
  match (s.coreAt c).erun with
  | some (o, t) =>
    match s.obj? (objKey o.handle) with
    | some b => if t + fwCycles o.op b.dk b.dv b.tiles ≤ s.time.toNat ∧ engDue s c then engFinish s c else s
    | none => s
  | none => s

/-! ## Charged cycles (R374) -/

/-- The bundle that a context would issue next. -/
def nextBundle (s : State) (c x : Nat) : Option Bundle :=
  match imageAt s c x with
  | none => none
  | some img =>
    let k := s.ctxAt c x
    match fetchAt img (issuePc k).toNat with
    | .bundle w _ => (decodeBundle w (decide (0 < k.delay))).toOption
    | .illegal _ => none
/-- Whether a header reads a register: that of a transfer reads its condition and its target or its count (R160, R190-R193). -/
def headReads (i : Option Instr) : Bool := match i with | some (.jt ..) | some (.call ..) | some (.ret ..) | some (.loop ..) => true | _ => false
/-- The next bundle of context x of core c, which can issue now, reads a register, tile or slot with an uncorrectable error:
it takes no effect, and its task takes class 10, code 0x0003 (R458). That the error is there is the move's to say
(DESIGN CHOICE, assumption log 21). -/
def spoilCtx (s : State) (c x : Nat) : State :=
  match nextBundle s c x with
  | some b =>
    if (b.ops.isEmpty && !headReads b.seq) || !issueReady s c x then s
    else raiseTrap { s with core := (mates s c x).headD c, ctx := x } ⟨0, 10, 3, noSlot, 0, 0, 0⟩
  | none => s
/-- The queued operations of the matrix unit that a fill holds: its own slot's, or that of an earlier operation of its context that it
shares a tile with (R260). -/
def fillHeld (s : State) : List MatOp :=
  s.myCore.mq.foldl (fun l o =>
    if (matSlots o.op o.pa o.pb).any (fun n => fillOut s s.core o.x o.ord n) ||
        l.any (fun p => p.x = o.x && p.ord < o.ord && sharesTile p.op o.op) then l ++ [o] else l) []
/-- Whether an operation of the context on a tile waits for a fill. -/
def tileFill (s : State) (t : AccReg) : Bool :=
  (fillHeld s).any fun o => o.x = s.ctx && ((matTiles o.op).1 = some t || (matTiles o.op).2.contains t)
/-- Whether an operation waits for one of the context's matrix operations that a fill holds, or for room in a queue whose every operation
one holds (R374). -/
def waitsFill (s : State) (i : Instr) : Bool :=
  (match i with
   | .vfromacc _ _ a _ _ => tileFill s a
   | .vtoacc _ d _ _ _ => tileFill s d
   | .mwait m => (List.range 8).any fun n => (m = 0 || tst m n) && tileFill s (Fin.ofNat 8 n)
   | _ => (fwTile i).any (tileFill s)) ||
    (matrixOp i && decide (16 ≤ s.myCore.mq.length) && (fillHeld s).length = s.myCore.mq.length)
/-- Whether a bundle is held by one of R374's unbounded waits. One with an FWBIND that does not issue waits for the directory to answer. -/
def unboundedWait (s : State) (ops : Ops) : Bool :=
  let n (f : Instr → Bool) : Nat := (ops.filter fun o => f o.2).length
  (0 < n startsJob && decide (16 < s.me.jobs.length + n startsJob)) ||
    (0 < n needsBuf && decide (256 < bufUsed s s.core + n needsBuf)) || (fenceOut s).1 || s.me.holdSince.isSome ||
    ops.any fun o =>
      (match o.2 with
       | .fwbind .. => true
       | .cwait c => s.me.jobs.any (waitedJob c.tag.val)
       | .mrelease m => (List.range 16).any fun i => tst m i && holdsSlot s i &&
           (fillOut s s.core s.ctx s.nextOrd i ||
             (fillHeld s).any fun o => o.x = s.ctx && (matSlots o.op o.pa o.pb).contains i)
       | i => waitsFill s i)
/-- Whether a core issues no bundle because a bundle of some context of it waits for landing-buffer entries (R54). -/
def bufHolds (s : State) (c : Nat) : Bool := bufShort s c (s.coreAt c).bufNeed
/-- Whether a context is in one of the conditions of a charged cycle: parked, held by an unbounded wait, or ready. A gang's bundle is held
with that of any of its cores. -/
def waitsCharged (s : State) (c x : Nat) : Bool :=
  let k := s.ctxAt c x
  k.st = .parked || k.claim.isSome || k.ready ||
    (k.st = .running && decide (k.nextAt ≤ (s.coreAt c).cyc) &&
      (mates s c x).any fun d => bufHolds s d ||
        (match nextBundle s d x with | some b => unboundedWait { s with core := d, ctx := x } (instrsOf b) | none => false))
/-- Whether the cycle is charged to instance n on core c: its core is frozen, or no context of the instance there issues and every
one of them waits. -/
def chargedNow (s : State) (n c : Nat) : Bool :=
  let k := s.coreAt c
  let xs := (List.range 8).filter fun x => (s.ctxAt c x).inst = some n &&
    ((s.ctxAt c x).st = .running || (s.ctxAt c x).st = .parked || (s.ctxAt c x).st = .committing)
  let issued : Bool := k.lastInst = some n && (match k.lastIssue with | some (t, _) => t = k.cyc | none => false)
  standsStill s c || (!xs.isEmpty && !issued && xs.all (waitsCharged s c))
/-- The cycle charged to every timed instance on the cores of its grove set. -/
def chargeTick (s : State) : State :=
  { s with insts := s.insts.map fun e =>
      if e.2.reserved then
        let cs := (e.2.img.groves.flatMap fun g => (List.range 8).map (g * 8 + ·)).filter (chargedNow s e.1)
        (e.1, { e.2 with charged := cs.foldl (fun (m : Map Nat) (c : Nat) => Map.set m c (Map.at_ m c 0 + 1)) e.2.charged })
      else e }

/-- Whether a job holds a granule that it cannot write for lack of pool space (R351). -/
def jobPoolHeld (s : State) (j : Job) : Bool :=
  j.tok.isNone && !j.moving && j.buf.any fun b => (dstPlace s j b.1).any fun p => !s.tentative p && placeHeld s p
/-- Whether some write is held for lack of pool space: an access's, a job's, a commit's, the front end's, or a merged one whose interval has
ended (R351, R461). -/
def poolHolds (s : State) : Bool :=
  (s.ctxs.any fun e =>
    let t := { s with core := keyCore e.1, ctx := keyCtx e.1 }
    writeWaits t || t.me.jobs.any (jobPoolHeld t)) ||
    (s.tasks.any fun e => e.2.st = .committing && e.2.cores.all (fun c => ctxDone s c e.2.x) && commitHeld s e.2) ||
    (s.queues.any fun e => e.2.token.isNone && match e.2.held with
      | w :: _ => feShort s (asidOf e.2.desc) (w.addr e.2) w.data.length
      | [] => false) ||
    s.redWins.any fun e => (mergeGroups e.2.held).any fun m => m.since + e.2.interval ≤ s.time.toNat && mergedHeld s e.2 m

/-! ## The dispatch bound of timed instances (R375) -/

/-- The instance of a task where it runs on reserved groves. -/
def reservedTask (s : State) (t : Task) : Bool := (s.inst? t.inst).any Inst.reserved
/-- Since when each task that waits on reserved groves can be dispatched: from the cycle on which the conditions of R28 hold. -/
def noteReady (s : State) : State :=
  { s with tasks := s.tasks.map fun e =>
      if !reservedTask s e.2 || !(e.2.st = .ready || e.2.st = .preempted) then e
      else if dispatchable s e.1 e.2 && (placement s e.1 e.2).isSome then
        (e.1, { e.2 with readyAt := some (e.2.readyAt.getD (groveCycs s (e.1 / 512))) })
      else (e.1, { e.2 with readyAt := none }) }
/-- One cycle of the arithmetic clock: SYS.TIME counts it, and every core that is not frozen runs it. Corrected errors are
counted by windows of 2^40 cycles (R460). -/
def tick (s : State) : State :=
  let still := (knownCores s).filter (standsStill s)
  let cs := knownCores s
  let t := chargeTick (noteReady s)
  let t := t.count fun k => { k with
    capcyc := if s.mhz < 700 then k.capcyc + 1 else k.capcyc
    poolHold := if poolHolds s then k.poolHold + 1 else k.poolHold }
  let t := { t with time := s.time + 1, ecc := if (s.time.toNat + 1) % 2 ^ 40 = 0 then [] else t.ecc }
  let t := cs.foldl (fun (t : State) (c : Nat) => coreTick t c (still.contains c)) t
  cs.foldl engTick t

/-! ## The model's own schedule (DESIGN CHOICE, assumption log 1) -/

/-- An event's subjects. -/
def evArgs (a b c d : Nat) : Args := ⟨a, b, c, d, false⟩
/-- The events of accesses, requests and jobs of a context that may be due. -/
def ctxEvents (s : State) (c x : Nat) : List Move :=
  let k := s.ctxAt c x
  let t := { s with core := c, ctx := x }
  let accs := (List.range t.pendAccs.length).flatMap fun n =>
    match t.pendAccs[n]? with
    | none => []
    | some a => a.pieces.flatMap fun p =>
        let at_ (i : Instr) : Move := .event i (evArgs c x p.idx n)
        (match a.op.kind with
          | .read => [at_ .loadDataArrive] | .write => [at_ .storePerform] | .atomic => [at_ .atomicPerform]) ++
          [at_ .poolCopyDone]
  let reqs := (List.range k.reqs.length).flatMap fun n =>
    [.event .directoryAnswer (evArgs c x n 0), .event .requestAnswer (evArgs c x n 0), .event .fabreq (evArgs c x n 0),
      .event .attest (evArgs c x n 0), .event .mext (evArgs c x n 0)]
  let jobs := (List.range k.jobs.length).flatMap fun n =>
    match k.jobs[n]? with
    | none => []
    | some j =>
      let todo := (List.range (Nat.min 256 (j.count - j.p))).map (j.p + ·)
      let rd := (todo.filter fun i => !j.has i && (j.read? i).isNone).take 1
      let all (i : Nat) (f : Bool) : List Move :=
        [Instr.jobGranuleWrite, .jobPageFault, .jobDataError, .jobFootprintFault].map fun e => .event e ⟨c, x, n, i, f⟩
      ((j.buf.take 1).flatMap fun b => all b.1 false) ++ rd.flatMap (fun i => all i true) ++ all 0 false ++
        [.event .jobComplete (evArgs c x n 0)]
  let locks := k.unmatched.map fun u => Move.event .lockstepCompare (evArgs c x 0 u.1)
  let own : List Move := [.event .preemption (evArgs c x 0 0), .event .gangResume (evArgs (groveOf c) x 0 0),
    .event .taskCommit (evArgs c x 0 0), .event .fullEmptyTimeout (evArgs c x 0 0), .event .waitbTimeout (evArgs c x 0 0),
    .event .svcTimeout (evArgs c x 0 0)]
  [accs, reqs, jobs, locks, own].flatten
/-- The events of a core's units. -/
def coreEvents (s : State) (c : Nat) : List Move :=
  [.event .walkComplete (evArgs c 0 0 0), .event .wsWindowEnd (evArgs c 0 0 0)] ++
    (List.range (s.coreAt c).mrun.length).map (fun n => .event .matrixOpComplete (evArgs c n 0 0)) ++
    [.event .fwOpComplete (evArgs c 0 0 0), .event .matrixOpStart (evArgs c 0 0 0), .event .fwOpStart (evArgs c 0 0 0)]
/-- The events of a queue. -/
def queueEvents (q : Nat) (k : Queue) : List Move :=
  [.event .frontEndWriteFault (evArgs q 0 0 0), .event .packetFetch (evArgs q 0 0 0), .event .packetStart (evArgs q 0 0 0)] ++
    k.started.map fun p => .event .packetComplete (evArgs q p.pos 0 0)
/-- The events of the package's other units. -/
def unitEvents (s : State) : List Move :=
  let groves : List Move := s.groves.flatMap fun e => [.event .phaseDrainEnd (evArgs e.1 0 0 0)]
  let objs : List Move := s.objs.flatMap fun e => .event .moveComplete (evArgs e.1 0 0 0) ::
    .event .roomReserved (evArgs e.1 0 0 0) :: (List.range e.2.roomFor.length).map fun n => .event .roomReserved ⟨e.1, n, 0, 0, true⟩
  let gens : List Move := s.gens.flatMap fun e => [.event .snapCutComplete (evArgs e.1 0 0 0),
    .event .ckptGranuleWrite (evArgs e.1 0 0 0), .event .ckptDrainComplete (evArgs e.1 0 0 0)]
  let insts : List Move :=
    s.insts.flatMap fun e => [.event .taskRecordAccept (evArgs e.1 0 0 0), .event .budgetExceed (evArgs e.1 0 0 0)]
  let upcalls : List Move := s.upcalls.map fun u => .event .taskRecordAccept ⟨0, u.tok, 0, 0, true⟩
  let rates : List Move :=
    if s.watches.any fun e => e.2.win ≠ s.time.toNat / 700 then [.event .rateWindowStart (evArgs 0 0 0 0)] else []
  let shoots : List Move := s.watches.flatMap fun e =>
    (List.range e.2.pend.length).map fun n => .event .shootAccept (evArgs e.1 n 0 0)
  let dispatches : List Move :=
    (s.insts.flatMap fun e => e.2.img.groves).eraseDups.map fun g => .event .taskDispatch (evArgs g 0 0 0)
  let ends : List Move := s.insts.map fun e => .event .instanceEndOfLife (evArgs e.1 0 0 0)
  let hangs : List Move := s.tasks.map fun e => .event .hangDetect (evArgs e.1 0 0 0)
  let reqs : List Move := s.reqs.flatMap fun p => [.request p.op Args.reset p.req, .request .shootComplete Args.reset p.req,
    .request .gpoolShrinkComplete Args.reset p.req]
  let frames : List Move := s.retiring.map fun r => .event .retireCopyDone (evArgs r.frame 0 0 0)
  let worn : List Move := s.worn.map fun f => .event .frameRetire (evArgs f 0 0 0)
  let chans : List Move := s.chans.map fun e => .event .channelRetrainDone (evArgs e.1 0 0 0)
  let wins : List Move := s.redWins.flatMap fun e =>
    (List.range (mergeGroups e.2.held).length).map fun n => .event .combineIntervalExpire (evArgs e.1 n 0 0)
  [groves, objs, gens, insts, upcalls, rates, shoots, dispatches, ends, hangs, reqs, frames, worn, chans, wins,
    [.event .telemWrite (evArgs 0 0 0 0)]].flatten
/-- Every event that may be due, in the order in which the schedule tries them. -/
def dueEvents (s : State) : List Move :=
  (knownCores s).flatMap (coreEvents s) ++ s.ctxs.flatMap (fun e => ctxEvents s (keyCore e.1) (keyCtx e.1)) ++ unitEvents s ++
    s.queues.flatMap fun e => queueEvents e.1 e.2

/-- A move made. While every clock is gated only a device reset acts (R463). -/
def makeMove (s : State) (m : Move) : Out :=
  let s := { s with checked := false, squash := false, slot := .s, inHeader := false }
  let reset : Bool := match m with | .event (.deviceReset ..) _ => true | _ => false
  if s.gated && !reset then .next s
  else
    match m with
    | .issue c x => issueCtx s c x
    | .spoil c x => .next (spoilCtx s c x)
    | .softError => .next (s.count fun k => { k with eccCorr := k.eccCorr + 1 })
    | .readError pa h => .next (if pa < devSize then checkHbm s (.dev pa) (hbmCheck h) else s)
    | .event i ev => exec i { s with ev }
    | .request i ev req => exec i { s with ev, req }
    | .away a => .next (awayAct s a)
    | .tick => .next (tick s)
/-- Whether a move does something: transfers on a link apart, the state it gives differs. -/
def moves (s : State) (m : Move) : Bool :=
  match makeMove s m with
  | .next t =>
    let u : State := { t with ev := s.ev, req := s.req, linkUse := s.linkUse, checked := s.checked, squash := s.squash
                              slot := s.slot, inHeader := s.inHeader, core := s.core, ctx := s.ctx, queue := s.queue }
    !decide (u = s)
  | _ => true
/-- The contexts that can issue, one for each core. -/
def issues (s : State) : List Move :=
  (s.ctxs.filter fun e => issueReady s (keyCore e.1) (keyCtx e.1)).map fun e => .issue (keyCore e.1) (keyCtx e.1)
/-- The move that the schedule wants next: the first of the agenda; with none there, the first event that does something, then a
bundle that can issue and does something, then a cycle. -/
def wantedMove (s : State) : Move :=
  match s.agenda with
  | m :: _ => m
  | [] => ((dueEvents s ++ issues s).find? (moves s)).getD .tick

/-! ## What the schedule may not put off -/

/-- The issue of the service context of a core that has not issued its share of the window: no task context goes before it, so
that it issues as many bundles as it can (R34; DESIGN CHOICE, assumption log 77). -/
def serviceFirst (s : State) (c : Nat) : List Move :=
  if (s.coreAt c).svcIssued < (s.coreAt c).svcShare.toNat then [.issue c 8] else []
/-- The first bundles that a core owes the tasks of timed instances on reserved groves, before another context's bundle (R375). -/
def owedFirst (s : State) (c : Nat) : List Move := ((List.range 8).filter (firstDue s c)).map fun x => .issue c x
/-- What a core owes on a cycle: first bundles, its service context's share, an operation that can start on a free array, and one that can start
on the engine (R34, R260, R281). -/
def owedCore (s : State) (c : Nat) : List Move :=
  let k := s.coreAt c
  owedFirst s c ++ serviceFirst s c ++ (if k.mq.isEmpty then [] else [.event .matrixOpStart (evArgs c 0 0 0)]) ++
    (if k.eq.isEmpty then [] else [.event .fwOpStart (evArgs c 0 0 0)])
/-- What a context owes on a cycle: the comparison of a bundle that its trailing core has issued, and the end of a wait that has lasted
for its limit (R116, R241, R314, R452). -/
def owedCtx (s : State) (c x : Nat) : List Move :=
  let k := s.ctxAt c x
  (k.unmatched.filter fun u => u.2 + 2 ≤ s.time.toNat).map (fun u => .event .lockstepCompare (evArgs c x 0 u.1)) ++
  if k.frzSince.isNone ∧ k.holdSince.isNone then []
  else [.event .fullEmptyTimeout (evArgs c x 0 0), .event .waitbTimeout (evArgs c x 0 0), .event .svcTimeout (evArgs c x 0 0)]
/-- What the task units owe a timed instance on its groves: its first records accepted and its first dispatch within 64 cycles of
admission, and every dispatch early enough for its first bundle (R375; DEDUCED, assumption log 78). -/
def owedInst (s : State) (n : Nat) (i : Inst) : List Move :=
  let late : Bool := match i.since with | some t => t + 62 ≤ s.time.toNat | none => false
  let ts := s.tasks.filter fun e => e.2.inst = n
  let first : List Move := if late then
    .event .taskRecordAccept (evArgs n 0 0 0) :: i.img.groves.map fun g => .event .taskDispatch (evArgs g 0 0 0) else []
  let next : List Move := (ts.filter fun e => (e.2.st = .ready || e.2.st = .preempted) && readyFor s (e.1 / 512) (firstBound - 1) e.2).map
    fun e => .event .taskDispatch (evArgs (e.1 / 512) 0 0 0)
  .event .budgetExceed (evArgs n 0 0 0) :: (if i.reserved then first ++ next else [])
/-- Merged writes whose interval has ended (R436). -/
def owedMerges (s : State) (n : Nat) (w : RedWin) : List Move :=
  let gs := mergeGroups w.held
  (List.range gs.length).filterMap fun i => match gs[i]? with
    | some m => if m.since + w.interval ≤ s.time.toNat then some (.event .combineIntervalExpire (evArgs n i 0 0)) else none
    | none => none
/-- What links, channels and ports owe: a new key for a link that holds its accesses for one, which takes at most 2 µs, the end of a
retraining of 100 µs, which are 70,000 cycles, and of one of 1 ms, and what 10 ms with no port up drop (R8, R434, R446, R459). Whether a
channel's retraining fails is free. -/
def owedLinks (s : State) : List Move :=
  (s.linkUse.filter fun e => rekeys s e.1).map (fun e => .event .linkRekey (evArgs e.1 0 0 0)) ++
    ((s.chans.filter fun e => e.2.retraining && decide (e.2.since + 70000 ≤ s.time.toNat)).map fun e =>
      .event .channelRetrainDone ⟨e.1, 0, 0, 0, decide (s.free 9710 % 2 = 1)⟩) ++
    (s.ports.filter fun e => retrainOver s e.2).map (fun e => .event .portRetrainTimeout (evArgs e.1 0 0 0)) ++
    (if pathless s then [.event .pathLossTimeout (evArgs 0 0 0 0)] else [])
/-- Whatever must happen before a cycle of the clock ends: what the spec gives a cycle or a bound. -/
def owed (s : State) : List Move :=
  (s.groves.filter fun e => e.2.drain.isSome).map (fun e => .event .phaseDrainEnd (evArgs e.1 0 0 0)) ++
    (knownCores s).flatMap (owedCore s) ++ s.ctxs.flatMap (fun e => owedCtx s (keyCore e.1) (keyCtx e.1)) ++
    (s.tasks.filter fun e => idleSince e.2 + (s.groveAt (e.1 / 512)).hang.toNat ≤ s.time.toNat).map
      (fun e => .event .hangDetect (evArgs e.1 0 0 0)) ++
    s.insts.flatMap (fun e => owedInst s e.1 e.2) ++ s.redWins.flatMap (fun e => owedMerges s e.1 e.2) ++ owedLinks s
/-- What goes before a move: before a cycle whatever is owed, before a task context's bundle the first bundles that are due and the service
context's. -/
def before (s : State) (m : Move) : List Move :=
  match m with
  | .tick => if s.gated then [] else owed s
  | .issue c x => if x = 8 then [] else (mates s c x).flatMap fun c => owedFirst s c ++ serviceFirst s c
  | _ => []
/-- The move that is made next, and whether it is the one that the schedule wants. -/
def nextMove (s : State) : Move × Bool :=
  match (before s (wantedMove s)).find? (moves s) with
  | some m => (m, false)
  | none => (wantedMove s, true)
/-- One step: a move, taken from the agenda if it stands there, and what follows it. -/
def stepOnce (s : State) : Out :=
  let m := nextMove s
  Out.andThen (makeMove { s with agenda := if m.2 then s.agenda.drop 1 else s.agenda } m.1) fun t => .next (after t)

/-! ## One instruction placed for the next step (DESIGN CHOICE, assumption log 7) -/

/-- An image whose code segment holds one literal bundle. -/
def soloImage (w : Nat) : Image where
  groves := [0]
  dict := []
  code := literalMark :: (List.range 24).map fun i => BitVec.ofNat 16 (w / 2 ^ (16 * i))
  types := []
  safes := []
  phases := []
  ws := 0
  watches := []
  timed := false
  wcyc := 0
  fbud := 0
/-- An instance of an image on queue 0. -/
def soloInst (w : Nat) (desc : BitVec 512) : Inst where
  img := soloImage w
  queue := 0
  desc := desc
  pos := 0
  heapBase := 0
  heapLimit := 0
  heapOff := 0
  saveBase := 0
  saveLen := 0
  sigAddr := 0
  noPre := false
  gen := false
  ended := false
  endSt := .none
  endTime := 0
  recs := []
  cause := 0
  causeTime := 0
  froze := false
  entry := 0
  since := none
  deadline := 0
  charged := []
  preempting := none
  areas := []
  hostLines := []
/-- A bundle placed: context 0 of core 0 runs an instance whose first bundle it is, and issues next. -/
def placeBundle (s : State) (w : Nat) : State :=
  let k : Ctx := { Ctx.reset 0 0 with st := .running, inst := some 0, vGrant := 32, aGrant := 8 }
  let s := (s.setInst 0 (soloInst w (s.queueAt 0).desc)).setCtx 0 0 k
  { s.setCore 0 { s.coreAt 0 with current := some 0, lastIssue := none } with agenda := [.issue 0 0] }
/-- A packet placed: queue 0 has fetched it, and starts it next. -/
def placePacket (s : State) (i : Instr) : State :=
  { s.setQueue 0 { s.queueAt 0 with st := .active, fetched := some i } with
    agenda := [.event .packetStart (evArgs 0 0 0 0)], fetchers := [] }
/-- A request block placed at device address 0 and accepted; its hardware acts next. -/
def placeRequest (s : State) (i : Instr) (w : Nat) : State :=
  let r := RF.ofWord (BitVec.ofNat 512 w)
  { s with mem := s.mem.writeN 0 (leBytes 64 w), reqs := [⟨0, i, r, [], false⟩], agenda := [.request i Args.reset r] }
/-- A slot word placed in an otherwise empty bundle: `val` is its VAL bit and `pos` its lowest bit. -/
def slotBundle (w val pos : Nat) : Nat :=
  let h : HF := ⟨0, 0, 0, 0, 0, 0, 0, 0, BitVec.ofNat 6 (2 ^ val), 0, 0⟩
  h.toWord.toNat * 2 ^ 336 + w * 2 ^ pos
/-- The instruction of one word placed where the next step runs it: a slot, a bundle, a packet or a request block. -/
def placeWord (s : State) (nbits w : Nat) : State :=
  match nbits with
  | 64 =>
    let isS := (decodeS (SF.ofWord (BitVec.ofNat 64 w))).toOption.isSome
    placeBundle s (if isS then slotBundle (w % 2 ^ 64) 5 272 else slotBundle (w % 2 ^ 64) 4 208)
  | 48 =>
    let isM := (decodeM (MF.ofWord (BitVec.ofNat 48 w))).toOption.isSome
    placeBundle s (if isM then slotBundle (w % 2 ^ 48) 2 96 else slotBundle (w % 2 ^ 48) 1 48)
  | 512 =>
    match (decodePacket 2 (PF.ofWord (BitVec.ofNat 512 w))).toOption with
    | some i => placePacket s i
    | none =>
      match decodeReq (RF.ofWord (BitVec.ofNat 512 w)) with
      | some i => placeRequest s i (w % 2 ^ 512)
      | none => s
  | _ => placeBundle s (w % 2 ^ 384)

end Sys2Proof.Machine
end

