-- ==== Sys2Proof/Safety.lean ====
section
/-! DEFINITION. What a safe run is, in the terms that claims use: a step that goes on, the state in which an operation's
checks leave it to take effect, and a core that does not idle. -/

namespace Sys2Proof.Machine
open Sys2Proof

/-- A state whose next step goes on: it neither faults nor is refused. -/
def State.goesOn (s : State) : Prop := ∃ t, step s = .next t

/-- `n` steps that all go on, and the state they end in. -/
def runsTo (s : State) : Nat → State → Prop
  | 0, t => t = s
  | n + 1, t => ∃ u, step s = .next u ∧ runsTo u n t

/-- A safe run: from its state every number of steps goes on. -/
def State.safe (s : State) : Prop := ∀ n t, runsTo s n t → t.goesOn

/-- The state in which an operation takes effect: the state itself where the checks of R167 have already passed for its whole
bundle, else the state that its own checks leave when nothing stops it; `none` where something does. -/
def State.passes (s : State) (i : Instr) : Option State :=
  if s.checked then some s else (precheck s [(s.slot, i)]).toOption

/-- Whether a core that is not frozen waits without a run while it could choose one (R31, R39, R109). -/
def State.idles (s : State) (c : Nat) : Bool :=
  (s.coreAt c).current.isNone && !gangBlocks s c && !coreFrozen s c && (chooseCtx s c).isSome

/-- No core idles: a core without a run has no ready context to choose, is frozen, or waits for a gang's other cores. -/
def State.busy (s : State) : Prop := ∀ c, s.idles c = false

/-- The memory keeps its canonical form. -/
def State.memWf (s : State) : Prop := s.mem.wf = true

end Sys2Proof.Machine
end

