-- ==== Sys2Proof/Certificates/Slice0/Obligations.lean ====
section
/-! DEFINITION. The statements for the provers. Each says, in terms of `step`, `exec` and the decoder, what a rule of the
spec says of an instruction or of the machine. Where a statement rests on a choice of the model, its docstring names the
assumption log. Throughout, `s.passes i = some u` says that the checks of R167 let operation i take effect, in state u. -/

namespace Sys2Proof.Machine
open Sys2Proof

/-! ## Words used by several statements -/

/-- Two states that differ in the context that acts alone, and there in nothing but what has been put in flight. -/
def onlyStaged (s t : State) : Prop :=
  ∃ ls : List Landing, t = s.setMe { s.me with staged := s.me.staged ++ ls }

/-- Every byte of device memory that satisfies a test reads in `t` as in `s`. -/
def sameBytes (s t : State) (p : Nat → Prop) : Prop := ∀ a, p a → t.mem.read a = s.mem.read a

/-- The value of a result lane by lane: its lanes and flags, an inactive lane merged or zeroed (R198). -/
def lanesOf (u : State) (t : VTy) (d : VReg) (g : Guard) (f : Nat → Nat × FFlags) : VecW × FFlags :=
  guardMap t.bytes (u.rvp g.g) g.z (u.rv d) f

/-- The state of a context that an event names. -/
def evCtx (s : State) : Ctx := s.ctxAt s.ev.a s.ev.b

end Sys2Proof.Machine

open Sys2Proof Sys2Proof.Machine

/-! ## Encodings (R158-R166, R400-R402, R418) -/

/-- Words written out from R158, R164, R165, R400 and R418 decode to the instructions they stand for: one of each slot, a
header, a packet and a request block. -/
def Obligations.WordsDecode : Prop :=
  decodeTableWord 64 0x10C108000000000 = some (.add 3 1 (.reg 2)) ∧
  decodeTableWord 64 0x4014100005000010 = some (.ld .b false 5 1 0x10 5) ∧
  decodeTableWord 64 0x1830980C0000000 = some (.vadd .i32 3 1 6 ⟨3, false⟩) ∧
  decodeTableWord 48 0x102280000000 = some (.mmaBf16 1 0 5 ⟨false, false, false⟩) ∧
  decodeTableWord 48 0x10420C07000 = some (.cpy false ⟨false, 7⟩ 1 2 3) ∧
  decodeTableWord 384 (0x128000000000 * 2 ^ 336) = some (.jt ⟨2, true⟩ 0) ∧
  decodeTableWord 512 (0x105800009 + 0x42 * 2 ^ 64) = some (.preempt ⟨1, true, false, 9⟩ 0x42) ∧
  decodeTableWord 512 (0x05 + 16 * 2 ^ 64) = some .gpool

/-- Slot S: decoding what a well-formed operation encodes to gives the operation, every operand at every value. -/
def Sys2Proof.Machine.scalarSlotRoundTrip : Prop :=
  ∀ (i : Instr) (f : SF), encS i = some f → i.wf → decodeS (SF.ofWord f.toWord) = .ok i

/-- Slots V0 and V1: decoding what a well-formed operation encodes to gives the operation. -/
def Sys2Proof.Machine.vectorSlotRoundTrip : Prop :=
  ∀ (i : Instr) (f : VF), encV i = some f → i.wf → decodeV (VF.ofWord f.toWord) = .ok i

/-- Slot M: decoding what a well-formed operation encodes to gives the operation. -/
def Sys2Proof.Machine.matrixSlotRoundTrip : Prop :=
  ∀ (i : Instr) (f : MF), encM i = some f → i.wf → decodeM (MF.ofWord f.toWord) = .ok i

/-- Slots C0 and C1: decoding what a well-formed operation encodes to gives the operation. -/
def Sys2Proof.Machine.copySlotRoundTrip : Prop :=
  ∀ (i : Instr) (f : CF), encC i = some f → i.wf → decodeC (CF.ofWord f.toWord) = .ok i

/-- Every slot: decoding what a well-formed operation encodes to gives the operation, every operand at every value. -/
def Obligations.SlotRoundTrip : Prop := scalarSlotRoundTrip ∧ vectorSlotRoundTrip ∧ matrixSlotRoundTrip ∧ copySlotRoundTrip

/-- Packets: decoding what a packet encodes to gives the packet, under a version that its operands suit. -/
def Sys2Proof.Machine.packetRoundTrip : Prop :=
  ∀ (i : Instr) (f : PF) (v : Nat), encPkt i = some f → packetOk v i → decodePacket v (PF.ofWord f.toWord) = .ok i

/-- Whether the operations of a bundle are well formed and keep R31, R161, R163 and R166 outside a delay position. -/
def Sys2Proof.Machine.bundleOk (b : Bundle) : Prop :=
  (∀ o ∈ b.ops, o.2.op.wf = true ∧ (yieldWait o.2.op = true → b.yld = true) ∧ (o.2.squash = true → squashOk o.2.op = true)) ∧
    hasTwice b.dests = false

/-- Bundles: decoding what a well-formed bundle encodes to gives the bundle, its header, its slots and its squash bits. -/
def Sys2Proof.Machine.bundleRoundTrip : Prop :=
  ∀ (b : Bundle) (w : BundleW), encode b = some w → bundleOk b → decodeBundle w false = .ok b

/-- Packets and bundles: decoding what one encodes to gives it back, header, slots and squash bits of a bundle with it. -/
def Obligations.PacketAndBundleRoundTrip : Prop := packetRoundTrip ∧ bundleRoundTrip

/-- Each word has one meaning: a slot word that decodes is the encoding of the operation it decodes to, which is well
formed, and so no field that the operation does not use is set (R164, R166); and a request block that decodes has the OP of its
request and no reserved bit set (R418). -/
def Obligations.DecodedWordsReencode : Prop :=
  (∀ (f : SF) (i : Instr), decodeS f = .ok i → encS i = some f ∧ i.wf) ∧
  (∀ (f : VF) (i : Instr), decodeV f = .ok i → encV i = some f ∧ i.wf) ∧
  (∀ (f : MF) (i : Instr), decodeM f = .ok i → encM i = some f ∧ i.wf) ∧
  (∀ (f : CF) (i : Instr), decodeC f = .ok i → encC i = some f ∧ i.wf) ∧
  (∀ (f : PF) (v : Nat) (i : Instr), decodePacket v f = .ok i → encPkt i = some f ∧ packetOk v i) ∧
  ∀ (f : RF) (i : Instr), decodeReq f = some i → reqOp i = some f.op ∧ f.rsv = 0 ∧ reqFieldsOk f i = true

/-- A header that breaks R158 or R159 is refused with R166's code and SLOT 0xFF, before any slot is looked at: SEQ 6 to 15
with code 1; a reserved bit, an SQ bit whose VAL bit is clear, or a CP, CN, BT or LC that SEQ does not use, with code 2; a transfer in
a delay position with code 5. -/
def Sys2Proof.Machine.illegalHeaders : Prop :=
  ∀ (w : BundleW) (inDelay : Bool),
    let h := HF.ofWord (bits w 336 48)
    (6 ≤ h.seq.toNat → decodeBundle w inDelay = .error (.unassigned, noSlot)) ∧
    (h.seq.toNat < 6 → h.rsv ≠ 0 ∨ h.sq &&& ~~~h.val ≠ 0 → decodeBundle w inDelay = .error (.unused, noSlot)) ∧
    (h.seq.toNat = 0 ∨ h.seq.toNat = 5 → h.cp ≠ 0 ∨ h.cn ≠ 0 ∨ h.bt ≠ 0 ∨ h.lc ≠ 0 →
      decodeBundle w inDelay = .error (.unused, noSlot)) ∧
    (h.seq.toNat = 1 ∨ h.seq.toNat = 2 → h.lc ≠ 0 → decodeBundle w inDelay = .error (.unused, noSlot)) ∧
    (h.seq.toNat = 3 → h.bt ≠ 0 ∨ h.lc ≠ 0 → decodeBundle w inDelay = .error (.unused, noSlot)) ∧
    (∀ i, decodeHeader h false = .ok (some i) → i.isTransfer = true →
      decodeBundle w true = .error (.delay, noSlot))

/-- The sequencer reads a halfword (R153): an index below the dictionary's length is that entry, one at or beyond it is
illegal with code 2, 0x2000 to 0xFFFE with code 1, 0xFFFF takes the next 24 halfwords as a literal, and what lies beyond the
code segment is illegal with code 3. -/
def Sys2Proof.Machine.sequencerReads : Prop :=
  ∀ (i : Image) (pc : Nat),
    (i.code.length ≤ pc → fetchAt i pc = .illegal 3) ∧
    (∀ h, i.code[pc]? = some h →
      (∀ w, i.dict[h.toNat]? = some w → h.toNat < 0x2000 → fetchAt i pc = .bundle w false) ∧
      (h.toNat < 0x2000 → i.dict.length ≤ h.toNat → fetchAt i pc = .illegal 2) ∧
      (0x2000 ≤ h.toNat → h.toNat ≤ 0xFFFE → fetchAt i pc = .illegal 1) ∧
      (h = 0xFFFF → i.code.length < pc + 25 → fetchAt i pc = .illegal 3) ∧
      (h = 0xFFFF → pc + 25 ≤ i.code.length →
        ∃ w, fetchAt i pc = .bundle w true ∧
          ∀ n, n < 24 → i.code[pc + 1 + n]? = some (bits w (16 * n) 16)))

/-- What the sequencer reads at a program counter (R153), and which headers it refuses, with which code (R158, R159, R166). -/
def Obligations.HeadersAndFetch : Prop := illegalHeaders ∧ sequencerReads

/-! ## Reset and the step -/

/-- What reset leaves: device memory zero (R444, step 5); SYS.AGELIMIT 4,096 and SYS.SVCSHARE 2 on every core, SYS.RETRY 2
and SYS.HANG 16,777,216 on every grove, SYS.PHASE 0 on every die (R63, R64); every queue disabled; BAR0 closed and IFSEL.DONE
clear; key slot 0 alone provisioned. The registers whose reset value the spec does not give are the model's (assumption
log 3) and no part of this. -/
def Sys2Proof.Machine.resetValues : Prop :=
  (∀ a, State.reset.mem.read a = 0) ∧
  (∀ c, (State.reset.coreAt c).ageLimit = 4096 ∧ (State.reset.coreAt c).svcShare = 2) ∧
  (∀ g, (State.reset.groveAt g).retry = 2 ∧ (State.reset.groveAt g).hang = 16777216) ∧
  (∀ d, (State.reset.dieAt d).phase = 0) ∧
  (∀ q, (State.reset.queueAt q).st = .disabled) ∧
  State.reset.booted = false ∧ tst State.reset.ifsel 8 = false ∧
  ∀ n, n < 16 → Map.get? State.reset.keySlots n = if n = 0 then some true else none

/-- After reset no core idles beside a ready context, and memory is in canonical form. -/
def Sys2Proof.Machine.resetKeepsInvariants : Prop := State.reset.busy ∧ State.reset.memWf

/-- What reset leaves, and the invariants that it meets (R30, R31, R63, R64, R399, R444). -/
def Obligations.ResetLeaves : Prop := resetValues ∧ resetKeepsInvariants

/-- No core idles beside a ready context (R30, R31): from any state, a step that goes on leaves no core without a run
while a context of it is ready, unless the core is frozen (R109) or waits for a gang's other cores (R39). A context of a second gang does
not count as ready while a core of the grove runs the first, and two gangs that have yielded wait for each other's interposed runs: both
are the model's choice (DESIGN CHOICE, assumption log 70). -/
def Obligations.StepLeavesNoIdleCore : Prop :=
  ∀ s t : State, step s = .next t → t.busy

/-- Memory keeps its canonical form, in which a byte that is not listed reads zero, as a boot leaves it (R444; assumption log 5): from every
state whose device memory lists its bytes at rising addresses, none of them zero, a step that goes on leaves memory so. Two states that read alike at every address have the same memory. -/
def Obligations.StepKeepsMemoryForm : Prop :=
  (∀ s t : State, s.memWf → step s = .next t → t.memWf) ∧
  ∀ s t : State, s.memWf → t.memWf → sameBytes s t (fun _ => True) → t.mem = s.mem

/-- A step runs the decoded bundle. Where the schedule's next move is the issue of a context that may issue, its
halfword leads to a bundle that decodes, and the bundle passes its checks on the one core it runs on, the step takes up the
bundle (its program counter passes it), executes its slot operations in slot order and then its header, puts what they left
in flight, and answers with what follows every move; where a .wf store of it could not be performed it does not issue, and waits (R115).
Before a task context's bundle comes that of a service context which can issue
within its share of the window (R34, assumption log 77), and the first bundle that R375 makes due (assumption log 78). The schedule is
the model's own (assumption log 1). -/
def Obligations.StepRunsBundle : Prop :=
  (∀ (s : State) (c x : Nat) (img : Image) (w : BundleW) (lit : Bool) (b : Bundle) (u : State),
    let s0 : State := { s with agenda := s.agenda.drop 1, checked := false, squash := false, slot := .s, inHeader := false }
    let s1 : State := { s0 with core := c, ctx := x }
    let t := s1.setCtx c x (leaveRestore img (transferNow (s1.ctxAt c x)))
    s.agenda.head? = some (.issue c x) → s.gated = false → (s.ctxAt c x).gang = false →
    (before s (.issue c x)).find? (moves s) = none →
    issueReady s0 c x = true → imageAt s1 c x = some img →
    fetchAt img (t.ctxAt c x).pc.toNat = .bundle w lit → (lit && literalWaits s1 x c) = false →
    decodeBundle w (decide (0 < (t.ctxAt c x).delay)) = .ok b →
    precheck t (instrsOf b) = .ok u →
    step s = Out.andThen (Out.andThen (issueBundle { u with core := c } c x img b) fun v =>
      if wfUnmet v c x t.nextOrd then Stop.full.out { s1 with core := c } (instrsOf b) else .next v) fun v => .next (after v)) ∧
  ∀ (s : State) (c x : Nat) (m : Move), s.agenda.head? = some (.issue c x) → s.gated = false →
    (before s (.issue c x)).find? (moves s) = some m →
    step s = (Out.andThen (makeMove s m) fun v => .next (after v)) ∧ x ≠ 8 ∧
      ∃ d y, m = .issue d y ∧ d ∈ mates s c x ∧ (y = 8 ∨ firstDue s d y = true)

/-- A step runs the event or request that the schedule names: the meaning of the instruction, and then what follows every
move. -/
def Sys2Proof.Machine.stepRunsEvent : Prop :=
  ∀ (s : State) (i : Instr) (ev : Args) (req : RF),
    let s0 : State := { s with agenda := s.agenda.drop 1, checked := false, squash := false, slot := .s, inHeader := false }
    s.gated = false →
    (s.agenda.head? = some (.event i ev) →
      step s = Out.andThen (exec i { s0 with ev := ev }) fun v => .next (after v)) ∧
    (s.agenda.head? = some (.request i ev req) →
      step s = Out.andThen (exec i { s0 with ev := ev, req := req }) fun v => .next (after v))

/-- At 115 °C every clock is gated until a device reset (R463): whatever the schedule names but a device reset, a step of
a gated machine makes no move. -/
def Sys2Proof.Machine.gatedMachineWaits : Prop :=
  ∀ (s : State) (m : Move), s.gated = true → s.agenda.head? = some m →
    (∀ a b c d ev, m ≠ .event (.deviceReset a b c d) ev) →
    step s = .next (after { s with agenda := s.agenda.drop 1, checked := false, squash := false, slot := .s, inHeader := false })

/-- A cycle of the clock (R8, R34, R58, R108, R109, R116, R260, R281, R375, R376, R436). It passes only when nothing that the spec
gives to a cycle, or to a bound that has come, can still happen: the first such move goes before it (assumption logs 1, 77, 78).
Then SYS.TIME counts it, and every core counts it as frozen or as run, a trailing core as its leading core did two cycles before
(R452). -/
def Sys2Proof.Machine.cyclesPass : Prop :=
  ∀ s : State, s.gated = false → s.agenda.head? = some .tick →
    let v : State := { s with agenda := s.agenda.drop 1, checked := false, squash := false, slot := .s, inHeader := false }
    (∀ m, (owed s).find? (moves s) = some m → step s = Out.andThen (makeMove s m) fun t => .next (after t)) ∧
    ((owed s).find? (moves s) = none → step s = .next (after (tick v)) ∧ (tick v).time = s.time + 1 ∧
      ((knownCores s).Nodup → ∀ c, c ∈ knownCores s →
        let k := (tick v).coreAt c
        if standsStill s c then k.cyc = (s.coreAt c).cyc ∧ k.frzcore = (s.coreAt c).frzcore + 1
        else k.cyc = (s.coreAt c).cyc + 1 ∧ k.frzcore = (s.coreAt c).frzcore))

/-- A step runs the event or request that the schedule (assumption log 1) names; a machine gated at 115 °C makes no move but a
device reset (R463); a cycle passes only when nothing is owed on it. -/
def Obligations.StepRunsEvents : Prop := stepRunsEvent ∧ gatedMachineWaits ∧ cyclesPass

/-! ## Results (R51, R55, R56, R61, R169) -/

/-- The next state is `t`: the bundle's context in state `u` has one more result in flight, of the destination, value and flags
given, to land 1 to L non-frozen cycles after issue; and nothing else differs: no register, no memory, no other context. -/
def Sys2Proof.Machine.inFlight (u t : State) (wr : Wr) (L : Nat) (fl : FFlags) : Prop :=
  ∃ l : Landing, t = u.setMe { u.me with staged := u.me.staged ++ [l] } ∧ l.wr = wr ∧ l.flags = fl ∧ l.squash = u.squash ∧
    u.myCore.cyc + 1 ≤ l.land ∧ l.land ≤ u.myCore.cyc + L

/-- Operation i completes in state s with one result in flight from state u. -/
def Sys2Proof.Machine.yields (i : Instr) (s u : State) (wr : Wr) (L : Nat) (fl : FFlags) : Prop :=
  ∃ t, exec i s = .next t ∧ inFlight u t wr L fl

/-- The binary integer instructions (R173), with the two borderline cases of division (R174): each completes in every
state, with its result for s[D] in flight under its latency bound (R169). -/
def Obligations.IntegerResults : Prop :=
  ∀ (s : State) (d a : SReg) (y2 : Src2),
    let x := s.rs a
    let y := s.src2 y2
    let n := (bits y 0 6).toNat
    let minInt : W64 := 0x8000000000000000
    yields (.add d a y2) s s (.s d (x + y)) 1 0 ∧
    yields (.sub d a y2) s s (.s d (x - y)) 1 0 ∧
    yields (.mul d a y2) s s (.s d (x * y)) 3 0 ∧
    yields (.mulh d a y2) s s (.s d (BitVec.ofInt 64 (x.toInt * y.toInt / 2 ^ 64))) 3 0 ∧
    yields (.mulhn d a y2) s s (.s d (BitVec.ofNat 64 (x.toNat * y.toNat / 2 ^ 64))) 3 0 ∧
    yields (.div d a y2) s s (.s d (if y = 0 then BitVec.allOnes 64 else if x = minInt ∧ y = BitVec.allOnes 64 then minInt
      else BitVec.ofInt 64 (x.toInt.tdiv y.toInt))) 20 0 ∧
    yields (.divn d a y2) s s (.s d (if y = 0 then BitVec.allOnes 64 else x / y)) 20 0 ∧
    yields (.rem d a y2) s s (.s d (if y = 0 then x else if x = minInt ∧ y = BitVec.allOnes 64 then 0
      else BitVec.ofInt 64 (x.toInt - y.toInt * x.toInt.tdiv y.toInt))) 20 0 ∧
    yields (.remn d a y2) s s (.s d (if y = 0 then x else x % y)) 20 0 ∧
    yields (.and d a y2) s s (.s d (x &&& y)) 1 0 ∧
    yields (.or d a y2) s s (.s d (x ||| y)) 1 0 ∧
    yields (.xor d a y2) s s (.s d (x ^^^ y)) 1 0 ∧
    yields (.andn d a y2) s s (.s d (x &&& ~~~y)) 1 0 ∧
    yields (.shl d a y2) s s (.s d (x <<< n)) 1 0 ∧
    yields (.shr d a y2) s s (.s d (x >>> n)) 1 0 ∧
    yields (.sar d a y2) s s (.s d (x.sshiftRight n)) 1 0 ∧
    yields (.rol d a y2) s s (.s d (x.rotateLeft n)) 1 0 ∧
    yields (.min d a y2) s s (.s d (if x.toInt ≤ y.toInt then x else y)) 1 0 ∧
    yields (.max d a y2) s s (.s d (if x.toInt ≤ y.toInt then y else x)) 1 0 ∧
    yields (.minn d a y2) s s (.s d (if x.toNat ≤ y.toNat then x else y)) 1 0 ∧
    yields (.maxn d a y2) s s (.s d (if x.toNat ≤ y.toNat then y else x)) 1 0

/-- Counts, fields and moves (R175 to R179): each completes in every state, its result bit by bit or as a number as the
rule has it. BFX and BFI are stated for the field values that R177 assigns. -/
def Obligations.BitFieldResults : Prop :=
  ∀ (s : State) (d a : SReg),
    let x := s.rs a
    (∃ n, yields (.clz d a) s s (.s d (BitVec.ofNat 64 n)) 1 0 ∧ n ≤ 64 ∧ x.toNat < 2 ^ (64 - n) ∧
      (n < 64 → 2 ^ (63 - n) ≤ x.toNat)) ∧
    (∃ n, yields (.ctz d a) s s (.s d (BitVec.ofNat 64 n)) 1 0 ∧ n ≤ 64 ∧ (∀ i, i < n → x.getLsbD i = false) ∧
      (n < 64 → x.getLsbD n = true)) ∧
    yields (.popc d a) s s (.s d (BitVec.ofNat 64 ((List.range 64).countP fun i => x.getLsbD i))) 1 0 ∧
    (∀ w : Fin 64, ∃ v, yields (.sext d a w) s s (.s d v) 1 0 ∧ ∀ i, i < 64 → v.getLsbD i = x.getLsbD (Nat.min i w.val)) ∧
    (∀ w : Fin 64, ∃ v, yields (.zext d a w) s s (.s d v) 1 0 ∧
      ∀ i, i < 64 → v.getLsbD i = (decide (i ≤ w.val) && x.getLsbD i)) ∧
    (∀ b neg p, yields (.sel d a b neg p) s s (.s d (if xor (s.rp p) neg then x else s.rs b)) 1 0) ∧
    (∀ v : BitVec 34, yields (.movi d v) s s (.s d (v.signExtend 64)) 1 0) ∧
    (∀ v : BitVec 30, yields (.movhi d v) s s (.s d (BitVec.ofNat 64 (v.toNat * 2 ^ 34 + (s.rs d).toNat % 2 ^ 34))) 1 0) ∧
    ∀ (pos : BitVec 6) (len : BitVec 7), 1 ≤ len.toNat → pos.toNat + len.toNat ≤ 64 →
      (∃ v, yields (.bfx d a pos len) s s (.s d v) 1 0 ∧
        ∀ i, i < 64 → v.getLsbD i = (decide (i < len.toNat) && x.getLsbD (pos.toNat + i))) ∧
      (∃ v, yields (.bfi d a pos len) s s (.s d v) 1 0 ∧
        ∀ i, i < 64 → v.getLsbD i =
          if pos.toNat ≤ i ∧ i < pos.toNat + len.toNat then x.getLsbD (i - pos.toNat) else (s.rs d).getLsbD i)

/-- Comparisons and predicates (R180, R181): p[D] gets the condition, signed or unsigned, and the logical operations take
their sources inverted where the bits of Q say so. -/
def Sys2Proof.Machine.predicateResults : Prop :=
  ∀ (s : State) (d : PReg),
    (∀ (n : Bool) (a : SReg) (y2 : Src2),
      let x := s.rs a
      let y := s.src2 y2
      yields (.cmp .eq n d a y2) s s (.p d (decide (x = y))) 1 0 ∧
      yields (.cmp .ne n d a y2) s s (.p d (decide (x ≠ y))) 1 0 ∧
      yields (.cmp .lt n d a y2) s s (.p d (if n then decide (x.toNat < y.toNat) else decide (x.toInt < y.toInt))) 1 0 ∧
      yields (.cmp .ge n d a y2) s s (.p d (if n then decide (y.toNat ≤ x.toNat) else decide (y.toInt ≤ x.toInt))) 1 0) ∧
    (∀ (a b : PReg) (nb na : Bool),
      yields (.pand d a b nb na) s s (.p d (xor (s.rp a) na && xor (s.rp b) nb)) 1 0 ∧
      yields (.por d a b nb na) s s (.p d (xor (s.rp a) na || xor (s.rp b) nb)) 1 0 ∧
      yields (.pxor d a b nb na) s s (.p d (xor (xor (s.rp a) na) (xor (s.rp b) nb))) 1 0) ∧
    ∀ a : PReg, yields (.pnot d a) s s (.p d (!s.rp a)) 1 0 ∧ yields (.pmov d a) s s (.p d (s.rp a)) 1 0

/-- Target registers, loop counters and the program counter (R182 to R185). -/
def Sys2Proof.Machine.sequencingRegisterResults : Prop :=
  ∀ s : State,
    (∀ (d : BReg) (t : BitVec 32), yields (.bta d t) s s (.b d t) 1 0) ∧
    (∀ (d : BReg) (a : SReg) (off : BitVec 34),
      yields (.btrWrite d a off) s s (.b d (bits (s.rs a + off.signExtend 64) 0 32)) 1 0) ∧
    (∀ (d : SReg) (a : BReg), yields (.btrRead d a) s s (.s d (BitVec.ofNat 64 (s.rb a).toNat)) 1 0) ∧
    (∀ (d : LReg) (y : Src2), yields (.loopWrite d y) s s (.lc d (bits (s.src2 y) 0 32)) 1 0) ∧
    (∀ (d : SReg) (a : LReg), yields (.loopRead d a) s s (.s d (BitVec.ofNat 64 (s.rlc a).toNat)) 1 0) ∧
    ∀ (d : SReg) (off : BitVec 34), yields (.rdpc d off) s s (.s d (BitVec.ofNat 64 s.here.toNat + off.signExtend 64)) 1 0

/-- Comparisons, predicates, target registers, loop counters and the program counter (R180 to R185): each completes in every state,
its result in flight. -/
def Obligations.PredicateAndSequencingResults : Prop := predicateResults ∧ sequencingRegisterResults

/-- Scalar floating point (R186 to R189): the operands are the low bits of their registers, the result is in the low bits
with zeros above, and its flags travel with it. FDIV and FSQRT have bound 22 on f64 and 12 on the rest. -/
def Obligations.ScalarFloatResults : Prop :=
  ∀ (s : State) (f : SFmt) (d a b c : SReg),
    let F := sfmt f
    let v (r : SReg) : Nat := (s.rs r).toNat % 2 ^ F.width
    let L : Nat := if f = .f64 then 22 else 12
    let out (i : Instr) (r : Nat × FFlags) (n : Nat) : Prop := yields i s s (.s d (BitVec.ofNat 64 r.1)) n r.2
    out (.fadd f d a b) (faddBits F (v a) (v b)) 4 ∧ out (.fsub f d a b) (fsubBits F (v a) (v b)) 4 ∧
    out (.fmul f d a b) (fmulBits F (v a) (v b)) 4 ∧ out (.ffma f d a b c) (ffmaBits F false false (v a) (v b) (v c)) 4 ∧
    out (.fdiv f d a b) (fdivBits F (v a) (v b)) L ∧ out (.fsqrt f d a) (fsqrtBits F (v a)) L ∧
    out (.fmin f d a b) (fminBits F (v a) (v b), 0) 4 ∧ out (.fmax f d a b) (fmaxBits F (v a) (v b), 0) 4 ∧
    (∀ (q : FCond) (p : PReg),
      yields (.fcmp q f p a b) s s (.p p (fcond q (unpack F (v a)) (unpack F (v b)))) 4 0) ∧
    ∀ (m : RMode) (src dst : CvtTy), yields (.fcvt d a m src dst) s s (.s d (fcvtBits m src dst (s.rs a)).1) 4
      (fcvtBits m src dst (s.rs a)).2

/-- A result lands (R51, R56, R61): the register it names gets the value, s0, p0 and vp0 excepted, which keep theirs; every
other register keeps its content; and its flags join SYS.FPFLAGS, which nothing clears. A tile or parameter register changes
in the bits of the result's mask alone. -/
def Obligations.ResultsLand : Prop :=
  ∀ (k : Ctx) (l : Landing),
    let t := k.landOn l
    (t.fpflags = k.fpflags ||| l.flags ∨ ∃ x, l.wr = .sys 0x010 x) ∧
    (∀ r : SReg, t.s[r.val] = match l.wr with | .s q x => if q = r ∧ r ≠ 0 then x else k.s[r.val] | _ => k.s[r.val]) ∧
    (∀ r : PReg, t.p[r.val] = match l.wr with | .p q x => if q = r ∧ r ≠ 0 then x else k.p[r.val] | _ => k.p[r.val]) ∧
    (∀ r : BReg, t.b[r.val] = match l.wr with | .b q x => if q = r then x else k.b[r.val] | _ => k.b[r.val]) ∧
    (∀ r : LReg, t.lc[r.val] = match l.wr with | .lc q x => if q = r then x else k.lc[r.val] | _ => k.lc[r.val]) ∧
    (∀ r : VReg, t.v[r.val] = match l.wr with | .v q x => if q = r then x else k.v[r.val] | _ => k.v[r.val]) ∧
    (∀ r : VpReg, t.vp[r.val] = match l.wr with | .vp q x => if q = r ∧ r ≠ 0 then x else k.vp[r.val] | _ => k.vp[r.val]) ∧
    (∀ r : MpReg, t.mp[r.val] = match l.wr with
      | .mp q x m => if q = r then (k.mp[r.val] &&& ~~~m) ||| (x &&& m) else k.mp[r.val] | _ => k.mp[r.val]) ∧
    (∀ r : AccReg, t.acc[r.val] = match l.wr with
      | .acc q x m => if q = r then (k.acc[r.val] &&& ~~~m) ||| (x &&& m) else k.acc[r.val] | _ => k.acc[r.val]) ∧
    (t.pc = k.pc ∧ t.delay = k.delay ∧ t.target = k.target ∧ t.fb = k.fb ∧ t.lts = k.lts ∧ t.st = k.st)

/-- A register is read (R51, R55): s0 reads zero, p0 true and vp0 all-true; a register to which nothing is in flight reads
its content; one to which a single result is in flight reads its content or that result, and which is not said: a vector register granule
by granule. The result of a write of part of a tile is the tile with that part written, and no write of a parameter register is ever in
flight (R257). -/
def Obligations.RegistersRead : Prop :=
  ∀ s : State,
    s.rs 0 = 0 ∧ s.rp 0 = true ∧ s.rvp 0 = BitVec.allOnes 512 ∧
    (∀ r : SReg, r ≠ 0 → flightS s.me r = [] → s.rs r = s.me.s[r.val]) ∧
    (∀ (r : SReg) (x : W64), r ≠ 0 → flightS s.me r = [x] → s.rs r = s.me.s[r.val] ∨ s.rs r = x) ∧
    (∀ r : PReg, r ≠ 0 → flightP s.me r = [] → s.rp r = s.me.p[r.val]) ∧
    (∀ (r : PReg) (x : BitVec 1), r ≠ 0 → flightP s.me r = [x] → s.rp r = s.me.p[r.val] ∨ s.rp r = decide (x = 1)) ∧
    (∀ r : BReg, flightB s.me r = [] → s.rb r = s.me.b[r.val]) ∧
    (∀ (r : BReg) (x : W32), flightB s.me r = [x] → s.rb r = s.me.b[r.val] ∨ s.rb r = x) ∧
    (∀ r : LReg, flightLc s.me r = [] → s.rlc r = s.me.lc[r.val]) ∧
    (∀ (r : LReg) (x : W32), flightLc s.me r = [x] → s.rlc r = s.me.lc[r.val] ∨ s.rlc r = x) ∧
    (∀ r : VReg, flightV s.me r = [] → s.rv r = s.me.v[r.val]) ∧
    (∀ (r : VReg) (x : VecW), flightV s.me r = [x] → ∀ j, j < 32 →
      bits (s.rv r) (128 * j) 128 = bits s.me.v[r.val] (128 * j) 128 ∨ bits (s.rv r) (128 * j) 128 = bits x (128 * j) 128) ∧
    (∀ r : VpReg, r ≠ 0 → flightVp s.me r = [] → s.rvp r = s.me.vp[r.val]) ∧
    (∀ (r : VpReg) (x : BitVec 512), r ≠ 0 → flightVp s.me r = [x] → s.rvp r = s.me.vp[r.val] ∨ s.rvp r = x) ∧
    (∀ r : MpReg, s.rmp r = s.me.mp[r.val]) ∧
    (∀ r : AccReg, flightAcc s.me r = [] → s.racc r = s.me.acc[r.val]) ∧
    ∀ (r : AccReg) (x : TileW), flightAcc s.me r = [x] → s.racc r = s.me.acc[r.val] ∨ s.racc r = x

/-! ## Vector instructions (R197-R219) -/

/-- Operation i, whose checks leave state u, completes with v[d] in flight, formed lane by lane under its guard (R198): `f` gives
each active lane's value and flags. -/
def Sys2Proof.Machine.yieldsLanes (i : Instr) (s u : State) (t : VTy) (d : VReg) (g : Guard) (L : Nat)
    (f : Nat → Nat × FFlags) : Prop :=
  yields i s u (.v d (lanesOf u t d g f).1) L (lanesOf u t d g f).2

/-- Lane-wise arithmetic (R202), special functions (R203), logic (R204): each completes where its bundle's checks pass, and
each active lane gets the value of the rule's table, float lanes rounded with flags and integer lanes wrapped at their width. VEXP2, VLOG2,
VTANH and VSIGM round what the model encloses in fixed point, and give a free value where that does not decide the rounding (DEDUCED,
assumption log 13). -/
def Obligations.VectorArithmeticResults : Prop :=
  ∀ (s u : State) (t : VTy) (n : Bool) (d a b c : VReg) (g : Guard),
    let w := 8 * t.bytes
    let F := vfmt t
    let x (i : Nat) : Nat := lane t.bytes (u.rv a) i
    let y (i : Nat) : Nat := lane t.bytes (u.rv b) i
    let z (i : Nat) : Nat := lane t.bytes (u.rv c) i
    let out (j : Instr) (L : Nat) (fl : Nat → Nat × FFlags) (int : Nat → Int) : Prop :=
      s.passes j = some u → yieldsLanes j s u t d g L fun i => if floatTy t then fl i else (wrapNat w (int i), 0)
    let flt (j : Instr) (L : Nat) (f : Nat → Nat × FFlags) : Prop := s.passes j = some u → yieldsLanes j s u t d g L f
    let slow : Nat := if t = .f64 then 28 else 14
    out (.vadd t d a b g) 4 (fun i => faddBits F (x i) (y i)) (fun i => x i + y i) ∧
    out (.vsub t d a b g) 4 (fun i => fsubBits F (x i) (y i)) (fun i => x i - y i) ∧
    out (.vmul t d a b g) 4 (fun i => fmulBits F (x i) (y i)) (fun i => x i * y i) ∧
    out (.vfma t d a b c g) 4 (fun i => ffmaBits F false false (x i) (y i) (z i)) (fun i => x i * y i + z i) ∧
    out (.vfms t d a b c g) 4 (fun i => ffmaBits F false true (x i) (y i) (z i)) (fun i => x i * y i - z i) ∧
    out (.vfnma t d a b c g) 4 (fun i => ffmaBits F true false (x i) (y i) (z i)) (fun i => z i - x i * y i) ∧
    out (.vabs t d a g) 4 (fun i => (fabsBits F (x i), 0)) (fun i => (laneInt t.bytes false (x i)).natAbs) ∧
    out (.vneg t d a g) 4 (fun i => (fnegBits F (x i), 0)) (fun i => -(x i : Int)) ∧
    flt (.vmin t n d a b g) 4 (fun i => (if floatTy t then fminBits F (x i) (y i)
      else if laneInt t.bytes n (y i) < laneInt t.bytes n (x i) then y i else x i, 0)) ∧
    flt (.vmax t n d a b g) 4 (fun i => (if floatTy t then fmaxBits F (x i) (y i)
      else if laneInt t.bytes n (x i) < laneInt t.bytes n (y i) then y i else x i, 0)) ∧
    flt (.vaddsat t n d a b g) 4 (fun i =>
      let r := laneInt t.bytes n (x i) + laneInt t.bytes n (y i)
      (if n then satU w r else satS w r, 0)) ∧
    flt (.vsubsat t n d a b g) 4 (fun i =>
      let r := laneInt t.bytes n (x i) - laneInt t.bytes n (y i)
      (if n then satU w r else satS w r, 0)) ∧
    flt (.vmulh t n d a b g) 4 (fun i =>
      (wrapNat w (laneInt t.bytes n (x i) * laneInt t.bytes n (y i) / (2 ^ w : Nat)), 0)) ∧
    flt (.vrcp t d a g) 12 (fun i => rcpBits F (x i)) ∧ flt (.vrsq t d a g) 12 (fun i => rsqBits F (x i)) ∧
    flt (.vexp2 t d a g) 12 (fun i => exp2Bits F (x i)) ∧ flt (.vlog2 t d a g) 12 (fun i => log2Bits F (x i)) ∧
    flt (.vtanh t d a g) 12 (fun i => tanhBits F (x i)) ∧ flt (.vsigm t d a g) 12 (fun i => sigmBits F (x i)) ∧
    flt (.vsqrt t d a g) slow (fun i => fsqrtBits F (x i)) ∧
    flt (.vdiv t d a b g) slow (fun i => fdivBits F (x i) (y i)) ∧
    flt (.vand t d a b g) 2 (fun i => (x i &&& y i, 0)) ∧ flt (.vor t d a b g) 2 (fun i => (x i ||| y i, 0)) ∧
    flt (.vxor t d a b g) 2 (fun i => (x i ^^^ y i, 0)) ∧ flt (.vnot t d a g) 2 (fun i => (2 ^ w - 1 - x i, 0))

/-- Vector shifts, selection and movement (R205, R207, R212 to R214): each completes where its checks pass, and each active
lane gets the rule's lane. VEXTR and VINSR take no guard. -/
def Obligations.VectorMovementResults : Prop :=
  ∀ (s u : State) (t : VTy) (d a b c : VReg) (g : Guard) (q : SReg),
    let w := 8 * t.bytes
    let n := 512 / t.bytes
    let x (i : Nat) : Nat := lane t.bytes (u.rv a) i
    let y (i : Nat) : Nat := lane t.bytes (u.rv b) i
    let out (j : Instr) (L : Nat) (f : Nat → Nat) : Prop :=
      s.passes j = some u → yieldsLanes j s u t d g L fun i => (f i, 0)
    let amt (v : VAmt) (i : Nat) : Nat := match v with | .reg r => lane t.bytes (u.rv r) i | .imm k => k.toNat
    let idx (v : Idx) : Nat := match v with | .reg r => (u.rs r).toNat % n | .imm k => k.toNat
    (∀ v, out (.vshl t d a v g) 2 (fun i => if w ≤ amt v i then 0 else (x i <<< amt v i) % 2 ^ w)) ∧
    (∀ v, out (.vshr t d a v g) 2 (fun i => if w ≤ amt v i then 0 else x i >>> amt v i)) ∧
    (∀ v, out (.vsar t d a v g) 2 (fun i =>
      wrapNat w (laneInt t.bytes false (x i) / (2 ^ Nat.min (amt v i) w : Nat)))) ∧
    (∀ sel, out (.vsel t d a b sel g) 2 (fun i => if laneOn t.bytes (u.rvp sel) i then x i else y i)) ∧
    out (.vmov t d a g) 2 x ∧
    out (.vbcast t d q g) 2 (fun _ => (u.rs q).toNat % 2 ^ w) ∧
    out (.viota t d q g) 2 (fun i => ((u.rs q).toNat + i) % 2 ^ w) ∧
    out (.vperm t d a b c g) 4 (fun i =>
      x ((if t.bytes = 1 then (if i < 256 then lane 2 (u.rv b) i else lane 2 (u.rv c) (i - 256)) else y i) % n)) ∧
    out (.vshuf t .ziplo d a b g) 4 (fun i => if i % 2 = 0 then x (i / 2) else y (i / 2)) ∧
    out (.vshuf t .ziphi d a b g) 4 (fun i => if i % 2 = 0 then x (n / 2 + i / 2) else y (n / 2 + i / 2)) ∧
    out (.vshuf t .unzeven d a b g) 4 (fun i => if i < n / 2 then x (2 * i) else y (2 * i - n)) ∧
    out (.vshuf t .unzodd d a b g) 4 (fun i => if i < n / 2 then x (2 * i + 1) else y (2 * i - n + 1)) ∧
    (∀ v, out (.vrot t d a v g) 4 (fun i => x ((i + idx v) % n))) ∧
    (∀ v m, s.passes (.vextr t m q a v) = some u → yields (.vextr t m q a v) s u
      (.s q (if floatTy t || m then BitVec.ofNat 64 (x (idx v)) else BitVec.ofInt 64 (laneInt t.bytes false (x (idx v))))) 2 0) ∧
    ∀ v, s.passes (.vinsr t d q v) = some u → yields (.vinsr t d q v) s u
      (.v d (pack t.bytes ((List.range n).map fun k =>
        if k = idx v then (u.rs q).toNat else lane t.bytes (u.rv d) k))) 2 0

/-- Vector predicates (R206, R208, R209): VCMP writes a condition to every bit of an active lane; VPAND, VPOR and VPNOT
act on all 512 bits; VANY, VALL and VPCNT look at the active lanes alone, and with none give false, true and 0. That N changes
nothing on float types is the model's reading (assumption log 15). -/
def Obligations.VectorPredicateResults : Prop :=
  ∀ (s u : State) (t : VTy),
    (∀ (c : FCond) (n : Bool) (d : VpReg) (a b : VReg) (g : Guard), s.passes (.vcmp c t n d a b g) = some u →
      yields (.vcmp c t n d a b g) s u (.vp d (guardPred t.bytes (u.rvp g.g) g.z (u.rvp d) fun i =>
        let x := lane t.bytes (u.rv a) i
        let y := lane t.bytes (u.rv b) i
        if floatTy t then fcond c (unpack (vfmt t) x) (unpack (vfmt t) y)
        else vicond c (laneInt t.bytes n x) (laneInt t.bytes n y))) 2 0) ∧
    (∀ (d a b : VpReg) (nb na : Bool),
      let x := if na then ~~~(s.rvp a) else s.rvp a
      let y := if nb then ~~~(s.rvp b) else s.rvp b
      yields (.vpand d a b nb na) s s (.vp d (x &&& y)) 2 0 ∧ yields (.vpor d a b nb na) s s (.vp d (x ||| y)) 2 0 ∧
      yields (.vpnot d a) s s (.vp d (~~~(s.rvp a))) 2 0) ∧
    ∀ (p : PReg) (q : SReg) (a g : VpReg),
      let on := (List.range (512 / t.bytes)).filter fun i => (s.rvp g).getLsbD (i * t.bytes)
      yields (.vany t p a g) s s (.p p (on.any fun i => (s.rvp a).getLsbD (i * t.bytes))) 2 0 ∧
      yields (.vall t p a g) s s (.p p (on.all fun i => (s.rvp a).getLsbD (i * t.bytes))) 2 0 ∧
      yields (.vpcnt t q a g) s s (.s q (BitVec.ofNat 64 (on.countP fun i => (s.rvp a).getLsbD (i * t.bytes)))) 2 0

/-- Conversions (R82, R86, R210, R211): a destination lane that pairs with a source lane gets the converted value where
it is active, and every other lane is merged or zeroed as the guard has it, or kept where no source lane pairs with it. That N
changes nothing on float types (assumption log 15), that VQNT saturates the sum of the rounded quotient and the zero point alone
(assumption logs 22 and 79), and that a VDQNT difference of zero is +0 (assumption log 83), are the model's readings. -/
def Obligations.VectorConversionResults : Prop :=
  ∀ (s u : State) (dst src : VTy) (part : Fin 8) (d a b c : VReg) (g : Guard),
    let old (j : Nat) : Nat := lane dst.bytes (u.rv d) j
    let x (i : Nat) : Nat := lane src.bytes (u.rv a) i
    let out (i : Instr) (f : Nat → Nat → Nat × FFlags) : Prop :=
      s.passes i = some u →
        let r := (List.range (512 / dst.bytes)).map fun j =>
          match srcLane dst src part.val j with
          | none => (old j, (0 : FFlags))
          | some k => if laneOn dst.bytes (u.rvp g.g) j then f k j else (if g.z then 0 else old j, 0)
        yields i s u (.v d (pack dst.bytes (r.map (·.1)))) 4 (joinFlags (r.map (·.2)))
    (∀ (n sat : Bool) (m : RMode), out (.vcvt dst src n sat m part d a g) fun k _ => vcvtLane dst src n sat m (x k)) ∧
    out (.vqnt dst src part d a b c g) (fun k j =>
      quant (vfmt src) (8 * dst.bytes) (x k) (lane src.bytes (u.rv b) k) (laneInt dst.bytes false (lane dst.bytes (u.rv c) j))) ∧
    out (.vdqnt dst src part d a b c g) fun k j =>
      dequant (vfmt dst) (vfmt dst) (lane dst.bytes (u.rv b) j)
        (intVal (laneInt src.bytes false (x k) - laneInt src.bytes false (lane src.bytes (u.rv c) k)))

/-- Reductions, scans, selection and accumulator transfers (R91, R92, R215 to R218) complete wherever their checks pass, in a
next state that is given whole: a reduction's result in the low bytes of v[D] over zeros, a scan's running sum in every lane,
each rounded as R92 has it, VTOPK's lanes and indices in two registers, a row pair of a tile in active lanes, and active lanes
in a row pair of a tile. -/
def Obligations.VectorReductionResults : Prop :=
  ∀ (s u : State) (t : VTy) (n : Bool) (d a b c : VReg) (g : VpReg),
    let x (i : Nat) : Nat := lane t.bytes (u.rv a) i
    let y (i : Nat) : Nat := lane t.bytes (u.rv b) i
    let low (j : Instr) (L : Nat) (v : Nat) (fl : FFlags) : Prop :=
      s.passes j = some u → yields j s u (.v d (BitVec.ofNat 4096 v)) L fl
    let tree (leaf : Nat → Nat × FFlags) : Nat × FFlags := treeOver u t g leaf
    let sum (leaf : Nat → Int) : Nat := intOver u t g leaf
    let wide (i : Nat) : Nat × FFlags := ((cvtFF (vfmt t) (treeFmt t) .rne (x i)).1, 0)
    let prod (i : Nat) : Nat × FFlags :=
      finish (treeFmt t) .rne (mulV (unpack (vfmt t) (x i)) (unpack (vfmt t) (y i)))
    (floatTy t → low (.vrsum t n d a g) 10 (tree wide).1 (tree wide).2) ∧
    (floatTy t = false → low (.vrsum t n d a g) 10 (sum fun i => laneInt t.bytes n (x i)) 0) ∧
    (floatTy t → low (.vdot t n d a b g) 10 (tree prod).1 (tree prod).2) ∧
    (floatTy t = false → low (.vdot t n d a b g) 10 (sum fun i => laneInt t.bytes n (x i) * laneInt t.bytes n (y i)) 0) ∧
    low (.vrmax t n d a g) 10 (extreme u t n true a g) 0 ∧ low (.vrmin t n d a g) 10 (extreme u t n false a g) 0 ∧
    low (.vargmax t n d a g) 10 (((candLanes u t a g).find? fun i => x i = extreme u t n true a g).getD 0xFFFFFFFF) 0 ∧
    (s.passes (.vscan t d a g) = some u →
      let on (i : Nat) : Bool := laneOn t.bytes (u.rvp g) i
      let leaf (i : Nat) : Nat := if on i then (wide i).1 else (treeFmt t).sign true
      let run (i : Nat) : Nat × FFlags := (List.range i).foldl (fun r j =>
        let q := faddBits (treeFmt t) r.1 (leaf (j + 1)); (q.1, r.2 ||| q.2)) (leaf 0, 0)
      let out (i : Nat) : Nat × FFlags :=
        if t.bytes = 2 then cvtFF (treeFmt t) (vfmt t) .rne (run i).1 else ((run i).1, 0)
      (floatTy t → yields (.vscan t d a g) s u (.v d (pack t.bytes ((List.range (512 / t.bytes)).map fun i => (out i).1))) 12
        ((run (512 / t.bytes - 1)).2 ||| joinFlags ((List.range (512 / t.bytes)).map fun i => (out i).2))) ∧
      (floatTy t = false → yields (.vscan t d a g) s u (.v d (pack t.bytes ((List.range (512 / t.bytes)).map fun i =>
        (List.range (i + 1)).foldl (fun m j => m + if on j then x j else 0) 0))) 12 0)) ∧
    (∀ k, s.passes (.vtopk t n k d c a g) = some u → ∃ v, exec (.vtopk t n k d c a g) s = .next v ∧
      ∃ m, inFlight u m (.v d (pack t.bytes ((topGo t n x k.toNat (candLanes u t a g)).map x ++
          List.replicate (k.toNat - (topGo t n x k.toNat (candLanes u t a g)).length)
            (if floatTy t then (vfmt t).nan else rangeEnd t n false)))) 16 0 ∧
        inFlight m v (.v c (pack 4 (topGo t n x k.toNat (candLanes u t a g) ++
          List.replicate (k.toNat - (topGo t n x k.toNat (candLanes u t a g)).length) 0xFFFFFFFF))) 16 0) ∧
    (∀ (e : AccReg) (rp : BitVec 5) (z : Bool), s.passes (.vfromacc t d e rp ⟨g, z⟩) = some u →
      yields (.vfromacc t d e rp ⟨g, z⟩) s u
        (.v d (lanesOf u t d ⟨g, z⟩ fun i => (lane t.bytes (bits (u.racc e) (rp.toNat * 4096) 4096) i, 0)).1) 6 0) ∧
    ∀ (e : AccReg) (rp : BitVec 5) (z : Bool), s.passes (.vtoacc t e a rp ⟨g, z⟩) = some u →
      let m := bitMaskOf (byteMask t.bytes (u.rvp g))
      yields (.vtoacc t e a rp ⟨g, z⟩) s u (.acc e (((u.rv a &&& m).setWidth 131072) <<< (rp.toNat * 4096))
        (((if z then BitVec.allOnes 4096 else m).setWidth 131072) <<< (rp.toNat * 4096))) 6 0

/-- The guard of a vector result (R198): after the result is packed, lane i of it is the active lane's value, or zero under
zeroing, or the old lane under merging. -/
def Obligations.GuardedLanes : Prop :=
  ∀ (u : State) (t : VTy) (d : VReg) (g : Guard) (f : Nat → Nat × FFlags) (i : Nat), i < 512 / t.bytes →
    lane t.bytes (lanesOf u t d g f).1 i =
      if (u.rvp g.g).getLsbD (i * t.bytes) then (f i).1 % 2 ^ (8 * t.bytes)
      else if g.z then 0 else lane t.bytes (u.rv d) i

/-! ## Memory (R113-R116, R120-R136, R220-R241, R336-R351) -/

/-- Operation i, whose checks leave state u, completes with one more access of the context: its pieces are those of `ws`, and
its landing cycle is `land` non-frozen cycles ahead (R220). Nothing else changes but a freeze that may last longer. -/
def Sys2Proof.Machine.issuesAcc (i : Instr) (s u : State) (op : AccOp) (ws : List Want) (land : Nat) : Prop :=
  ∃ (a : Acc) (n : Nat), exec i s = .next (u.setMe { u.me with accs := u.me.accs ++ [a], frzUntil := n }) ∧ a.op = op ∧
    a.pieces = piecesOf u ws ∧ a.bound = u.myCore.cyc + land ∧ a.squash = u.squash ∧ u.me.frzUntil ≤ n

/-- The store of .wf i, whose checks leave state u, completes (R115): the granules of `ws` that it has not performed while it was held
are one more access of the context, which is performed at once behind what the context has issued before it, where nothing else
holds that up; with none left it has no more to do. -/
def Sys2Proof.Machine.issuesWf (i : Instr) (s u : State) (op : AccOp) (ws : List Want) : Prop :=
  let left := ws.filter fun w => !tst u.me.wfDone (wfBit u.slot w.idx)
  (left = [] → exec i s = .next u) ∧
  (left ≠ [] → ∃ (w : State) (a : Acc) (n : Nat), exec i s = .next ((drainAccs w w.me.accs).getD w) ∧
    w = u.setMe { u.me with accs := u.me.accs ++ [a], frzUntil := n } ∧ a.op = op ∧ a.pieces = piecesOf u left ∧
    a.bound = u.myCore.cyc ∧ a.squash = u.squash ∧ u.me.frzUntil ≤ n)

/-- Scalar loads and stores (R221, R223, R224): each, where its checks pass, puts one access in the context's program order, at
s[A] + sext(DISP), and changes no register and no byte; a store of .wf is also performed where nothing else holds it (R115). -/
def Sys2Proof.Machine.scalarMemoryIssues : Prop :=
  ∀ (s u : State) (sz : MSize) (n : Bool) (d a b : SReg) (disp : BitVec 24) (land : BitVec 10),
    let va := (u.rs a + disp.signExtend 64).toNat
    let rd : List Want := [Want.read va sz.bytes]
    let wr : List Want := [Want.write va sz.bytes]
    (s.passes (.ld sz n d a disp land) = some u →
      issuesAcc (.ld sz n d a disp land) s u (.load n none d) rd land.toNat) ∧
    (s.passes (.st sz b a disp) = some u → issuesAcc (.st sz b a disp) s u (.store none (u.rs b)) wr 0) ∧
    (∀ q, s.passes (.ldfe q sz n d a disp land) = some u →
      issuesAcc (.ldfe q sz n d a disp land) s u (.load n (some q) d) rd land.toNat) ∧
    (∀ q, q ≠ .wf → s.passes (.stfe q sz b a disp) = some u →
      issuesAcc (.stfe q sz b a disp) s u (.store (some q) (u.rs b)) wr 0) ∧
    (s.passes (.stfe .wf sz b a disp) = some u → issuesWf (.stfe .wf sz b a disp) s u (.store (some .wf) (u.rs b)) wr)

/-- LDG (R225): the value is fixed when the bundle issues, and is the granule's version as the generation holds it, with the poison that
this version carries (R353, R456); it arrives as a load's does. -/
def Sys2Proof.Machine.generationLoadResult : Prop :=
  ∀ (s u : State) (sz : MSize) (n : Bool) (d a b : SReg) (disp : BitVec 24) (land : BitVec 10) (pa : Nat),
    let i := Instr.ldg sz n d a b disp land
    let va := (u.rs a + disp.signExtend 64).toNat
    let g := (u.rs b).toNat % 64
    let x := leNat ((List.range sz.bytes).map fun j => genByte u g (pa + j))
    s.passes i = some u → resolve u va sz.bytes true false = .ok (.dev pa) →
    ∃ bad, issuesAcc i s u (.ldg d (if n then BitVec.ofNat 64 x else BitVec.ofInt 64 (sintOf (8 * sz.bytes) x)) bad g)
        [Want.read va sz.bytes] land.toNat ∧
      (genPoison u g pa = none → bad = 0) ∧ ∀ c e, genPoison u g pa = some (c, e) → bad = c * 65536 + e

/-- Scalar loads and stores, plain, qualified and of a generation, issue where their checks pass (R220 to R225). -/
def Obligations.ScalarLoadsAndStoresIssue : Prop := scalarMemoryIssues ∧ generationLoadResult

/-- Atomics and RED (R234 to R236) issue as one access of SIZE bytes at s[A] + sext(DISP), of operand s[B] and, for ACAS, new
value s[D]; one that names s0, and RED, returns nothing. In a staged task none passes its checks (R36, R238). -/
def Sys2Proof.Machine.atomicsIssue : Prop :=
  ∀ (s u : State) (d a b : SReg) (o : AtomOp),
    let ws : List Want := [Want.atomic (u.rs a + o.disp.signExtend 64).toNat o.size.bytes]
    let out (i : Instr) (k : AtomKind) (n : W64) : Prop :=
      (s.checked = false → s.staged = true → s.passes i = none) ∧ (s.passes i = some u →
        issuesAcc i s u (.atomic k o.ord o.scope (u.rs b) n (if d = 0 then none else some d) false) ws o.land.toNat)
    out (.aadd d a b o) .add 0 ∧ out (.amin d a b o) .min 0 ∧ out (.amax d a b o) .max 0 ∧ out (.aminn d a b o) .minn 0 ∧
    out (.amaxn d a b o) .maxn 0 ∧ out (.aand d a b o) .and 0 ∧ out (.aor d a b o) .or 0 ∧ out (.axor d a b o) .xor 0 ∧
    out (.axchg d a b o) .xchg 0 ∧ out (.acas d a b o) .cas (u.rs d) ∧ out (.afadd d a b o) .fadd 0 ∧
    ∀ op, (s.checked = false → s.staged = true → s.passes (.red op a b o) = none) ∧ (s.passes (.red op a b o) = some u →
      issuesAcc (.red op a b o) s u (.atomic (redKind op) o.ord o.scope (u.rs b) 0 none true) ws 0)

/-- Barrier operations, FENCE and PREF (R232, R233, R238, R240): the barrier operations are atomics of 16 bytes, WAITB and its .try form
reads; FENCE makes the next bundle wait for it, and in a staged task none of these passes its checks; PREF changes no register and no byte, and where the leased cache is named, a held
translation leads to device memory, nothing there fails or holds it, and no block of its line is poisoned, it brings the line into the
grove's leased cache, where that has room for one. -/
def Sys2Proof.Machine.barriersAndFenceIssue : Prop :=
  ∀ (s u : State) (sc : Scope) (d a b : SReg) (disp : BitVec 22) (land : BitVec 10),
    let va := (u.rs a + disp.signExtend 64).toNat
    (s.checked = false → s.staged = true → ∀ i, i ∈ [Instr.arrive sc d a disp land, .waitb sc d a b disp land,
      .waitbTry sc d a b disp land, .binit sc a b disp, .fence sc] → s.passes i = none) ∧
    (s.passes (.arrive sc d a disp land) = some u →
      issuesAcc (.arrive sc d a disp land) s u (.arrive sc d) [Want.atomic va 16] land.toNat) ∧
    (s.passes (.waitb sc d a b disp land) = some u →
      issuesAcc (.waitb sc d a b disp land) s u (.waitb sc (bits (u.rs b) 0 32) d) [Want.read va 16] land.toNat) ∧
    (s.passes (.waitbTry sc d a b disp land) = some u →
      issuesAcc (.waitbTry sc d a b disp land) s u (.waitbTry sc (bits (u.rs b) 0 32) d) [Want.read va 16] land.toNat) ∧
    (s.passes (.binit sc a b disp) = some u →
      issuesAcc (.binit sc a b disp) s u (.binit sc (BitVec.ofNat 32 ((u.rs b).toNat / 2 ^ 32 % 2 ^ 17)) (bits (u.rs b) 0 32))
        [Want.atomic va 16] 0) ∧
    (s.passes (.fence sc) = some u →
      exec (.fence sc) s = .next (u.setMe { u.me with fence := some (u.nextOrd, sc = .domain ∨ sc = .system) })) ∧
    ∀ (l2 : Bool) (x : BitVec 24), ∃ t, exec (.pref l2 a x) s = .next t ∧
      t = { s with groves := t.groves, lines := t.lines, linkUse := t.linkUse } ∧ (l2 = true → t = s) ∧
      ∀ pa, let p : Place := .dev pa
        let va := (s.rs a + x.signExtend 64).toNat
        resolve s va 1 true false = .ok p → l2 = false → prefFails s va = false → p.hole 1 = false → drainBlocks s s.g p = false →
        placeWaits s p = false → poisonOf s (.dev (128 * (pa / 128))) = none → poisonOf s (.dev (128 * (pa / 128) + 64)) = none →
        0 < s.myGrove.leaseCap →
        ∃ e, e ∈ (t.groveAt s.g).leased ∧ e.line = pa / 128 ∧ e.data = ofLe 1024 (s.mem.readN (128 * (pa / 128)) 128)

/-- Atomics, RED, barrier operations, FENCE and PREF issue where their checks pass (R232 to R241). -/
def Obligations.AtomicsAndBarriersIssue : Prop := atomicsIssue ∧ barriersAndFenceIssue

/-- The pieces of a vector access: the 16-byte granules of the register with a byte of an active lane, granule j at
ea + j × stride (R227, R228). -/
def Sys2Proof.Machine.granulePieces (u : State) (w : Nat) (k : MaskW) (ea st : Nat) (rd : Bool) (ps : List Piece) : Prop :=
  ∀ p : Piece, p ∈ ps ↔ p.idx < 32 ∧ (∃ b, b < 16 ∧ laneOn w k ((16 * p.idx + b) / w)) ∧
    p.va = (ea + p.idx * st) % 2 ^ 64 ∧ p.len = 16 ∧ resolve u p.va 16 rd (!rd) = .ok p.pl

/-- Vector loads and stores (R226 to R231): each completes wherever its checks pass. It puts one access in program order with a piece
for every granule that holds a byte of an active lane, or for every active lane of VLDX; a load without an active lane lands its
register formed from inactive lanes alone, within its LAND, and a store without one does nothing (R228); a store of .wf is also
performed where nothing else holds it (R115). -/
def Obligations.VectorMemoryIssues : Prop :=
  ∀ (s u : State) (t : VTy) (d a b : VReg) (m : VMem) (g : Guard) (q : VpReg) (c : Fin 32) (k : Fin 4),
    let ea := (u.rs m.base + m.disp.signExtend 64 * 16).toNat
    let stride := (u.rs (c.castLE (by decide))).toNat
    let base : VecW := if g.z then 0 else u.rv d
    let mask (r : VpReg) : MaskW := byteMask t.bytes (u.rvp r)
    let none? (r : VpReg) : Prop := ∀ i, i < 512 / t.bytes → laneOn t.bytes (u.rvp r) i = false
    let loads (i : Instr) (fe : Option FeLoad) (pieces : List Piece → Prop) : Prop := s.passes i = some u →
      (none? g.g → m.land ≠ 0 → yields i s u (.v d base) m.land.toNat 0) ∧
      (¬ none? g.g → ∃ ws, issuesAcc i s u (.vload fe d base (mask g.g) 0) ws m.land.toNat ∧ pieces (piecesOf u ws))
    let stores (i : Instr) (fe : Option FeStore) (pieces : List Piece → Prop) : Prop := s.passes i = some u →
      (none? q → exec i s = .next u) ∧
      (¬ none? q → ∃ ws, issuesAcc i s u (.vstore fe (u.rv a) (mask q)) ws 0 ∧ pieces (piecesOf u ws))
    let rows (r : VpReg) (ea st : Nat) (rd : Bool) : List Piece → Prop := granulePieces u t.bytes (u.rvp r) ea st rd
    loads (.vld t d m g) none (rows g.g ea 16 true) ∧
    stores (.vst t a m q) none (rows q ea 16 false) ∧
    (∀ fe, loads (.vldfe fe t d m g) (some fe) (rows g.g ea 16 true)) ∧
    (∀ fe, fe ≠ .wf → stores (.vstfe fe t a m q) (some fe) (rows q ea 16 false)) ∧
    (s.passes (.vstfe .wf t a m q) = some u → ∃ ws, rows q ea 16 false (piecesOf u ws) ∧
      issuesWf (.vstfe .wf t a m q) s u (.vstore (some .wf) (u.rv a) (mask q)) ws) ∧
    loads (.vldw t d k m g) (some .w) (rows g.g (vldwBase u k m) 16 true) ∧
    loads (.vlds t d c m g) none (rows g.g ea stride true) ∧
    stores (.vsts t a c m q) none (rows q ea stride false) ∧
    loads (.vldx t d b m g) none fun ps => ∀ p : Piece, p ∈ ps ↔
      p.idx < 512 / t.bytes ∧ laneOn t.bytes (u.rvp g.g) p.idx ∧ p.va = (ea + vldxIdx t (u.rv b) p.idx * t.bytes) % 2 ^ 64 ∧
      p.len = t.bytes ∧ resolve u p.va t.bytes true false = .ok p.pl

/-- A write performed at its home slice (R122, R337, R350): the bytes given are in memory, every other byte reads as before, and
memory keeps its canonical form; the version it replaces is kept where a generation holds it, taken before the write; the
line and its granule take the write's timestamp; and no register of a core or a context changes. That a kept version keeps its poison is
the model's choice (assumption log 108). -/
def Obligations.WriteAtHome : Prop :=
  ∀ (s : State) (pa : Nat) (bs : List (Option Byte)) (depth ts : Nat),
    let t := writeHome s pa bs depth ts
    (∀ i (h : i < bs.length), t.mem.read (pa + i) = (bs[i]'h).getD (s.mem.read (pa + i))) ∧
    sameBytes s t (fun a => a < pa ∨ pa + bs.length ≤ a) ∧
    (s.memWf → t.memWf) ∧
    t.copies = (if needsCopy s (granuleOf pa) then
      s.copies ++ [⟨granuleOf pa, versionTs s (granuleOf pa), ts, granuleData s (granuleOf pa), granuleBad s (granuleOf pa)⟩] else s.copies) ∧
    lineTs t pa = (ts, ts) ∧ versionTs t (granuleOf pa) = ts ∧ t.cores = s.cores ∧ t.ctxs = s.ctxs

/-- The context that an event names has the access `a`, all of one piece `p`, as the one that it may perform, and nothing holds
the piece back (R108, R121, R136, R351). -/
def Sys2Proof.Machine.mayPerform (s : State) (n : Nat) (a : Acc) (p : Piece) : Prop :=
  eligible s.atEv n = some a ∧ a.pieces = [p] ∧ p.idx = s.ev.c ∧ pieceWaits s.atEv a p = false

/-- The context that an event names has the access `a`, of which the event names piece `p`, as the one that it may perform, and nothing
holds the piece back (R108, R120, R121, R136, R351). -/
def Sys2Proof.Machine.mayPerformPart (s : State) (n : Nat) (a : Acc) (p : Piece) : Prop :=
  eligible s.atEv n = some a ∧ a.pieces.find? (fun q => q.idx = s.ev.c) = some p ∧ p.idx = s.ev.c ∧ pieceWaits s.atEv a p = false

/-- In state t a result of access `a` is in flight, to land after the present cycle and no later than its landing cycle (R220). -/
def Sys2Proof.Machine.arrives (s t : State) (a : Acc) (wr : Wr) : Prop :=
  ∃ l, l ∈ (t.ctxAt s.ev.a s.ev.b).inflight ∧ l.wr = wr ∧ s.atEv.myCore.cyc < l.land ∧ l.land ≤ a.bound

/-- The context of the event has nothing left of access `a`. -/
def Sys2Proof.Machine.accGone (s t : State) (a : Acc) : Prop :=
  ∀ e, e ∈ (t.ctxAt s.ev.a s.ev.b).accs → ¬ (e.ord = a.ord ∧ e.slot = a.slot)

/-- A scalar load's data arrives (R114, R124, R220, R223): a load of device memory or scratchpad whose turn it is in the memory order,
before its landing cycle, is read at its address from the bytes that its task sees, or where a line of its grove's leased cache
serves it from that line, and its extended value is in flight to land after the present cycle and no later than its landing
cycle; a qualified load's granule is left empty, or full for .w; no byte of memory changes. A qualified load of an empty granule waits
(R114). An LDG's value arrives likewise, or its task is to take the class of its version's poison (R225, R456). Which loads a leased line
serves is the model's free value (assumption log 19). -/
def Sys2Proof.Machine.scalarDataArrives : Prop :=
  ∀ (s : State) (a : Acc) (p : Piece) (z : Bool) (fe : Option FeLoad) (d : SReg),
    let u := s.atEv
    s.ev.d < 65536 → mayPerform s s.ev.d a p →
    let lands (bs : List Byte) : Prop := ∃ t, exec .loadDataArrive s = .next t ∧ sameBytes s t (fun _ => True) ∧
      arrives s t a (.s d (extend z p.len (leNat bs)))
    (a.op = .load z fe d → (∃ pa, p.pl = .dev pa) → fe = none → u.myCore.cyc < a.bound →
      (leaseHit u p.pl = none → taskPoison u p.pl p.len = none → lands (readTask u p.pl p.len)) ∧
      ∀ e, leaseHit u p.pl = some e → lands (leasedBytes u e p.pl p.len)) ∧
    (a.op = .load z fe d → (∃ g o, p.pl = .spad g o) → poisonOf u p.pl = none → (fe = none ∨ isFull u p.pl) →
      ∃ t, exec .loadDataArrive s = .next t ∧ sameBytes s t (fun _ => True) ∧
        (u.myCore.cyc < a.bound → arrives s t a (.s d (extend z p.len (leNat (readPlace u p.pl p.len))))) ∧
        ∀ q, fe = some q → u.discards = false → isFull t p.pl = decide (q = .w)) ∧
    (a.op = .load z fe d → (∃ g o, p.pl = .spad g o) → fe.isSome → isFull u p.pl = false → exec .loadDataArrive s = .next s) ∧
    ∀ (x : W64) (bad g : Nat), a.op = .ldg d x bad g →
      let fails (c e : Nat) : Prop := ∃ t, exec .loadDataArrive s = .next t ∧
        { a with op := .failed c e, pieces := [] } ∈ (t.ctxAt s.ev.a s.ev.b).accs
      (bad = 0 → genPoison u g p.pl.addr = none → u.myCore.cyc < a.bound →
        ∃ t, exec .loadDataArrive s = .next t ∧ sameBytes s t (fun _ => True) ∧ arrives s t a (.s d x)) ∧
      (bad ≠ 0 → fails (bad / 65536) (bad % 65536)) ∧ ∀ c e, bad = 0 → genPoison u g p.pl.addr = some (c, e) → fails c e

/-- A granule or lane of a vector load arrives (R114, R198, R220, R226 to R231): its bytes join those that have arrived, at their place in
the register; with the last of them the register is in flight, whose bytes are those that have arrived where the guard is active, and
the base's elsewhere. A granule of scratchpad is left empty, or full for .w. -/
def Sys2Proof.Machine.vectorDataArrives : Prop :=
  ∀ (s : State) (a : Acc) (p : Piece) (fe : Option FeLoad) (d : VReg) (base got : VecW) (m : MaskW),
    let u := s.atEv
    let bs := readTask u p.pl p.len
    s.ev.d < 65536 → mayPerformPart s s.ev.d a p → a.op = .vload fe d base m got → leaseHit u p.pl = none →
    taskPoison u p.pl p.len = none → (fe = none ∨ isFull u p.pl) → p.idx * p.len + p.len ≤ 512 →
    ∃ (t : State) (now : VecW), exec .loadDataArrive s = .next t ∧ sameBytes s t (fun _ => True) ∧
      (∀ j, j < 512 → byteOf now j =
        if p.idx * p.len ≤ j ∧ j < p.idx * p.len + p.len then bs.getD (j - p.idx * p.len) 0 else byteOf got j) ∧
      ((a.pieces.filter fun q => q.idx ≠ p.idx) ≠ [] →
        { a with op := .vload fe d base m now, pieces := a.pieces.filter fun q => q.idx ≠ p.idx } ∈
          (t.ctxAt s.ev.a s.ev.b).accs) ∧
      ((a.pieces.filter fun q => q.idx ≠ p.idx) = [] → lostPart u a = false → u.myCore.cyc < a.bound →
        ∃ x : VecW, arrives s t a (.v d x) ∧ ∀ j, j < 512 → byteOf x j = if m.getLsbD j then byteOf now j else byteOf base j) ∧
      ((∃ g o, p.pl = .spad g o) → u.discards = false → ∀ q, fe = some q → isFull t p.pl = decide (q = .w))

/-- The data of loads arrives: scalar, of a generation, and vector, granule by granule (R114, R124, R198, R220 to R231). -/
def Obligations.LoadDataArrives : Prop := scalarDataArrives ∧ vectorDataArrives

/-- A scalar store is performed at its home (R113, R114, R122): the `len` bytes at its address, in device memory, scratchpad, host memory
or another package's memory, take the low bytes of the stored register, low byte first, and every other byte of device memory is
unchanged; a qualified store leaves its granule full, or empty for .e, and one of .wf waits while it is full. A store of a staged task
changes no byte of device memory: its bytes are held as tentative (R36, R139). -/
def Sys2Proof.Machine.storePerforms : Prop :=
  ∀ (s : State) (a : Acc) (p : Piece) (fe : Option FeStore) (x : W64),
    let u := s.atEv
    s.ev.d < 65536 → mayPerform s s.ev.d a p → a.op = .store fe x → (∀ q o, p.pl ≠ .bell q o) → pieceCopies u a p = false →
    (fe = some .wf → isFull u p.pl = true → exec .storePerform s = .next s) ∧
    ((fe = some .wf → isFull u p.pl = false) → u.discards = false →
      ∃ t, exec .storePerform s = .next t ∧ accGone s t a ∧
        (u.tentative p.pl = false → readPlace t p.pl p.len = leBytes p.len x.toNat) ∧
        sameBytes s t (fun b => ∀ pa, p.pl = .dev pa → u.staged = false → b < pa ∨ pa + p.len ≤ b) ∧
        (∀ pa, p.pl = .dev pa → u.staged = true → ∀ k, u.me.task = some k → ∀ i, i < p.len →
          ∃ m, t.task? k = some m ∧ Map.get? m.tent (pa + i) = some (BitVec.ofNat 8 (x.toNat / 256 ^ i))) ∧
        ∀ g o, p.pl = .spad g o → o < 8388608 → ∀ q, fe = some q → isFull t p.pl = decide (q ≠ .e))

/-- A granule of a vector store is performed at its home (R113, R114, R198, R228): the bytes of active lanes take those of the register,
the others keep theirs; a qualified store leaves its granule full, or empty for .e, and one of .wf waits while it is full. The granules
not performed yet stay to be performed. -/
def Sys2Proof.Machine.vectorStorePerforms : Prop :=
  ∀ (s : State) (a : Acc) (p : Piece) (fe : Option FeStore) (x : VecW) (m : MaskW),
    let u := s.atEv
    s.ev.d < 65536 → mayPerformPart s s.ev.d a p → a.op = .vstore fe x m → (∀ q o, p.pl ≠ .bell q o) → pieceCopies u a p = false →
    (fe = some .wf → isFull u p.pl = true → exec .storePerform s = .next s) ∧
    ((fe = some .wf → isFull u p.pl = false) → u.discards = false → u.tentative p.pl = false →
      ∃ t, exec .storePerform s = .next t ∧
        (∀ i, i < p.len → (readPlace t p.pl p.len).getD i 0 =
          if m.getLsbD (p.idx * p.len + i) then byteOf x (p.idx * p.len + i) else (readPlace u p.pl p.len).getD i 0) ∧
        sameBytes s t (fun b => ∀ pa, p.pl = .dev pa → b < pa ∨ pa + p.len ≤ b) ∧
        (∀ g o, p.pl = .spad g o → o < 8388608 → ∀ q, fe = some q → isFull t p.pl = decide (q ≠ .e)) ∧
        ((a.pieces.filter fun q => q.idx ≠ p.idx) = [] → accGone s t a) ∧
        ((a.pieces.filter fun q => q.idx ≠ p.idx) ≠ [] →
          { a with pieces := a.pieces.filter fun q => q.idx ≠ p.idx } ∈ (t.ctxAt s.ev.a s.ev.b).accs))

/-- An atomic or a RED is performed at its home, in device memory, scratchpad, host memory or another package's memory (R128, R235, R236):
its bytes take the new value, where there is one, every other byte of device memory is unchanged, and the old value, zero-extended, is
in flight to the destination, where it has one. A staged task has none to perform: R238 stops it before its bundle issues. One that returns nothing and lies in a reduction window writes nothing yet: the switches hold its contribution (R132). -/
def Sys2Proof.Machine.atomicPerforms : Prop :=
  ∀ (s : State) (a : Acc) (p : Piece) (k : AtomKind) (o : Ordering4) (sc : Scope) (y n : W64) (d : Option SReg) (r : Bool),
    let u := s.atEv
    let old := leNat (readTask u p.pl p.len)
    let new := rmw k p.len old y.toNat n.toNat
    s.ev.d < 65536 → mayPerform s s.ev.d a p → a.op = .atomic k o sc y n d r → (∀ q b, p.pl ≠ .bell q b) →
    pieceCopies u a p = false → poisonOf u p.pl = none → (relOrd o = true → releaseReady u a.ord sc = true) →
    (d = none → redWindow u p.pl = none) → u.discards = false → u.staged = false →
    ∃ t, exec .atomicPerform s = .next t ∧ accGone s t a ∧
      readPlace t p.pl p.len = (match new with | some v => leBytes p.len v | none => readPlace u p.pl p.len) ∧
      sameBytes s t (fun b => ∀ pa, p.pl = .dev pa → b < pa ∨ pa + p.len ≤ b) ∧
      ∀ q, d = some q → u.myCore.cyc < a.bound → arrives s t a (.s q (BitVec.ofNat 64 old))

/-- An atomic that returns nothing, or a RED, in a reduction window: its contribution joins those that the window's switches hold, and no
byte changes (R132, R236, R436). -/
def Sys2Proof.Machine.contributionsAreHeld : Prop :=
  ∀ (s : State) (a : Acc) (p : Piece) (k : AtomKind) (o : Ordering4) (sc : Scope) (y n : W64) (r : Bool) (w : Nat) (win : RedWin),
    let u := s.atEv
    s.ev.d < 65536 → mayPerform s s.ev.d a p → a.op = .atomic k o sc y n none r → redWindow u p.pl = some w →
    Map.get? s.redWins w = some win → pieceCopies u a p = false → poisonOf u p.pl = none →
    (relOrd o = true → releaseReady u a.ord sc = true) →
    ∃ t c, exec .atomicPerform s = .next t ∧ sameBytes s t (fun _ => True) ∧ accGone s t a ∧
      Map.get? t.redWins w = some { win with held := win.held ++ [c] } ∧
      c.op = k ∧ c.len = p.len ∧ c.pa = p.pl.addr ∧ c.x = y.toNat ∧ c.c = ctxKey s.ev.a s.ev.b

/-- The operations on a barrier object are performed at its home (R142, R239, R240), of an object with P, ARR and N at a place that no
staged task writes. ARRIVE counts one arrival, and the N-th completes the phase: P rises and ARR is zero; it returns the P that it found.
WAITB goes on once P lies 1 to 2^31 - 1 after its token, and returns P; before that it waits. WAITB.try answers at once whether it
would. BINIT writes the four fields. -/
def Sys2Proof.Machine.barriersPerform : Prop :=
  ∀ (s : State) (a : Acc) (p : Piece) (sc : Scope) (d : SReg) (q n : W32),
    let u := s.atEv
    let bs := readTask u p.pl 16
    let P := leNat (bs.take 4)
    let A := (leNat ((bs.drop 4).take 4) + 1) % 2 ^ 32
    let N := leNat ((bs.drop 8).take 4)
    let ahead := (P + 2 ^ 32 - q.toNat) % 2 ^ 32
    let ended : Prop := 1 ≤ ahead ∧ ahead < 2 ^ 31
    s.ev.d < 65536 → mayPerform s s.ev.d a p → p.len = 16 → (∀ q b, p.pl ≠ .bell q b) → pieceCopies u a p = false →
    u.discards = false → u.tentative p.pl = false →
    (a.op = .arrive sc d → poisonOf u p.pl = none → releaseReady u a.ord sc = true →
      ∃ t, exec .atomicPerform s = .next t ∧ accGone s t a ∧
        (readPlace t p.pl 16).take 8 = (if N ≤ A then leBytes 4 (P + 1) ++ leBytes 4 0 else leBytes 4 P ++ leBytes 4 A) ∧
        (readPlace t p.pl 16).drop 8 = (readPlace u p.pl 16).drop 8 ∧
        (u.myCore.cyc < a.bound → arrives s t a (.s d (BitVec.ofNat 64 P)))) ∧
    (a.op = .waitb sc q d → poisonOf u p.pl = none →
      (ended → ∃ t, exec .atomicPerform s = .next t ∧ sameBytes s t (fun _ => True) ∧ accGone s t a ∧
        (u.myCore.cyc < a.bound → arrives s t a (.s d (BitVec.ofNat 64 P)))) ∧
      (¬ ended → exec .atomicPerform s = .next s)) ∧
    (a.op = .waitbTry sc q d → poisonOf u p.pl = none →
      ∃ t v, exec .atomicPerform s = .next t ∧ sameBytes s t (fun _ => True) ∧ accGone s t a ∧
        (ended → v = 1) ∧ (¬ ended → v = 0) ∧ (u.myCore.cyc < a.bound → arrives s t a (.s d v))) ∧
    (a.op = .binit sc n q → ∃ t, exec .storePerform s = .next t ∧ accGone s t a ∧
      readPlace t p.pl 16 = leBytes 4 q.toNat ++ leBytes 4 0 ++ leBytes 4 n.toNat ++ leBytes 4 0)

/-- The read-modify-write of each atomic on n bytes, 1, 2, 4 or 8 (R235, R236): sums and logic at the operand's width, minima and
maxima signed or unsigned, ACAS writing only where the old value is the one expected, and the sum of AFADD and of RED's fadd that of
FADD on f32 or f64. -/
def Sys2Proof.Machine.atomicResults : Prop :=
  ∀ (n : Nat) (o y v : BitVec (8 * n)),
    let r (k : AtomKind) : Option Nat := rmw k n o.toNat y.toNat v.toNat
    r .add = some (o + y).toNat ∧ r .and = some (o &&& y).toNat ∧ r .or = some (o ||| y).toNat ∧
    r .xor = some (o ^^^ y).toNat ∧ r .xchg = some y.toNat ∧
    r .cas = (if o = y then some v.toNat else none) ∧
    (n = 4 → r .fadd = some (faddBits .f32 o.toNat y.toNat).1) ∧ (n = 8 → r .fadd = some (faddBits .f64 o.toNat y.toNat).1) ∧
    r .min = some (if y.toInt < o.toInt then y else o).toNat ∧ r .max = some (if o.toInt < y.toInt then y else o).toNat ∧
    r .minn = some (if y.toNat < o.toNat then y else o).toNat ∧ r .maxn = some (if o.toNat < y.toNat then y else o).toNat

/-- Atomics, RED and barrier operations are performed at their home, with the values their operations form (R128, R132, R142, R235, R236,
R239, R240). -/
def Obligations.AtomicsPerform : Prop := atomicPerforms ∧ contributionsAreHeld ∧ barriersPerform ∧ atomicResults

/-- A write whose granule's version must first be copied (R350, R351): POOL_COPY_DONE and HELD_WRITE_RELEASE perform it, with the
bytes of the version it replaces kept, as they were before the write. -/
def Sys2Proof.Machine.heldWritesPerform : Prop :=
  ∀ (s : State) (i : Instr) (a : Acc) (p : Piece) (x : W64) (pa : Nat),
    let u := s.atEv
    i = .poolCopyDone ∨ i = .heldWriteRelease →
    mayPerform s s.ev.d a p → a.op = .store none x → p.pl = .dev pa → pieceCopies u a p = true → 0 < p.len →
    ∃ t, exec i s = .next t ∧
      (∀ j, j < p.len → t.mem.read (pa + j) = BitVec.ofNat 8 (x.toNat / 256 ^ j)) ∧
      sameBytes s t (fun b => b < pa ∨ pa + p.len ≤ b) ∧
      ∃ c, c ∈ t.copies ∧ c.g = granuleOf pa ∧ c.lo = versionTs s (granuleOf pa) ∧ c.data = granuleData s (granuleOf pa)

/-- A store is performed at its home, scalar or granule by granule, at once or after the version it replaces has been copied (R113, R114,
R122, R139, R228, R350, R351). -/
def Obligations.StoresPerform : Prop := storePerforms ∧ vectorStorePerforms ∧ heldWritesPerform

/-! ## Sequencing, system registers, causes and requests (R41-R44, R58-R65, R160-R162, R190-R196, R282-R316) -/

/-- NOP, VNOP, MNOP and CNOP complete with no effect. -/
def Sys2Proof.Machine.nopsComplete : Prop :=
  ∀ s : State, exec .nop s = .next s ∧ exec .vnop s = .next s ∧ exec .mnop s = .next s ∧ exec .cnop s = .next s

/-- Transfers issue (R160, R161, R190, R192, R193, R196): two delay bundles follow, and after them the captured target where the
condition holds; CALL writes s63 and LOOP decrements its counter at issue; the condition of a gang is that of rank 0, and every
rank decrements its own counter. Nothing else changes. -/
def Sys2Proof.Machine.transfersIssue : Prop :=
  ∀ (s : State) (c : HCond) (t : BReg) (l : LReg),
    let lead : State := if s.me.gang then { s with core := s.core / 8 * 8 } else s
    let cond : Bool := xor (lead.rp c.cp) c.cn
    let go : Bool := cond && lead.rlc l ≠ 0
    let k : Ctx := { s.me with delay := 2 }
    exec (.jt c t) s = .next (s.setMe { k with target := if cond then some (lead.rb t) else none }) ∧
    exec (.call c t) s = .next (s.setMe (if cond then { k with target := some (lead.rb t), s := k.s.set 63 ((returnAddr s).setWidth 64) }
      else { k with target := none })) ∧
    exec (.ret c) s = .next (s.setMe { k with target := if cond then some (bits (lead.rs 63) 0 32) else none }) ∧
    exec (.loop c l t) s = .next (s.setMe (if go then { k with target := some (lead.rb t), lc := k.lc.set l.val (s.rlc l - 1) }
      else { k with target := none }))

/-- A transfer takes effect when its delay bundles have issued (R57, R162, R191): the context goes on at the target, and what was
squash-marked and has not landed is killed; nothing else in flight is. Before, nothing happens. -/
def Sys2Proof.Machine.transfersTakeEffect : Prop :=
  ∀ k : Ctx,
    (∀ t, k.delay = 0 → k.target = some t → (transferNow k).pc = t ∧ (transferNow k).target = none ∧
      (∀ l, l ∈ (transferNow k).inflight ↔ l ∈ k.inflight ∧ l.squash = false) ∧
      (∀ a, a ∈ (transferNow k).accs ↔ a ∈ k.accs ∧ a.squash = false) ∧ (transferNow k).jobs = k.jobs ∧
      (transferNow k).reqs = k.reqs) ∧
    (0 < k.delay ∨ k.target = none → transferNow k = k)

/-- The operations without effect, and transfers: how each issues and how one takes effect (R57, R160 to R162, R190 to R196). -/
def Obligations.NopsAndTransfers : Prop := nopsComplete ∧ transfersIssue ∧ transfersTakeEffect

/-- END and YIELD (R30, R31, R194, R279). END: the context commits, a pending transfer is discarded, no binding stays bound, and
its run is over. YIELD: the run is over; the context is ready again unless its yield-wait job is outstanding, and may be the one
chosen; the cores of a gang all end their run and are not ready. No register of any context and no byte changes, nor at a YIELD any
program counter. -/
def Obligations.RunsEnd : Prop :=
  ∀ s : State,
    let kept (t : State) : Prop := sameBytes s t (fun _ => True) ∧ ∀ c x,
      let k := s.ctxAt c x
      let k' := t.ctxAt c x
      k'.s = k.s ∧ k'.p = k.p ∧ k'.b = k.b ∧ k'.lc = k.lc ∧ k'.v = k.v ∧ k'.vp = k.vp ∧ k'.mp = k.mp ∧ k'.acc = k.acc ∧
        k'.fpflags = k.fpflags
    (∃ t, exec .endTask s = .next t ∧ kept t ∧
      (let k := t.ctxAt s.core s.ctx
       k.st = .committing ∧ k.ready = false ∧ k.delay = 0 ∧ k.target = none ∧ ∀ n : Fin 4, k.fb[n.val].st ≠ .bound) ∧
      (t.coreAt s.core).current ≠ some s.ctx ∧
      ∀ n r, s.me.task = some n → s.task? n = some r → s.me.saving = false →
        ∃ r', t.task? n = some r' ∧ r'.st = .committing ∧ r'.endTime = s.time.toNat) ∧
    (s.me.gang = false → ∃ t, exec .yieldRun s = .next t ∧ kept t ∧ (∀ c x, (t.ctxAt c x).pc = (s.ctxAt c x).pc) ∧
      (s.me.ywJob.isSome → (t.ctxAt s.core s.ctx).ready = false) ∧
      (s.me.ywJob = none → (t.ctxAt s.core s.ctx).ready = true ∨ (t.coreAt s.core).current = some s.ctx)) ∧
    (s.me.gang = true → ∃ t, exec .yieldRun s = .next t ∧ kept t ∧ (∀ c x, (t.ctxAt c x).pc = (s.ctxAt c x).pc) ∧
      ∀ c, groveOf c = s.g → (t.ctxAt c s.ctx).ready = false ∧ (t.coreAt c).current ≠ some s.ctx)

/-- A cause is taken, by a context or by one core of a gang (R39, R62, R63, R65, R191): the run ends on every core of the task, a transfer
due takes effect, and each of its contexts drains; then on each SYS.TADDR holds the program counter at which it has stopped, SYS.TCAUSE
the class, the slot and the code, and SYS.TXFER the transfer pending and its delay bundles; every other register is as the drain left it.
A failed read found by the drain is the cause of a task that would park. -/
def Obligations.TrapsRecord : Prop :=
  ∀ (s : State) (t : Trap) (d : State), t.cls ≠ 14 →
    let x := s.ctx
    let u := s.setMe { s.me with err := some t }
    let cs := mates u s.core x
    (∀ c, c ∈ cs → c ≠ s.core → hasCause (s.ctxAt c x) = false) →
    let v := cs.foldl (fun (v : State) (c : Nat) => endRun (v.setCtx c x (transferNow (v.ctxAt c x))) c x) u
    drainAll v x cs = some d →
    let t' := if t.parks then (cs.findSome? fun c => failedRead (d.ctxAt c x)).getD t else t
    ∃ w : State, raiseTrap s t = trapOutcome w s.core x cs t' ∧ w.mem = d.mem ∧ ∀ c, c ∈ cs →
      let k := d.ctxAt c x
      let k' := w.ctxAt c x
      k'.taddr = k.pc ∧ k'.tcause = BitVec.ofNat 32 (t'.cls * 2 ^ 24 + t'.slot * 2 ^ 16 + t'.code) ∧
        k'.txfer = BitVec.ofNat 64 ((match k.target with | some a => 2 ^ 63 + a.toNat | none => 0) + k.delay * 2 ^ 56) ∧
        k'.err = none ∧ k'.s = k.s ∧ k'.p = k.p ∧ k'.b = k.b ∧ k'.lc = k.lc ∧ k'.v = k.v ∧ k'.vp = k.vp ∧ k'.mp = k.mp ∧
        k'.acc = k.acc ∧ k'.pc = k.pc ∧ k'.target = k.target ∧ k'.delay = k.delay ∧ k'.fpflags = k.fpflags

/-- Task n has taken the cause w and failed, and its token is set (R42). -/
def Sys2Proof.Machine.failedWith (r : State) (n : Nat) (w : W32) : Prop :=
  ∃ m, r.task? n = some m ∧ m.st = .failed ∧ m.token = true ∧ m.cause = w ∧ m.tent = []

/-- What a cause does to its task, on whose cores `cs` it is taken (R39, R41 to R43, R63, R247, R274, R327, R426): a context without a task
parks. A page fault parks the task, every core of a gang with it, on a token of the pager in whose region the page lies, and fails it
where no live pager has it. A suspended job parks it until the job that it waits for, named by the cause, or any job, goes on. An absent
state parks it on its object, for which a move to the grove is accepted where it is not pinned; for want of room for a raise, on the room.
An uncorrectable error or integrity violation returns a staged task with retries left to Ready; every other cause that does not park
fails the task, with its cause and its token. The trap registers keep their values on every core. -/
def Obligations.CausesParkRetryOrFail : Prop :=
  ∀ (s : State) (c x : Nat) (cs : List Nat) (t : Trap), c ∈ cs →
    let r := trapOutcome s c x cs t
    let w : W32 := BitVec.ofNat 32 (t.cls * 2 ^ 24 + t.slot * 2 ^ 16 + t.code)
    let keeps : Prop := ∀ e, e ∈ cs → (r.ctxAt e x).taddr = (s.ctxAt e x).taddr ∧ (r.ctxAt e x).tcause = (s.ctxAt e x).tcause ∧
      (r.ctxAt e x).txfer = (s.ctxAt e x).txfer
    ((s.ctxAt c x).task = none → (r.ctxAt c x).st = .parked ∧ (r.ctxAt c x).ready = false ∧ keeps) ∧
    ∀ n m, x < 9 → (s.ctxAt c x).task = some n → s.task? n = some m →
      let staged := ((s.typeOf m).map (·.staged)).getD false
      let again := (t.cls = 10 ∨ t.cls = 11) ∧ staged = true ∧ m.retries < (s.groveAt (groveOf c)).retry.toNat
      let asid := ctxAsid s c x
      let pager := s.regions.find? fun g => g.asid = asid && g.base ≤ t.va && t.va < g.base + g.len
      let parked : Prop := keeps ∧ (∀ e, e ∈ cs → (r.ctxAt e x).st = .parked ∧ (r.ctxAt e x).ready = false) ∧
        ∃ m', r.task? n = some m' ∧ m'.st = .parked
      (t.cls = 7 → t.code ≠ 3 → t.step ≠ 0 →
        (∀ g, pager = some g → alive s g.inst = true → parked ∧
          ∃ u, u ∈ r.upcalls ∧ u.asid = asid ∧ u.page = t.va / 4096 ∧ .ctx c x ∈ u.waiters ∧ (r.ctxAt c x).wait = .token u.tok) ∧
        ((∀ g, pager = some g → alive s g.inst = false) → keeps ∧ failedWith r n (s.ctxAt c x).tcause)) ∧
      (t.cls = 7 → t.code = 3 → t.step ≠ 0 → parked ∧
        (r.ctxAt c x).wait = .jobs (if t.va = 0 then none else some (t.va - 1, t.acc))) ∧
      (∀ o, t.cls = 8 → s.obj? t.obj = some o →
        let room := t.code = 4 ∧ absentCode s t.obj (groveOf c) = none
        (room → parked ∧ (r.ctxAt c x).wait = .room t.obj ∧ ∃ o', r.obj? t.obj = some o' ∧ ⟨c, x, t.acc, false⟩ ∈ o'.roomFor) ∧
        (¬ room → c < 768 → o.wh ≠ .resident s.chip (groveOf c) → parked ∧ (r.ctxAt c x).wait = .object t.obj ∧
          ∃ o', r.obj? t.obj = some o' ∧ ⟨c, x, 0, false⟩ ∈ o'.waiters ∧
            ∀ chip h, o.wh = .tier chip ∨ (o.wh = .resident chip h ∧ o.pins = 0) →
              ∃ from_, o'.wh = .moving chip from_ s.chip (groveOf c))) ∧
      (t.parks = false → again → keeps ∧ ∃ m', r.task? n = some m' ∧ m'.st = .ready ∧ m'.retries = m.retries + 1 ∧ m'.tent = []) ∧
      (t.parks = false → ¬ again → keeps ∧ failedWith r n w)

/-- TRAP, TABORT, HALT and PHASE (R108, R290, R313, R315, R316): TRAP issued alone is raised by its bundle's checks, with its code
and slot, and has no effect of its own; TABORT fails its task with code 0x8000 plus its own; HALT halts the service context;
PHASE starts a drain of 2,048 cycles to the size of its phase, or joins a drain under way, which then ends at that size. -/
def Obligations.TrapsAndPhases : Prop :=
  ∀ (s u : State),
    (∀ code, s.checked = false → exec (.trap code) s = .next (raiseTrap s ⟨9, 9, code.toNat, s.slot.num, 0, 0, 0⟩)) ∧
    (∀ code, s.passes (.tabort code) = some u →
      exec (.tabort code) s = .next (raiseTrap u ⟨9, 9, 0x8000 + code.toNat, 0, 0, 0, 0⟩)) ∧
    (s.passes .halt = some u → exec .halt s = .next (u.setMe { u.me with st := .halted })) ∧
    ∀ n, s.passes (.phase n) = some u →
      (u.myInst = none → exec (.phase n) s = .next u) ∧
      ∀ i, u.myInst = some i → ∃ t d, exec (.phase n) s = .next t ∧ (t.groveAt u.g).drain = some d ∧ d.phase = n.val ∧
        d.size = phaseSize i.img n.val ∧ (t.groveAt u.g).size = (u.groveAt u.g).size ∧
        ((u.groveAt u.g).drain = none → d.till = u.time.toNat + 2049) ∧
        (∀ e, (u.groveAt u.g).drain = some e → d.till = e.till)

/-- RDSYS and WRSYS (R58, R59, R63, R64, R312): a value read is in flight to its register and a value written in flight to the
system register, for two cycles each; the values that a register reads; and what a write leaves in it: reserved bits read zero,
SYS.AGELIMIT holds at least 64, SYS.SVCSHARE at most 64, SYS.HANG at least 65,536, and SYS.FPFLAGS loses the bits written as 1. -/
def Obligations.SystemRegisters : Prop :=
  ∀ (s u : State) (d a : SReg) (num : BitVec 12),
    (s.passes (.rdsys d num) = some u → yields (.rdsys d num) s u (.s d (sysValue u num.toNat)) 2 0) ∧
    (s.passes (.wrsys a num) = some u → yields (.wrsys a num) s u (.sys num.toNat (u.rs a)) 2 0) ∧
    (sysValue u 0x000 = BitVec.ofNat 64 u.me.rank ∧ sysValue u 0x001 = BitVec.ofNat 64 u.me.skew ∧
      sysValue u 0x002 = BitVec.ofNat 64 (u.ctx * 65536 + u.core) ∧ sysValue u 0x008 = u.me.heapBase ∧
      sysValue u 0x009 = u.me.heapLimit ∧ sysValue u 0x00A = u.me.heapOff ∧ sysValue u 0x010 = u.me.fpflags.setWidth 64 ∧
      (u.me.gang = false → sysValue u 0x011 = u.time) ∧ sysValue u 0x012 = u.me.lts ∧ sysValue u 0x013 = u.me.frzctx ∧
      sysValue u 0x014 = u.myCore.frzcore ∧ sysValue u 0x018 = u.me.taddr.setWidth 64 ∧
      sysValue u 0x019 = u.me.tcause.setWidth 64 ∧ sysValue u 0x01A = u.me.txfer ∧
      sysValue u 0x020 = u.myCore.ageLimit.setWidth 64 ∧ sysValue u 0x021 = u.myCore.svcShare.setWidth 64 ∧
      sysValue u 0x022 = u.myGrove.retry.setWidth 64 ∧ sysValue u 0x023 = (u.dieAt u.die).phase.setWidth 64 ∧
      sysValue u 0x024 = u.myGrove.hang.setWidth 64) ∧
    ∀ (c x : Nat) (l : Landing) (v : W64),
      let t := s.land c x l
      (l.wr = .sys 0x020 v → ((t.coreAt c).ageLimit).toNat = Nat.max 64 (v.toNat % 2 ^ 16)) ∧
      (l.wr = .sys 0x021 v → ((t.coreAt c).svcShare).toNat = Nat.min 64 (v.toNat % 2 ^ 7)) ∧
      (l.wr = .sys 0x022 v → ((t.groveAt (groveOf c)).retry).toNat = v.toNat % 2 ^ 4) ∧
      (l.wr = .sys 0x023 v → ((t.dieAt (dieOf (groveOf c))).phase).toNat = v.toNat % 2 ^ 12) ∧
      (l.wr = .sys 0x024 v → ((t.groveAt (groveOf c)).hang).toNat = Nat.max 65536 (v.toNat % 2 ^ 32)) ∧
      (l.wr = .sys 0x008 v → (t.ctxAt c x).heapBase.toNat = v.toNat % 2 ^ 57 / 4096 * 4096) ∧
      (l.wr = .sys 0x009 v → (t.ctxAt c x).heapLimit.toNat = v.toNat % 2 ^ 57 / 4096 * 4096) ∧
      (l.wr = .sys 0x00A v → (t.ctxAt c x).heapOff.toNat = v.toNat / 4096 * 4096) ∧
      (l.wr = .sys 0x010 v → l.flags = 0 → (t.ctxAt c x).fpflags = (s.ctxAt c x).fpflags &&& ~~~(v.setWidth 5)) ∧
      (l.wr = .sys 0x018 v → (t.ctxAt c x).taddr.toNat = v.toNat % 2 ^ 32) ∧
      (l.wr = .sys 0x019 v → (t.ctxAt c x).tcause.toNat = v.toNat % 2 ^ 32) ∧
      (l.wr = .sys 0x01A v → (t.ctxAt c x).txfer = v &&& 0x83000000FFFFFFFF)

/-- Operation i, whose checks leave state u, completes with one more request of the context, of its source values and register
block, to be answered by its landing cycle (R282); nothing else changes. -/
def Sys2Proof.Machine.asks (i : Instr) (s u : State) (x y : W64) (blk : List W64) (land : BitVec 10) : Prop :=
  ∃ r : Req, exec i s = .next (u.setMe { u.me with reqs := u.me.reqs ++ [r] }) ∧ r.op = i ∧ r.x = x ∧ r.y = y ∧ r.blk = blk ∧
    r.bound = u.myCore.cyc + land.toNat ∧ r.since = u.time.toNat

/-- The requests of tasks, watches, generations, handles and the pager (R282, R285, R288 to R311) issue where their checks
pass. -/
def Sys2Proof.Machine.plainRequestsIssue : Prop :=
  ∀ (s u : State) (d a b : SReg) (land : BitVec 10),
    let one (i : Instr) : Prop := s.passes i = some u → asks i s u (u.rs a) 0 [] land
    let two (i : Instr) : Prop := s.passes i = some u → asks i s u (u.rs a) (u.rs b) [] land
    let four : List W64 := [u.rs a, u.rs (a + 1), u.rs (a + 2), u.rs (a + 3)]
    (s.passes (.spawn d a land) = some u → asks (.spawn d a land) s u 0 0 four land) ∧
    (s.passes (.spawnk d a b land) = some u → asks (.spawnk d a b land) s u 0 (u.rs b) four land) ∧
    (s.passes (.snap d land) = some u → asks (.snap d land) s u 0 0 [] land) ∧
    one (.tstat d a land) ∧ one (.unwatch d a land) ∧ one (.wstat d a land) ∧ one (.gdrop d a land) ∧ one (.gstat d a land) ∧
    one (.hnew d a land) ∧ one (.hfree d a land) ∧ one (.hpin d a land) ∧ one (.hunpin d a land) ∧ one (.hstat d a land) ∧
    two (.ckpt d a b land) ∧ two (.hmig d a b land) ∧ two (.pgready d a b land)

/-- The requests that do more when they issue (R293, R298, R304, R314, R316): WATCH reads its descriptor in four accesses;
GROLL has a job, which waits for its answer; an engine handle operation joins its core's engine queue; and SVC wakes a halted
service context. -/
def Sys2Proof.Machine.requestsWithWorkIssue : Prop :=
  ∀ (s u : State) (d a b : SReg) (land : BitVec 10),
    (∀ disp, s.passes (.watch d a disp land) = some u → ∃ (k : Acc) (r : Req) (n : Nat),
      exec (.watch d a disp land) s =
        .next (u.setMe { u.me with accs := u.me.accs ++ [k], reqs := u.me.reqs ++ [r], frzUntil := n }) ∧
      k.op = .watchRead 0 ∧ r.op = .watch d a disp land ∧ r.desc = none ∧
      ∀ p, p ∈ k.pieces → p.len = 16 ∧ p.idx < 4 ∧ p.va = ((u.rs a + disp.signExtend 64).toNat + 16 * p.idx) % 2 ^ 64) ∧
    (s.passes (.groll d a b land) = some u → ∃ (j : Job) (r : Req),
      exec (.groll d a b land) s = .next (u.setMe { u.me with jobs := u.me.jobs ++ [j], reqs := u.me.reqs ++ [r] }) ∧
      j.op = .groll d a b land ∧ j.args = [u.rs a, u.rs b, u.rs (b + 1)] ∧ j.moving = true ∧ r.op = .groll d a b land ∧
      r.x = u.rs a ∧ r.y = u.rs b) ∧
    (∀ n, s.passes (.svc d a n land) = some u → ∃ r : Req,
      let v := u.setMe { u.me with reqs := u.me.reqs ++ [r] }
      r.op = .svc d a n land ∧ r.x = u.rs a ∧
      exec (.svc d a n land) s = .next (if (v.ctxAt u.core 8).st = .halted then
        v.setCtx u.core 8 { v.ctxAt u.core 8 with
          st := .running, nextAt := Nat.max (v.ctxAt u.core 8).nextAt (u.coreAt u.core).cyc } else v)) ∧
    let engine (i : Instr) (h : W64) (srcs : List W64) : Prop := s.passes i = some u → ∃ t, exec i s = .next t ∧
      (∃ o, (t.coreAt u.core).eq = u.myCore.eq ++ [o] ∧ o.op = i ∧ o.handle = h ∧ o.srcs = srcs ∧ o.go = false) ∧
      (∃ r, t.me = { u.me with reqs := u.me.reqs ++ [r] } ∧ r.op = i) ∧ sameBytes u t (fun _ => True)
    engine (.hfork d a land) (u.rs a) [] ∧ engine (.hsnap d a land) (u.rs a) [] ∧
    engine (.hroll d a b land) (u.rs a) [u.rs b] ∧ ∀ n, engine (.havg d a b n land) (u.rs b) (u.blk a (n.val + 1))

/-- Requests issue where their checks pass (R282 to R316). -/
def Obligations.RequestsIssue : Prop := plainRequestsIssue ∧ requestsWithWorkIssue

/-! ## Matrix unit, fast weights, copy engine (R242-R281) -/

/-- MSET (R256, R257): the 24 bits of the named word of mp[p] are in flight, the reserved bits of the shape word zero, from an
immediate or from the low bits of a scalar register, with latency bound 1; the other word of the register is not written. -/
def Sys2Proof.Machine.parameterWordsResult : Prop :=
  ∀ (s : State) (p : MpReg) (w : BitVec 24) (x : SReg),
    let v : BitVec 24 := bits (s.rs x) 0 24
    let shape (w : BitVec 24) : Wr := .mp p (BitVec.ofNat 128 (w.toNat % 2 ^ 20 + w.toNat / 2 ^ 22 * 2 ^ 22)) 0xFFFFFF
    let table (w : BitVec 24) : Wr := .mp p (BitVec.ofNat 128 (w.toNat * 2 ^ 24)) 0xFFFFFF000000
    yields (.msetShapeImm p w) s s (shape w) 1 0 ∧ yields (.msetTableImm p w) s s (table w) 1 0 ∧
    yields (.msetShapeReg p x) s s (shape v) 1 0 ∧ yields (.msetTableReg p x) s s (table v) 1 0

/-- MCLAIM, MRELEASE and MWAIT (R117, R258, R259, R262). A claim that issues makes the context hold every slot of its mask, the
others as they were; a slot it held already keeps its data, and the content of a slot newly held is not said. A release frees
the slots of its mask that the context holds and no other, and every slot keeps its bytes. MWAIT issues after its wait, and has
no other effect. -/
def Sys2Proof.Machine.operandSlotsClaimAndRelease : Prop :=
  ∀ (s u : State) (m : BitVec 16) (q : BitVec 8),
    (s.passes (.mclaim m) = some u → ∃ k : Core, exec (.mclaim m) s = .next (u.setMyCore k) ∧ k.mq = u.myCore.mq ∧
      ∀ n : Fin 16,
        (m.getLsbD n.val = true → k.slots[n.val].holder = some u.ctx) ∧
        (m.getLsbD n.val = false ∨ u.myCore.slots[n.val].holder = some u.ctx → k.slots[n.val] = u.myCore.slots[n.val])) ∧
    (s.passes (.mrelease m) = some u → ∃ t, exec (.mrelease m) s = .next t ∧ sameBytes u t (fun _ => True) ∧
      ∀ n : Fin 16, (t.coreAt u.core).slots[n.val].data = u.myCore.slots[n.val].data ∧
        (t.coreAt u.core).slots[n.val].holder =
          if m.getLsbD n.val ∧ u.myCore.slots[n.val].holder = some u.ctx then none else u.myCore.slots[n.val].holder) ∧
    (s.passes (.mwait q) = some u → exec (.mwait q) s = .next u)

/-- Parameter words, and the claiming and releasing of operand slots (R117, R256 to R259, R262). -/
def Obligations.ParametersAndOperandSlots : Prop := parameterWordsResult ∧ operandSlotsClaimAndRelease

/-- The matrix operation i, whose checks leave state u, completes by entering its core's queue with the parameter registers it
reads; nothing else changes (R260). -/
def Sys2Proof.Machine.queues (i : Instr) (s u : State) (pa pb : BitVec 128) : Prop :=
  ∃ o : MatOp, exec i s = .next (u.setMyCore { u.myCore with mq := u.myCore.mq ++ [o] }) ∧ o.op = i ∧ o.x = u.ctx ∧
    o.pa = pa ∧ o.pb = pb ∧ o.ord = u.nextOrd

/-- Every operation of the matrix unit enters its queue where its checks pass (R260, R266 to R271). -/
def Obligations.MatrixOperationsQueue : Prop :=
  ∀ (s u : State) (d e : AccReg) (pa pb : MpReg) (f : MmaFlags) (g : Fin 8),
    let a := u.rmp pa
    let b := u.rmp pb
    let two (i : Instr) : Prop := s.passes i = some u → queues i s u a b
    let none? (i : Instr) : Prop := s.passes i = some u → queues i s u 0 0
    none? (.mzero d) ∧ two (.mmaBf16 d pa pb f) ∧ two (.mmaF16 d pa pb f) ∧ two (.mmaF32 d pa pb f) ∧
    two (.mmaF64 d pa pb f) ∧ two (.mmaI8 d pa pb f) ∧ two (.mmawI4 d pa pb f) ∧ two (.mmawE2m1 d pa pb f) ∧
    two (.mgrpI4i8 d pa pb f g) ∧ two (.mgrpI8 d pa pb f g) ∧ two (.mscac d e pa pb g) ∧
    (∀ w, none? (.mtrn d e w)) ∧ (∀ t, none? (.maccadd t d e)) ∧ ∀ m, none? (.mcvtacc m d e)

/-- The matrix unit of a core that is not frozen starts the first queued operation whose dependences are met when every operation
that it has started has run for its occupancy (R260, R261), and a started operation that has run for its occupancy, none before it on its
tiles being under way, may write its tile and raise its flags (R61, R261; that none completes while it occupies the array is the
model's choice, assumption log 85): every other tile and register of the context, and all of memory, are as before. -/
def Obligations.MatrixUnitRuns : Prop :=
  ∀ (s : State) (o : MatOp),
    let c := s.ev.a
    let k := s.coreAt c
    (coreFrozen s c = false → (∀ r, r ∈ k.mrun → r.2 + (matCycles r.1.op r.1.pb).1 ≤ k.cyc) →
      k.mq.find? (matReady s c) = some o →
      ∃ t, exec .matrixOpStart s = .next t ∧ (t.coreAt c).mrun = k.mrun ++ [(o, k.cyc)] ∧
        (∀ p, p ∈ (t.coreAt c).mq ↔ p ∈ k.mq ∧ ¬ (p.x = o.x ∧ p.ord = o.ord)) ∧ t.ctxs = s.ctxs ∧ t.mem = s.mem) ∧
    ∀ (t0 : Nat) (d : AccReg), coreFrozen s c = false → k.mrun[s.ev.b]? = some (o, t0) → t0 + (matCycles o.op o.pb).1 ≤ k.cyc →
      k.mrun.any (fun q => matBefore q (o, t0)) = false → (matTiles o.op).1 = some d →
      let x := s.ctxAt c o.x
      let r := matResult o.op o.pa o.pb (fun n => (k.slots[n]?.map (·.data)).getD 0) (fun a => x.acc[a.val])
      ∃ t, exec .matrixOpComplete s = .next t ∧ t.mem = s.mem ∧
        (∀ p, p ∈ (t.coreAt c).mrun ↔ p ∈ k.mrun ∧ ¬ (p.1.x = o.x ∧ p.1.ord = o.ord)) ∧
        t.ctxAt c o.x = { x with acc := x.acc.set d.val r.1, fpflags := x.fpflags ||| r.2 }

/-- The tiles that matrix operations produce (R90, R254, R255, R267 to R271), element by element: MZERO zeros; an integer MMA the
sum of products over the valid extents, on the tile or from zero, wrapped to 32 bits; a float MMA its block sums, transposed
operands read across; MTRN the transpose; MACCADD the sum; MCVTACC the conversion; MGRP one group's partial; MSCAC the partial
scaled and added. A result of 8-byte elements fills the low half of its tile, and the high half keeps what it held. -/
def Obligations.MatrixResults : Prop :=
  ∀ (pa pb : BitVec 128) (slot : Nat → TileW) (acc : AccReg → TileW) (d e : AccReg) (p q : MpReg) (f : MmaFlags) (g i j : Nat)
    (hg : g < 8), i < 64 → j < 64 →
    let at4 (x : TileW) (i j : Nat) : Nat := tileAt x (4 * (64 * i + j)) 4
    let at8 (x : TileW) (i j : Nat) : Nat := tileAt x (8 * (32 * i + j)) 8
    let r (i : Instr) : TileW := (matResult i pa pb slot acc).1
    let sa := slot (mpSlot pa)
    let sb := slot (mpSlot pb)
    let st := slot (mpSslot pb)
    let a8 (k : Nat) : Int := if i ≤ mpRows pa ∧ k ≤ mpCols pa then sintOf 8 (tileAt sa (256 * i + k) 1) else 0
    let b8 (k : Nat) : Int := if k ≤ mpRows pb ∧ j ≤ mpCols pb then sintOf 8 (tileAt sb (64 * k + j) 1) else 0
    let a16 (k : Nat) : Nat := if i ≤ mpRows pa ∧ k ≤ mpCols pa then
      tileAt sa (2 * (if f.ta then 64 * k + i else 128 * i + k)) 2 else 0
    let b16 (k : Nat) : Nat := if k ≤ mpRows pb ∧ j ≤ mpCols pb then
      tileAt sb (2 * (if f.tb then 128 * j + k else 64 * k + j)) 2 else 0
    let a32 (k : Nat) : Nat := if i ≤ mpRows pa ∧ k ≤ mpCols pa then
      tileAt sa (4 * (if f.ta then 64 * k + i else 64 * i + k)) 4 else 0
    let b32 (k : Nat) : Nat := if k ≤ mpRows pb ∧ j ≤ mpCols pb then
      tileAt sb (4 * (if f.tb then 64 * j + k else 64 * k + j)) 4 else 0
    let a64 (k : Nat) : Nat := if i ≤ mpRows pa ∧ k ≤ mpCols pa then
      tileAt sa (8 * (if f.ta then 32 * k + i else 64 * i + k)) 8 else 0
    let b64 (k : Nat) : Nat := if k ≤ mpRows pb ∧ j ≤ mpCols pb then
      tileAt sb (8 * (if f.tb then 64 * j + k else 32 * k + j)) 8 else 0
    let group (w : Nat → Int) : Nat := wrapNat 32 ((List.range (grpSize (mpGrp pb))).foldl (fun (n : Int) t =>
      let k := g * grpSize (mpGrp pb) + t
      if i ≤ mpRows pa ∧ k ≤ mpCols pa ∧ k ≤ mpRows pb ∧ j ≤ mpCols pb then
        n + sintOf 8 (tileAt sa (256 * i + k) 1) * (w k - sintOf 8 (tileAt st (mpZoff pb + g * 64 + j) 1))
      else n) 0)
    let c0 : Nat := if f.start then 0 else at4 (acc d) i j
    let is4 (x : Instr) (n : Nat) : Prop := at4 (r x) i j = n % 2 ^ 32
    let is8 (x : Instr) (n : Nat) : Prop := (i < 32 → j < 32 → at8 (r x) i j = n % 2 ^ 64) ∧ r x >>> 65536 = acc d >>> 65536
    is4 (.mzero d) 0 ∧
    is4 (.mmaI8 d p q f) (wrapNat 32 ((List.range 256).foldl (fun (n : Int) k => n + a8 k * b8 k) (c0 : Int))) ∧
    is4 (.mmaBf16 d p q f) (mmaElem .bf16 .f32 128 32 a16 b16 c0).1 ∧
    is4 (.mmaF16 d p q f) (mmaElem .f16 .f32 128 32 a16 b16 c0).1 ∧
    is4 (.mmaF32 d p q f) (mmaElem .f32 .f32 64 32 a32 b32 c0).1 ∧
    is8 (.mmaF64 d p q f) (mmaElem .f64 .f64 64 8 a64 b64 (if f.start then 0 else at8 (acc d) i j)).1 ∧
    is4 (.mmawI4 d p q f) (mmaElem .bf16 .f32 128 32 a16 (fun k => (mmawWeight false pb sb st k j).1) c0).1 ∧
    is4 (.mmawE2m1 d p q f) (mmaElem .bf16 .f32 128 32 a16 (fun k => (mmawWeight true pb sb st k j).1) c0).1 ∧
    is4 (.mtrn d e false) (at4 (acc e) j i) ∧ is8 (.mtrn d e true) (at8 (acc e) j i) ∧
    is4 (.maccadd .f32 d e) (faddBits .f32 (at4 (acc d) i j) (at4 (acc e) i j)).1 ∧
    is8 (.maccadd .f64 d e) (faddBits .f64 (at8 (acc d) i j) (at8 (acc e) i j)).1 ∧
    is4 (.maccadd .i32 d e) (at4 (acc d) i j + at4 (acc e) i j) ∧
    (∀ m, is4 (.mcvtacc m d e) (mcvtElem m (at4 (acc e) i j)).1) ∧
    is4 (.mgrpI8 d p q f ⟨g, hg⟩) (group fun k => sintOf 8 (tileAt sb (64 * k + j) 1)) ∧
    is4 (.mgrpI4i8 d p q f ⟨g, hg⟩) (group fun k => sintOf 4 (nibble sb (64 * k + j))) ∧
    is4 (.mscac d e p q ⟨g, hg⟩) (mscacElem (at4 (acc e) i j) (tileAt (slot (mpSslot pa)) (mpSoff pa + 4 * i) 4)
      (tileAt st (mpSoff pb + 2 * (64 * g + j)) 2) (at4 (acc d) i j)).1

/-- Fast-weight operations issue where their checks pass (R272, R273, R275, R277, R279): FWBIND binds the handle's state as the
directory gives it; the others join the engine's queue with their binding's handle and tile and the registers they read, of a
length that the state's shape gives; FWUNBIND frees the binding, at once where no operation of it is under way; FWWAIT issues
after its wait and has no other effect. -/
def Obligations.FastWeightOperationsIssue : Prop :=
  ∀ (s u : State) (fb : FbReg) (d : AccReg) (row n : Fin 64) (x : VReg) (h : SReg) (hb post nr : Bool) (pk pv pq : MpReg)
    (m : BitVec 4),
    let b := u.me.fb[fb.val]
    let q := (2 ^ b.ldk + 127) / 128
    let v := (2 ^ b.ldv + 127) / 128
    let regs (n : Nat) : List VecW := (List.range n).map fun j => u.rv (Fin.ofNat 32 (x.val + j))
    let out (i : Instr) (vecs : List VecW) (mps : List (BitVec 128)) : Prop := s.passes i = some u → b.st = .bound →
      ∃ o : EngOp, exec i s = .next (u.setMyCore { u.myCore with eq := u.myCore.eq ++ [o] }) ∧ o.op = i ∧ o.x = u.ctx ∧
        o.fb = fb.val ∧ o.handle = b.handle ∧ o.tile = b.tile ∧ o.vecs = vecs ∧ o.mps = mps
    out (.fwread fb d row x) (regs q) [] ∧ out (.fwfade fb x) (regs 1) [] ∧
    out (.fwwrite hb fb x) (regs (q + v + 1)) [] ∧ out (.fwstep hb post fb d row x) (regs (2 * q + v + 1)) [] ∧
    out (.fwchunk hb post fb d pk pv pq n nr) [] [u.rmp pk, u.rmp pv, u.rmp pq] ∧
    (∀ o us, s.passes (.fwbind fb h row) = some u → lookHandle u u.part (u.rs h) = some (o, us) →
      exec (.fwbind fb h row) s =
        .next (u.setMe { u.me with fb := u.me.fb.set fb.val ⟨.bound, u.rs h, row.val, o.ldk, o.ldv, o.half⟩ })) ∧
    (s.passes (.fwbind fb h row) = some u → lookHandle u u.part (u.rs h) = none → exec (.fwbind fb h row) s = .next u) ∧
    (s.passes (.fwunbind fb) = some u → ∃ t, exec (.fwunbind fb) s = .next t ∧ t.me.fb[fb.val].st ≠ .bound ∧ t.me.s = u.me.s ∧
      (b.st = .bound → (∀ o, o ∈ u.myCore.engOps → o.x = u.ctx → o.fb ≠ fb.val) → t.me.fb[fb.val] = Binding.reset)) ∧
    (s.passes (.fwwait m) = some u → exec (.fwwait m) s = .next u)

/-- Every state object of a machine keeps its live state and its snapshots, unit by unit, that of one number apart. -/
def Sys2Proof.Machine.statesKept (s t : State) (but : Option Nat) : Prop :=
  ∀ (key : Nat) (b : Obj), some key ≠ but → s.obj? key = some b → ∃ b', t.obj? key = some b' ∧ b'.live = b.live ∧ b'.snaps = b.snaps ∧
    ∀ us, us ∈ b.states → ∀ n, n ∈ us → unitAt t n = unitAt s n

/-- The engine runs its operations in order (R272, R276 to R281, R304): the oldest starts when none runs, in a protected grove only once
its bundle has matched (R452), a handle operation only after the directory's OK, FWCHUNK only after earlier fills of the slots it reads;
FWREAD under way, which meets no uncorrectable error, completes: the rows of the accumulator that it writes take the results, the others
keep theirs, and the flags are raised; FWREAD writes nothing to the state. An operation that finds its tile uncorrectable writes nothing,
and its task is to take class 10 with slot 3 (R280). -/
def Sys2Proof.Machine.engineStartsAndReads : Prop :=
  ∀ (s : State) (o : EngOp) (t0 : Nat),
    let c := s.ev.a
    let k := s.coreAt c
    (∀ rest, k.erun = none → k.eq = o :: rest → edgeOpen { s with core := c, ctx := o.x } o.ord = true → (engHandleOp o.op = true → o.go = true) →
      (∀ n, n ∈ engSlots o → fillOut s c o.x o.ord n = false) →
      ∃ t, exec .fwOpStart s = .next t ∧ (t.coreAt c).erun = some (o, s.time.toNat) ∧ (t.coreAt c).eq = rest ∧
        t.ctxs = s.ctxs ∧ t.mem = s.mem) ∧
    (∀ ob us, s.ev.f = false → k.erun = some (o, t0) → engHandleOp o.op = false →
      lookHandle s (s.groveAt (groveOf c)).part o.handle = some (ob, us) → tileBad s ob us o.tile = true →
      let x := s.ctxAt c o.x
      x.st ≠ .ending → x.st ≠ .free → x.err = none →
      ∃ t, exec .fwOpComplete s = .next t ∧ (t.coreAt c).erun = none ∧ t.mem = s.mem ∧ t.units = s.units ∧ statesKept s t none ∧
        (t.ctxAt c o.x).err = some ⟨0, 10, 2, 3, 0, 0, 0⟩ ∧ (t.ctxAt c o.x).acc = x.acc ∧ (t.ctxAt c o.x).fpflags = x.fpflags) ∧
    ∀ fb d row xr ob us, s.ev.f = false → k.erun = some (o, t0) → o.op = .fwread fb d row xr →
      lookHandle s (s.groveAt (groveOf c)).part o.handle = some (ob, us) → tileBad s ob us o.tile = false →
      let x := s.ctxAt c o.x
      let r := fwRead ob.dk ob.dv (fwLoad s ob us o.tile) (vecElem o.vecs 0)
      let y := fwOutput row.val r.1
      x.st ≠ .ending →
      ∃ t, exec .fwOpComplete s = .next t ∧ (t.coreAt c).erun = none ∧ t.mem = s.mem ∧ t.units = s.units ∧ statesKept s t none ∧
        (t.ctxAt c o.x).acc[d.val] = (x.acc[d.val] &&& ~~~y.2) ||| (y.1 &&& y.2) ∧
        (t.ctxAt c o.x).fpflags = x.fpflags ||| r.2 ∧ (∀ e : AccReg, e ≠ d → (t.ctxAt c o.x).acc[e.val] = x.acc[e.val]) ∧
        (t.ctxAt c o.x).s = x.s ∧ (t.ctxAt c o.x).v = x.v

/-- A fast-weight step (R276, R277), element by element, with W[i][j] at i × d_k + j: a fade rounds the product, a write rounds one fused
sum, with b the rounded product of β and v or of β and the rounded error. FWSTEP fades, then writes, and reads before or after; FWCHUNK
is its steps in order. -/
def Sys2Proof.Machine.fastWeightSteps : Prop :=
  ∀ (half hebb post noread : Bool) (dk dv cr n beta lam : Nat) (q x v : Nat → Nat) (w : FwTile) (kx vx qx cx : TileW) (soff i j : Nat),
    w.length = dv * dk → i < dv → j < dk →
    let at_ (w : FwTile) : Nat := w.getD (i * dk + j) 0
    let el (r : FRes) : Nat := if half then (finish .bf16 .rne r).1 * 65536 else (finish .f32 .rne r).1
    let err : Nat := (fsubBits .f32 (v i) (fwDot dk w x i).1).1
    let b : Nat := (fmulBits .f32 beta (if hebb then v i else err)).1
    let step := fwStep half hebb post noread dk dv beta lam q x v w
    let faded := (fwFade half lam w).1
    let done := (fwWrite half hebb dk dv beta x v faded).1
    let chunk (n : Nat) := fwChunk half hebb post noread dk dv cr n kx vx qx cx soff w
    let next := fwStep half hebb post noread dk dv (tileAt cx (soff + 8 * n) 4) (tileAt cx (soff + 8 * n + 4) 4)
      (slotElem qx (n * dk * 4)) (slotElem kx (n * dk * 4)) (slotElem vx (n * dv * 4)) (chunk n).1
    at_ faded = el (mulV (unpack .f32 lam) (unpack .f32 (at_ w))) ∧
    at_ (fwWrite half hebb dk dv beta x v w).1 = el (fmaV .rne (unpack .f32 b) (unpack .f32 (x j)) (unpack .f32 (at_ w))) ∧
    step.1 = done ∧ step.2.1 = (if noread then [] else (fwRead dk dv (if post then done else w) q).1) ∧
    chunk 0 = (w, (0, 0), 0) ∧ (chunk (n + 1)).1 = next.1 ∧ (chunk (n + 1)).2.2 = (chunk n).2.2 ||| next.2.2 ∧
    (noread = true → (chunk n).2.1 = (0, 0)) ∧
    (noread = false → (chunk (n + 1)).2.1 =
      ((chunk n).2.1.1 ||| (fwOutput (n * cr) next.2.1).1, (chunk n).2.1.2 ||| (fwOutput (n * cr) next.2.1).2))

/-- FWFADE, FWWRITE, FWSTEP and FWCHUNK under way, which meet no uncorrectable error, complete (R275 to R277, R280, R320): their tile of
the live state takes the tile of the step or chunk; every other byte of it, every snapshot and every other object keep what they hold;
a read's rows of the accumulator take its result; and the flags are raised. -/
def Sys2Proof.Machine.fastWeightsWrite : Prop :=
  ∀ (s : State) (o : EngOp) (t0 : Nat) (ob : Obj),
    let c := s.ev.a
    let k := s.coreAt c
    let key := objKey o.handle
    let x := s.ctxAt c o.x
    let lo := o.tile * ob.tileBytes
    let hi := (o.tile + 1) * ob.tileBytes
    s.ev.f = false → k.erun = some (o, t0) → lookHandle s (s.groveAt (groveOf c)).part o.handle = some (ob, ob.live) →
    selOf o.handle = 0 → ob.live.Nodup → hi ≤ 1024 * ob.live.length → tileBad s ob ob.live o.tile = false → x.st ≠ .ending →
    let W := fwLoad s ob ob.live o.tile
    let e (n i : Nat) : Nat := vecElem o.vecs n i
    let q := (ob.dk + 127) / 128
    let v := (ob.dv + 127) / 128
    let slot (f : BitVec 128 → Nat) (n : Nat) : TileW := ((k.slots[f (o.mps.getD n 0)]?).map (·.data)).getD 0
    let writes (w : FwTile) (d : Option AccReg) (y : TileW × TileW) (fl : FFlags) : Prop :=
      ∃ t b, exec .fwOpComplete s = .next t ∧ (t.coreAt c).erun = none ∧ t.mem = s.mem ∧ t.obj? key = some b ∧
        b.snaps = ob.snaps ∧ (∀ us, us ∈ ob.snaps.map (·.2) → ∀ n, n ∈ us → unitAt t n = unitAt s n) ∧ statesKept s t (some key) ∧
        stateAt t b.live lo ob.tileBytes = fwPack ob w % 2 ^ (8 * ob.tileBytes) ∧
        (∀ a n, a + n ≤ lo ∨ hi ≤ a → a + n ≤ 1024 * ob.live.length → stateAt t b.live a n = stateAt s ob.live a n) ∧
        (t.ctxAt c o.x).fpflags = x.fpflags ||| fl ∧ (t.ctxAt c o.x).s = x.s ∧ (t.ctxAt c o.x).v = x.v ∧
        ∀ a : AccReg, (t.ctxAt c o.x).acc[a.val] = if d = some a then (x.acc[a.val] &&& ~~~y.2) ||| (y.1 &&& y.2) else x.acc[a.val]
    (∀ fb r, o.op = .fwfade fb r → writes (fwFade ob.half (e 0 0) W).1 none (0, 0) (fwFade ob.half (e 0 0) W).2) ∧
    (∀ hb fb r, o.op = .fwwrite hb fb r →
      let w := fwWrite ob.half hb ob.dk ob.dv (e (q + v) 0) (e 0) (e q) W
      writes w.1 none (0, 0) w.2) ∧
    (∀ hb post fb d row r, o.op = .fwstep hb post fb d row r →
      let w := fwStep ob.half hb post false ob.dk ob.dv (e (2 * q + v) 0) (e (2 * q + v) 1) (e 0) (e q) (e (2 * q)) W
      writes w.1 (some d) (fwOutput row.val w.2.1) w.2.2) ∧
    ∀ hb post fb d pk pv pq n nr, o.op = .fwchunk hb post fb d pk pv pq n nr →
      let w := fwChunk ob.half hb post nr ob.dk ob.dv ((ob.dv + 63) / 64) (n.val + 1) (slot mpSlot 0) (slot mpSlot 1) (slot mpSlot 2)
        (slot mpSslot 2) (mpSoff (o.mps.getD 2 0)) W
      writes w.1 (if nr then none else some d) w.2.1 w.2.2

/-- Engine handle operations under way complete (R304 to R307, R320, R321): HSNAP leaves a snapshot, and HFORK a new object, that hold the
units of the state named; HROLL leaves in the live state the snapshot's content; HAVG leaves in it the element-wise means of the states
listed, and raises their flags. No other object's state changes. HSNAP and HFORK wait where the grove lacks room for the charge they raise; HROLL waits for
operations of other engines on its object that were issued before it; both waits are the model's reading (DEDUCED, assumption logs 86
and 69). -/
def Sys2Proof.Machine.handleOperationsComplete : Prop :=
  ∀ (s : State) (o : EngOp) (t0 : Nat),
    let c := s.ev.a
    let part := (s.groveAt (groveOf c)).part
    let key := objKey o.handle
    let x := s.ctxAt c o.x
    let ends (t : State) : Prop := exec .fwOpComplete s = .next t ∧ (t.coreAt c).erun = none ∧ t.mem = s.mem
    s.ev.f = false → (s.coreAt c).erun = some (o, t0) → x.st ≠ .ending →
    (∀ d a land ob us, o.op = .hsnap d a land → lookHandle s part o.handle = some (ob, us) → engLack s c o = 0 →
      ∃ t b, ends t ∧ t.units = s.units ∧ statesKept s t (some key) ∧ t.obj? key = some b ∧ b.live = ob.live ∧
        ∀ n, Map.get? b.snaps n = if n = selOf o.new then some us else Map.get? ob.snaps n) ∧
    (∀ d a land ob us, o.op = .hfork d a land → lookHandle s part o.handle = some (ob, us) → engLack s c o = 0 →
      ∃ t b, ends t ∧ t.units = s.units ∧ statesKept s t (some (objKey o.new)) ∧ t.obj? (objKey o.new) = some b ∧ b.live = us ∧
        b.snaps = [] ∧ b.ldk = ob.ldk ∧ b.ldv = ob.ldv ∧ b.tiles = ob.tiles ∧ b.half = ob.half ∧ b.part = ob.part) ∧
    (∀ d a b land ob us, o.op = .hroll d a b land → s.obj? key = some ob → us ∈ ob.snaps.map (·.2) →
      lookHandle s part (o.srcs.getD 0 0) = some (ob, us) → us.length = ob.live.length → ob.live.Nodup →
      (∀ n, n ∈ us → s.badUnits.contains n = false) → rollWaits s c o = false →
      ∃ t b, ends t ∧ statesKept s t (some key) ∧ t.obj? key = some b ∧ b.snaps = ob.snaps ∧
        (∀ us, us ∈ ob.snaps.map (·.2) → ∀ n, n ∈ us → unitAt t n = unitAt s n) ∧ b.live.length = ob.live.length ∧
        ∀ n, n < us.length → unitAt t (b.live.getD n 0) = unitAt s (us.getD n 0)) ∧
    ∀ d a b n land ob (srcs : List (Obj × List Nat)), o.op = .havg d a b n land → s.obj? key = some ob →
      o.srcs.map (lookHandle s part) = srcs.map some → ob.live.Nodup → ob.size ≤ 1024 * ob.live.length →
      (∀ y, y ∈ srcs → ∀ n, n ∈ y.2 → s.badUnits.contains n = false) →
      let r := (List.range (ob.tiles * ob.dk * ob.dv)).map fun e => havgElem ob.half (srcs.map fun y => stateElem s y.1 y.2 e)
      ∃ t b, ends t ∧ statesKept s t (some key) ∧ t.obj? key = some b ∧ b.snaps = ob.snaps ∧
        (∀ us, us ∈ ob.snaps.map (·.2) → ∀ n, n ∈ us → unitAt t n = unitAt s n) ∧
        stateAt t b.live 0 ob.size = packNat ob.esize (r.map fun e => if ob.half then e.1 / 65536 else e.1) ∧
        (t.ctxAt c o.x).fpflags = x.fpflags ||| joinFlags (r.map (·.2))

/-- The engine runs its operations in order and completes each: fast-weight operations (R272, R275 to R281, R320) and engine handle
operations (R304 to R307). -/
def Obligations.EngineRuns : Prop := engineStartsAndReads ∧ fastWeightSteps ∧ fastWeightsWrite ∧ handleOperationsComplete

/-- A state whose context that acts has one more job, for which it waits at its next yield where the flag says so (R31). -/
def Sys2Proof.Machine.plusJob (u : State) (c : CFlags) (j : Job) : State :=
  let y : Option Nat := if c.yw then some u.nextOrd else u.me.ywJob
  u.setMe { u.me with jobs := u.me.jobs ++ [j], ywJob := y }

/-- Operation i, whose checks leave state u, completes with one more job of the context: its tag, its register values as read at
issue, nothing yet moved (R242). -/
def Sys2Proof.Machine.startsJobOf (i : Instr) (s u : State) (c : CFlags) (args : List W64) : Prop :=
  ∃ j : Job, exec i s = .next (plusJob u c j) ∧
    j.op = i ∧ j.tag = c.tag.val ∧ j.args = args ∧ j.p = 0 ∧ j.mask = 0 ∧ j.yw = c.yw ∧ j.tok = none

/-- The copy operations start their jobs where their checks pass (R242, R244, R245, R251, R252); a fill also marks its slot as
filling (R246). CWAIT issues after its wait and has no other effect (R249). -/
def Sys2Proof.Machine.copyJobsStart : Prop :=
  ∀ (s u : State) (sf : Bool) (c : CFlags) (a b l : SReg) (n : Fin 16),
    let blk : List W64 := (List.range 6).map fun i => u.rs (Fin.ofNat 64 (a.val + i))
    let out (i : Instr) (args : List W64) : Prop := s.passes i = some u → startsJobOf i s u c args
    let fill (i : Instr) (args : List W64) : Prop := s.passes i = some u →
      ∃ (j : Job) (k : Core), exec i s = .next ((plusJob u c j).setMyCore k) ∧
        j.op = i ∧ j.tag = c.tag.val ∧ j.args = args ∧
        k.slots[n.val] = { u.myCore.slots[n.val] with fill := some u.nextOrd } ∧
        ∀ m : Fin 16, m ≠ n → k.slots[m.val] = u.myCore.slots[m.val]
    out (.cpy sf c a b l) [u.rs a, u.rs b, u.rs l] ∧ out (.cpy2d sf c a) blk ∧ out (.gather sf c a) blk ∧
    out (.scatter c a) blk ∧ out (.rput c a b l) [u.rs a, u.rs b, u.rs l] ∧ out (.rget sf c a b l) [u.rs a, u.rs b, u.rs l] ∧
    out (.wswrite c a b l) [u.rs a, u.rs b, u.rs l] ∧ (∀ sc op, out (.rsig c sc op a b) [u.rs a, u.rs b]) ∧
    out (.cflush c a b) [u.rs a, u.rs b] ∧ out (.cinv c a b) [u.rs a, u.rs b] ∧
    fill (.osfill c n b l) [u.rs b, u.rs l] ∧ fill (.wsfill c n b) [u.rs b] ∧ fill (.mcast c n b l) [u.rs b, u.rs l] ∧
    (s.passes (.cwait c) = some u → exec (.cwait c) s = .next u)

/-- Windows and moves (R110 to R112, R250, R252, R325). WOPEN opens its window at row0 and WADV moves its head, each with a
job that fetches; WCLOSE closes the window and stops its fetches. SPIN and SPOUT have a job, and ask for the move of their object: their
job waits where the move is accepted, which the object is on then; a move that is declined leaves the object where it is, with the
reason, and its job waits for nothing, as where there is nothing to move. In a protected grove they ask once their bundle has matched
(R452), and the job waits for that. -/
def Sys2Proof.Machine.windowsAndMovesStart : Prop :=
  ∀ (s u : State) (c : CFlags) (k : Fin 4) (a : SReg),
    let r (n : Nat) : W64 := u.rs (Fin.ofNat 64 (a.val + n))
    let key := objKey (u.rs a)
    let asks (i : Instr) (moved : State → Job → Obj → Prop) : Prop := s.passes i = some u → ∃ t j, exec i s = .next t ∧
      t.me.jobs = u.me.jobs ++ [j] ∧ j.op = i ∧ j.args = [u.rs a] ∧
      (u.myGrove.prot = true → j.moving = true ∧ t.objs = u.objs) ∧
      (u.myGrove.prot = false → (handleSeen u (u.rs a) = false → j.moving = false ∧ t.objs = u.objs) ∧
        ∀ o us, lookHandle u u.myGrove.part (u.rs a) = some (o, us) → moved t j o)
    let moves (t : State) (j : Job) (c g c' g' : Nat) : Prop :=
      j.moving = true ∧ ∃ o, t.obj? key = some o ∧ o.wh = .moving c g c' g'
    let stays (t : State) (j : Job) (o : Obj) (n : Nat) : Prop := j.moving = false ∧ t.obj? key = some { o with decl := n }
    (s.passes (.wopen c k a) = some u → ∃ t j, exec (.wopen c k a) s = .next t ∧ sameBytes u t (fun _ => True) ∧
      t.me.windows[k.val] = ⟨true, r 0, r 1, r 2, r 3, r 4, r 5, (r 6).toInt⟩ ∧
      t.me.jobs = u.me.jobs ++ [j] ∧ j.op = .wopen c k a ∧ j.count = (r 5).toNat * ((r 2).toNat / 16) ∧ t.me.s = u.me.s) ∧
    (s.passes (.wadv c k a) = some u → ∃ t j, exec (.wadv c k a) s = .next t ∧ sameBytes u t (fun _ => True) ∧
      t.me.windows[k.val] = { u.me.windows[k.val] with h := u.me.windows[k.val].h + ((r 0).toNat : Int) } ∧
      t.me.jobs = u.me.jobs ++ [j] ∧ j.op = .wadv c k a ∧ t.me.s = u.me.s) ∧
    (s.passes (.wclose c k) = some u → ∃ m, exec (.wclose c k) s = .next (u.setMe m) ∧ m.windows[k.val].isOpen = false ∧
      m.jobs.length = u.me.jobs.length ∧ (∀ j, j ∈ m.jobs → jobWindow j = some k → j.stop = true) ∧ m.s = u.me.s) ∧
    asks (.spin c a) (fun t j o =>
      let room : Bool := decide (chargeMoved u key + pinnedCharge u u.chip u.g ≤ 4096)
      (o.wh = .resident u.chip u.g → j.moving = false ∧ t.objs = u.objs) ∧
      (∀ c g, o.wh = .resident c g → (c = u.chip → g ≠ u.g) →
        (o.pins ≠ 0 → stays t j o 2) ∧ (o.pins = 0 → room = false → stays t j o 1) ∧
        (o.pins = 0 → room = true → moves t j c g u.chip u.g)) ∧
      (∀ c, o.wh = .tier c → (room = false → stays t j o 1) ∧ (room = true → moves t j c 127 u.chip u.g)) ∧
      ∀ c g c' g', o.wh = .moving c g c' g' → stays t j o 3) ∧
    asks (.spout c a) fun t j o =>
      (∀ c g, o.wh = .resident c g → (o.pins ≠ 0 → stays t j o 2) ∧ (o.pins = 0 → moves t j c g c 127)) ∧
      (∀ c, o.wh = .tier c → j.moving = false ∧ t.objs = u.objs) ∧ ∀ c g c' g', o.wh = .moving c g c' g' → stays t j o 3

/-- The operations of the copy engine start where their checks pass (R110 to R112, R242 to R252, R325). -/
def Obligations.CopyEngineOperationsStart : Prop := copyJobsStart ∧ windowsAndMovesStart

/-! ## Events of contexts, jobs, tasks, objects and generations

An event's subjects stand in `State.ev`, as its meaning tells (assumption log 21). Each statement gives the conditions under which
the event happens, on the state and its subjects alone, and what it does. -/

/-- Answers (R282, R289, R304, R447): a request whose earlier accesses have been performed is answered, an engine handle
operation by the directory, an SVC by the service it names and every other request by its own unit; it is outstanding no more,
its answer is in flight to land by its landing cycle, and what the unit has done beside the answer, and nothing else, has taken place.
That a service's effect and its answer come in one step is the model's choice (assumption log 20). -/
def Sys2Proof.Machine.answersArrive : Prop :=
  ∀ (s : State) (r : Req) (v : State) (w : W64) (e : Instr),
    let u := s.atEv
    let n := serviceOf r.op
    e = (if engHandleOp r.op then Instr.directoryAnswer else if n = 1 then .fabreq else if n = 2 then .attest
      else if n = 3 then .mext else .requestAnswer) →
    u.me.reqs[s.ev.c]? = some r → edgeOpen u r.ord = true → reqReady u r = true → answerOf u r = some (v, w) →
    v.myCore.cyc < r.bound →
    ∃ t, exec e s = .next t ∧
      (∀ q, q ∈ (t.ctxAt v.core v.ctx).reqs → q.ord ≠ r.ord) ∧ t.mem = v.mem ∧ t.tasks = v.tasks ∧ t.watches = v.watches ∧
      t.objs = v.objs ∧ t.units = v.units ∧ t.gens = v.gens ∧ t.upcalls = v.upcalls ∧ t.insts = v.insts ∧ t.meas = v.meas ∧
      ∃ l, l ∈ (t.ctxAt v.core v.ctx).inflight ∧ l.wr = .s (reqDest r.op) w ∧ v.myCore.cyc < l.land ∧ l.land ≤ r.bound ∧
        t = (v.setMe { v.me with
          reqs := v.me.reqs.filter fun q => q.ord ≠ r.ord, inflight := v.me.inflight ++ [l] }).landDue v.core v.ctx

/-- What the requests of tasks, watches, objects, the pager and the services are answered, and do (R18, R27, R288, R289, R291, R293, R294,
R301 to R303, R309, R311, R443, R447, R448, R465), by the status numbers of R283. SPAWN of an instance that has not been ended makes a
task of its record in its routed grove, which its id names, where there is room, and FULL where there is none; in a staged task it is
deferred to the commit; SPAWNK answers NONE for an instance that is not live. WATCH installs an entry of its range where its descriptor
passes and one is free; UNWATCH of an entry of its own instance frees it. HNEW makes an object of zeros, of the shape described, in the
grove or in the state tier, by the grove's free charge; HFREE frees an object or a snapshot, and HPIN pins an object. PGREADY makes a
context parked on its token ready, or fails its task. ATTEST writes its report, whose nonce is the buffer's first 64 bytes, and MEXT
extends a register; DENIED goes first. That an object for which neither the grove nor the tier has room is NOROOM, which this does not
say, is log 75; the signatures and the hash are free values (assumption log 14). -/
def Sys2Proof.Machine.requestEffects : Prop :=
  ∀ (s : State) (r : Req), reqPending s r = false → svcHeld s r = false →
    let A := answerOf s r
    let tells (n : Nat) : Prop := A = some (s, BitVec.ofNat 64 n)
    let part := s.myGrove.part
    (∀ d a l n i, r.op = .spawn d a l → s.me.inst = some n → s.inst? n = some i →
      let c := recOf r.blk
      let bad : Prop := i.img.types.length ≤ c.typ.toNat ∨ c.rsv ≠ 0
      let o := mkOffer (spawnRank s.core s.ctx) i n c (setIndex i s.g) s.depth s.me.lts.toNat
      (i.ended = true → tells 3) ∧ (i.ended = false → bad → tells 2) ∧
      (i.ended = false → ¬ bad → s.staged = true → ∀ k m, s.me.task = some k → s.task? k = some m →
        ∃ t, A = some (t, 9) ∧ t = s.setTask k { m with deferred := m.deferred ++ [(none, c)] }) ∧
      (i.ended = false → ¬ bad → s.staged = false → offerRoom s o = false → tells 1) ∧
      ∀ ty, i.ended = false → ¬ bad → s.staged = false → offerRoom s o = true → i.img.types[c.typ.toNat]? = some ty →
        (∀ e, e ∈ s.tasks → e.2.token = false) →
        ∃ t id k m, A = some (t, BitVec.ofNat 64 (id * 2 ^ 32)) ∧ s.task? k = none ∧ t.task? k = some m ∧ k / 512 = o.grove i ty ∧
          id / 2 ^ 16 % 512 = k % 512 ∧ id % 2 ^ 16 = m.seq % 2 ^ 16 ∧ m.inst = n ∧ m.rcd = c ∧ m.depth = s.depth ∧ m.ts = s.me.lts ∧
          t.mem = s.mem) ∧
    (∀ d a b l, r.op = .spawnk d a b l → s.live? r.y.toNat = none ∨ 2 ^ 20 ≤ r.y.toNat → tells 3) ∧
    (∀ d a x l desc n i m, r.op = .watch d a x l → r.desc = some desc → s.me.inst = some n → s.inst? n = some i → s.myTask = some m →
      let w := jobWalked s (wBase desc)
      let len := 2 ^ wLen desc
      let range := watchRange w w.asid s.me.heapBase.toNat s.me.heapLimit.toNat s.me.heapOff.toNat (wBase desc) len
      let within : Prop := ∃ g, g ∈ m.regions ∧ g.base ≤ wBase desc ∧ wBase desc + len ≤ g.base + g.len
      (∀ o, watchDescBad desc i.img.types.length = some o → A = some (w, BitVec.ofNat 64 (o * 256 + 2))) ∧
      (watchDescBad desc i.img.types.length = none →
        (range = none ∨ ¬ within → A = some (w, 2)) ∧
        ∀ pa, range = some pa → within →
          (freeWatch w w.die = none → A = some (w, 1)) ∧
          ∀ e, i.ended = false → freeWatch w w.die = some e →
            A = some ({ w with watches := Map.set w.watches (w.die * 1024 + e) ⟨n, false, pa, len, desc, false, 0, 0, [], 0, 0⟩ },
              BitVec.ofNat 64 ((w.die * 1024 + e) * 2 ^ 16)))) ∧
    (∀ d a l, r.op = .unwatch d a l →
      (Map.get? s.watches r.x.toNat = none → tells 3) ∧
      ∀ w, Map.get? s.watches r.x.toNat = some w →
        (s.me.inst = some w.inst → A = some ({ s with watches := Map.del s.watches r.x.toNat }, 0)) ∧
        (s.me.inst ≠ some w.inst → tells 4)) ∧
    (∀ d a l, r.op = .hnew d a l →
      let ldv := (bits r.x 12 4).toNat
      let ldk := (bits r.x 8 4).toNat
      let tiles := (bits r.x 0 6).toNat + 1
      let size := tiles * 2 ^ ldk * 2 ^ ldv * (if tst r.x 16 then 2 else 4)
      let n := (size + 1023) / 1024
      let bad : Prop := bits r.x 17 47 ≠ 0 ∨ bits r.x 6 2 ≠ 0 ∨ ldv < 3 ∨ 8 < ldv ∨ ldk < 3 ∨ 8 < ldk ∨ 4194304 < size
      (bad → tells 0x000C000000000002) ∧
      (¬ bad → n ≤ freeCharge s s.chip s.g ∨ tierRoom s s.chip n = true →
        ∃ t key o, A = some (t, handleOf key 0) ∧ t.obj? key = some o ∧ key / 2 ^ 32 = s.chip ∧ o.ldk = ldk ∧ o.ldv = ldv ∧
          o.tiles = tiles ∧ o.half = tst r.x 16 ∧ o.snaps = [] ∧ o.pins = 0 ∧ o.part = part ∧ o.live.length = n ∧
          (∀ u, u ∈ o.live → unitAt t u = 0) ∧ statesKept s t (some key) ∧ t.mem = s.mem ∧
          o.wh = if n ≤ freeCharge s s.chip s.g then .resident s.chip s.g else .tier s.chip)) ∧
    (∀ d a l, r.op = .hfree d a l →
      (lookHandle s part r.x = none → tells 3) ∧
      ∀ o us, lookHandle s part r.x = some (o, us) →
        (∀ c g c' g', o.wh = .moving c g c' g' → tells 5) ∧
        ((∀ c g c' g', o.wh ≠ .moving c g c' g') →
          (selOf r.x = 0 → o.pins ≠ 0 → tells 8) ∧
          (objBusy s (objKey r.x) = true → selOf r.x ≠ 0 ∨ o.pins = 0 → A = none) ∧
          (objBusy s (objKey r.x) = false → selOf r.x = 0 → o.pins = 0 →
            ∃ t, A = some (t, 0) ∧ t.obj? (objKey r.x) = none ∧ statesKept s t (some (objKey r.x)) ∧ t.mem = s.mem) ∧
          (objBusy s (objKey r.x) = false → selOf r.x ≠ 0 →
            ∃ t b, A = some (t, 0) ∧ t.obj? (objKey r.x) = some b ∧ b.live = o.live ∧ b.snaps = Map.del o.snaps (selOf r.x) ∧
              statesKept s t (some (objKey r.x)) ∧ t.mem = s.mem))) ∧
    (∀ d a l, r.op = .hpin d a l →
      (lookHandle s part r.x = none → tells 3) ∧
      ∀ o us, lookHandle s part r.x = some (o, us) → ∀ c g, o.wh = .resident c g →
        let full : Prop := o.pins = 255 ∨ 3072 < pinnedCharge s c g + if o.pins = 0 then charge s (objKey r.x) else 0
        (full → tells 7) ∧ (¬ full → A = some (s.setObj (objKey r.x) { o with pins := o.pins + 1 }, 0))) ∧
    (∀ d a l o us, r.op = .hpin d a l → lookHandle s part r.x = some (o, us) → o.pins ≠ 255 → (∀ c g, o.wh ≠ .resident c g) →
      tells 10) ∧
    (∀ d a b l, r.op = .pgready d a b l →
      (s.upcalls.find? (fun u => u.tok = r.x.toNat) = none → tells 3) ∧
      ∀ u, s.upcalls.find? (fun u => u.tok = r.x.toNat) = some u →
        (s.me.inst ≠ some u.inst → tells 4) ∧ (s.me.inst = some u.inst → 2 ≤ r.y.toNat → tells 2) ∧
        (s.me.inst = some u.inst → r.y.toNat < 2 → ∀ c x, u.waiters = [.ctx c x] →
          let k := s.ctxAt c x
          k.st = .parked → k.wait = .token u.tok → k.gang = false →
          ∃ t, A = some (t, 0) ∧ t.mem = s.mem ∧
            (r.y = 0 → (t.ctxAt c x).st = .running ∧ (t.ctxAt c x).ready = true ∧ (t.ctxAt c x).pc = k.pc ∧ (t.ctxAt c x).s = k.s ∧
              t.upcalls = s.upcalls.filter fun v => v.tok ≠ u.tok) ∧
            (r.y = 1 → ∀ n m, k.task = some n → s.task? n = some m → failedWith t n k.tcause))) ∧
    ∀ d a n l, r.op = .svc d a n l →
      let u := meetOut s
      let allowed : Bool := match s.myInst with | some i => qCtl i.desc | none => false
      (n.toNat = 0 ∨ 3 < n.toNat → A = some (s, BitVec.allOnes 64)) ∧
      (1 ≤ n.toNat → n.toNat ≤ 3 → allowed = false → ∃ t, A = some (t, 4) ∧ t.mem = s.mem ∧ t.meas = s.meas) ∧
      ∀ pa, allowed = true →
        (n.toNat = 2 → rangeWalks u r.x.toNat 4096 (fun a => (walkPoison u u.asid a).isSome) = false →
          svcBuffer u r.x.toNat 4096 4096 true = some [(.dev pa, 4096)] → bufBad u [(.dev pa, 4096)] = false →
          ∃ t, A = some (t, 0) ∧ sameBytes s t (fun b => b < pa ∨ pa + 0xF80 ≤ b) ∧
            let at_ (off n : Nat) : Nat := leNat (t.mem.readN (pa + off) n)
            at_ 0 4 = 1 ∧ at_ 4 2 = s.ifsel.toNat / 16 % 16 ∧ at_ 6 2 = s.ifsel.toNat % 16 ∧ at_ 8 8 = s.time.toNat ∧ (∀ i, i < 64 → t.mem.read (pa + 0x50 + i) = s.mem.read (pa + i)) ∧
            (∀ i : Fin 8, at_ (0x90 + 48 * i.val) 48 = (s.meas[i.val]).toNat) ∧ at_ 0x210 4 = s.remap.length % 2 ^ 32 ∧ at_ 0x214 4 = part.toNat ∧
            at_ 0x218 40 = 0) ∧
        (n.toNat = 3 → rangeWalks u r.x.toNat 56 (fun a => (walkPoison u u.asid a).isSome) = false →
          svcBuffer u r.x.toNat 56 1 false = some [(.dev pa, 56)] → bufBad u [(.dev pa, 56)] = false →
          let i := leNat (s.mem.readN pa 8)
          ∃ t, t.mem = s.mem ∧ (i < 4 ∨ 7 < i → A = some (t, 2) ∧ t.meas = s.meas) ∧
            (4 ≤ i → i ≤ 7 → A = some (t, 0) ∧ ∀ j : Fin 8, t.meas[j.val] =
              if j.val = i then Config.sha384 (leBytes 48 (s.meas[j.val]).toNat ++ s.mem.readN (pa + 8) 48) else s.meas[j.val]))

/-- Requests are answered, and do what they ask for (R282 to R311, R443, R447, R448). -/
def Obligations.RequestsAreAnswered : Prop := answersArrive ∧ requestEffects

/-- What SNAP, GDROP and CKPT are answered, and do (R296, R297, R299, R355): LIMIT with 64 generations taken, EXHAUSTED with
no pool space, else a number no generation had, now Cutting; NONE for a number that names none; BUSY while cutting; a drop
frees the generation unless a restore from it is outstanding; a drain starts for a live generation and a target that exists; CKPT is
REFUSED for a target that is out of range or not defined, and else BUSY while the generation is cutting or draining. -/
def Sys2Proof.Machine.generationRequests : Prop :=
  ∀ (s : State) (x y : W64),
    (gensTaken s = 64 → (snapAnswer s).2.toNat % 256 = Status.limit.num ∧ (snapAnswer s).1.gens = s.gens) ∧
    (gensTaken s < 64 → poolCap s ≤ s.copies.length →
      (snapAnswer s).2.toNat % 256 = Status.exhausted.num ∧ (snapAnswer s).1.gens = s.gens) ∧
    (gensTaken s < 64 → s.copies.length < poolCap s → ∃ n, n < 64 ∧ genTaken s n = false ∧
      (snapAnswer s).2 = BitVec.ofNat 64 (n * 256) ∧ ((snapAnswer s).1.genAt n).st = .cutting ∧
      ∀ m, m ≠ n → (snapAnswer s).1.genAt m = s.genAt m) ∧
    (genNamed s x = none → gdropAnswer s x = (s, Status.none.word) ∧ ckptAnswer s x y = (s, Status.none.word)) ∧
    ∀ n k, genNamed s x = some (n, k) →
      (k.st = .cutting → gdropAnswer s x = (s, Status.busy.word)) ∧
      (k.st ≠ .cutting → (gdropAnswer s x).2 = Status.ok.word ∧
        (rollOut s n = false → genTaken (gdropAnswer s x).1 n = false) ∧
        (rollOut s n = true → ((gdropAnswer s x).1.genAt n).dropped = true)) ∧
      (64 ≤ y.toNat ∨ Map.get? s.targets y.toNat = none → ckptAnswer s x y = (s, Status.refused.word)) ∧
      (k.st = .cutting ∨ k.st = .draining → y.toNat < 64 → (Map.get? s.targets y.toNat).isSome →
        ckptAnswer s x y = (s, Status.busy.word)) ∧
      (k.st = .live → y.toNat < 64 → (Map.get? s.targets y.toNat).isSome →
        (ckptAnswer s x y).2 = Status.ok.word ∧ ((ckptAnswer s x y).1.genAt n).st = .draining ∧
        ((ckptAnswer s x y).1.genAt n).target = y.toNat)

/-- Freezes and waits (R106, R109, R116, R241, R314): LANDING_DEADLINE starts to time a context whose landing cycle has passed
without its data, whose core then issues nothing; a refresh window's end lets its accesses go on; and a full-empty wait, a WAITB
or an SVC that has frozen its core for the limit ends without effect, its context with a cause of class 13 unless it has one that fails it
already; what the bundle of a full-empty wait has not yet done is done no more, the operations among it that a matrix unit has started
included. Of a gang's bundle that is the waiting core's part (DESIGN CHOICE, assumption log 107). -/
def Sys2Proof.Machine.freezesAndTimeouts : Prop :=
  ∀ s : State,
    let c := s.ev.a
    let x := s.ev.b
    let k := s.ctxAt c x
    (lateCtx s c x = true → k.frzSince = none →
      exec .landingDeadline s = .next (s.setCtx c x { k with frzSince := some s.time.toNat })) ∧
    (lateCtx s c x = true → x < 9 → k.gang = false → issueReady s c x = false) ∧
    (∃ t, exec .wsWindowEnd s = .next t ∧ t.mem = s.mem ∧ ∀ y, y < 9 →
      (t.ctxAt c y).frzUntil = (if (s.ctxAt c y).frzUntil ≤ s.time.toNat then 0 else (s.ctxAt c y).frzUntil) ∧
      (t.coreAt c).frzUntil = if (s.coreAt c).frzUntil ≤ s.time.toNat then 0 else (s.coreAt c).frzUntil) ∧
    (∀ (i : Instr) (code : Nat) (f : AccOp → Bool) (a : Acc),
      (i = .fullEmptyTimeout ∧ code = 0x40 ∧ f = feOp) ∨
        (i = .waitbTimeout ∧ code = 0x41 ∧ f = fun o => match o with | .waitb .. => true | _ => false) →
      lateAcc s c x f = some a → frozenLong s k = true →
      ∃ t, exec i s = .next t ∧ t.mem = s.mem ∧
        (t.ctxAt c x).err = (if failing k then k.err else some ⟨0, 13, code, a.slot, 0, 0, 0⟩) ∧
        (t.ctxAt c x).s = k.s ∧ (∀ b, b ∈ (t.ctxAt c x).accs → ¬ (b.ord = a.ord ∧ b.slot = a.slot)) ∧
        (i = .fullEmptyTimeout → (∀ b, b ∈ (t.ctxAt c x).accs → b.ord ≠ a.ord) ∧
          ∀ r, r ∈ (t.coreAt c).mrun → ¬ (r.1.x = x ∧ r.1.ord = a.ord))) ∧
    ∀ r d a n l, r ∈ k.reqs → r.op = .svc d a n l → r.bound ≤ (s.coreAt c).cyc → frozenLong s k = true →
      ∃ t, exec .svcTimeout s = .next t ∧ t.mem = s.mem ∧
        (t.ctxAt c x).err = (if failing k then k.err else some ⟨0, 13, 0x42, 0, 0, 0, 0⟩) ∧
        (t.ctxAt c x).reqs.length < k.reqs.length

/-- A first-level TLB miss is answered (R41, R99, R422, R426): from the grove's TLB; or by one walk, if it is among the 64 of the
die and its tables are not held, which answers every core of the die that waits for the page: both TLBs then hold the leaf that
allows the access; where no valid leaf is found the context takes a page fault of code 1, and where the leaf does not allow the
access one of code 2, of the slot, address and kind of the access; where the walk reads poison, the poison's class and code (the model's
reading, assumption log 101). -/
def Sys2Proof.Machine.walksComplete : Prop :=
  ∀ (s : State) (w : Walk),
    let c := s.ev.a
    let asid := ({ s with core := c, ctx := w.x } : State).asid
    let k := s.ctxAt c w.x
    let peers := (dieWalks s (dieOf (groveOf c))).filter fun e => e.2.2 = (asid, w.va / 4096)
    (s.coreAt c).walk = some w →
    (∀ e, groveHit s c w = some e → ∃ t, exec .walkComplete s = .next t ∧ (t.coreAt c).walk = none ∧ e ∈ (t.coreAt c).tlb ∧
      t.ctxs = s.ctxs ∧ t.mem = s.mem) ∧
    (groveHit s c w = none → walkServed s c w = true → walkHeld s asid w.va = false →
      ∃ t, exec .walkComplete s = .next t ∧ (t.coreAt c).walk = none ∧ (∀ e, e ∈ peers → (t.coreAt e.1).walk = none) ∧
        t.mem = s.mem ∧
        (∀ e, walk s asid w.va = some e → walkPoison s asid w.va = none → e.allows w = true → e ∈ (t.coreAt c).tlb ∧ e ∈ (t.groveAt (groveOf c)).tlb) ∧
        (peers = [(c, w, asid, w.va / 4096)] →
          (∀ e, walk s asid w.va = some e → e.allows w = true → walkPoison s asid w.va = none → t.ctxs = s.ctxs) ∧
          (k.st ≠ .ending → k.st ≠ .free → hasCause k = false →
            (∀ cls code, walkPoison s asid w.va = some (cls, code) → (t.ctxAt c w.x).err = some ⟨7, cls, code, w.slot, 0, 0, 0⟩) ∧
            (walkPoison s asid w.va = none →
            let fault (code : Nat) : Prop := (t.ctxAt c w.x).err =
              some ⟨7, 7, code, w.slot, w.va, if w.wr then (if w.rd then 2 else 1) else 0, 0⟩
            (walk s asid w.va = none → fault 1) ∧ ∀ e, walk s asid w.va = some e → e.allows w = false → fault 2))))

/-- A PHASE drain ends (R108): once its cycles have passed the new split and phase hold, the leased cache is empty and the drain is over;
until then nothing happens. -/
def Sys2Proof.Machine.phaseDrainEnds : Prop :=
  ∀ (s : State) (d : Drain), (s.groveAt s.ev.a).drain = some d →
    (d.till ≤ s.time.toNat → ∃ t, exec .phaseDrainEnd s = .next t ∧ (t.groveAt s.ev.a).drain = none ∧
      (t.groveAt s.ev.a).size = d.size ∧ (t.groveAt s.ev.a).phase = d.phase ∧ (t.groveAt s.ev.a).leased = [] ∧ t.mem = s.mem ∧ t.ctxs = s.ctxs) ∧
    (s.time.toNat < d.till → exec .phaseDrainEnd s = .next s)

/-- A TLB miss is answered and a PHASE drain ends (R99, R108, R422, R426). -/
def Obligations.WalksAndDrainsComplete : Prop := walksComplete ∧ phaseDrainEnds

/-- A CPY copies granule by granule (R125, R242, R244, R247): a granule of one aligned source piece in device memory is read
as the job's task sees it, and a granule read is written to its place, whose bytes alone change; the granule then counts as
delivered. A staged task's copy writes no byte of memory (R36), and what an attempt of one has left behind writes nowhere (R140). The order of granules is the schedule's (assumption log 18).
-/
def Obligations.CopyGranules : Prop :=
  ∀ (s : State) (j : Job) (sf : Bool) (c : CFlags) (a b l : SReg) (va len pa k : Nat) (x : W128),
    let u := s.atEv
    u.me.jobs = [j] → s.ev.c = 0 → j.op = .cpy sf c a b l → s.ev.d = k → k < 2 ^ 32 → j.tok = none → j.moving = false →
    (s.ev.f = true → j.read? k = none → j.has k = false → j.dropped k = false → k < j.count → k < j.p + 256 →
      jobBehind u j = false → j.srcs (fun i => u.free (7300 + i)) k = [.mem va len] → jobLeads u va len false = .ok (.dev pa) →
      jobPlace u (.dev pa) len false = none → poisonOf u (.dev pa) = none →
      ∃ t j', exec .jobGranuleWrite s = .next t ∧ t.mem = s.mem ∧ (t.ctxAt s.ev.a s.ev.b).jobs = [j'] ∧
        j'.read? k = some (ofLe 128 (readTask u (.dev pa) len)) ∧ j'.p = j.p) ∧
    (s.ev.f = false → j.read? k = some x → j.p ≤ k → k < j.p + 256 → j.dst k = .mem va len → len ≤ 16 →
      jobLeads u va len true = .ok (.dev pa) → jobPlace u (.dev pa) len true = none →
      ∃ t j', exec .jobGranuleWrite s = .next t ∧ (t.ctxAt s.ev.a s.ev.b).jobs = [j'] ∧ j'.has k = true ∧
        (u.staged = true → t.mem = s.mem) ∧
        (u.staged = false → u.discards = false → (∀ i, i < len → t.mem.read (pa + i) = bits x (8 * i) 8) ∧
          sameBytes s t (fun y => y < pa ∨ pa + len ≤ y)))

/-- How a job stops (R246 to R248, R426): on a page fault it is suspended on the pager's token, or ends where no pager serves the
page; on poisoned data, on bytes outside its footprint or on memory it may not reach it ends; and the task then takes the
cause, of the operation's slot. -/
def Sys2Proof.Machine.jobsFail : Prop :=
  ∀ (s : State) (u : State) (j : Job) (st : JobStep),
    jobOutcome s = some (u, j, st) → u.me.st = .running → hasCause u.me = false →
    let ends (e : Instr) (v : State) (cls code : Nat) : Prop := ∃ t, exec e s = .next t ∧ t.mem = v.mem ∧
      (t.ctxAt v.core v.ctx).err = some ⟨0, cls, code, j.slot, 0, 0, 0⟩ ∧
      ∀ i, i ∈ (t.ctxAt v.core v.ctx).jobs → ¬ (i.ord = j.ord ∧ i.slot = j.slot)
    (∀ va acc code v, st = .page va acc code → upcall u u.asid va 1 acc code (.job u.core u.ctx j.ord j.slot code) = (v, none) →
      ends .jobPageFault u 7 code) ∧
    (∀ va acc code v n, st = .page va acc code →
      upcall u u.asid va 1 acc code (.job u.core u.ctx j.ord j.slot code) = (v, some n) →
      ∃ t, exec .jobPageFault s = .next t ∧ t.mem = u.mem ∧ ∀ i, i ∈ (t.ctxAt u.core u.ctx).jobs →
        i.ord = j.ord → i.slot = j.slot → i.tok = some n) ∧
    (∀ v cls code, st = .bad v cls code → v.me = u.me → v.core = u.core → v.ctx = u.ctx → ends .jobDataError v cls code) ∧
    (∀ code, st = .foot code → ends .jobFootprintFault u 6 code) ∧
    (∀ code, st = .fail code → ends .jobFootprintFault u 3 code)

/-- A job that has performed all its writes completes (R246, R250): it is outstanding no more, and its slot is no longer being
filled. -/
def Sys2Proof.Machine.jobsComplete : Prop :=
  ∀ (s : State) (j : Job), s.atEv.me.jobs[s.ev.c]? = some j → j.finished = true →
    ∃ t, exec .jobComplete s = .next t ∧ t.mem = s.mem ∧
      (∀ i, i ∈ (t.ctxAt s.ev.a s.ev.b).jobs → ¬ (i.ord = j.ord ∧ i.slot = j.slot)) ∧
      ∀ n : Fin 16, fillOf j = some n.val → (s.coreAt s.ev.a).slots[n.val].fill = some j.ord →
        (t.coreAt s.ev.a).slots[n.val].fill = none

/-- How a job of the copy engine ends (R246 to R250, R426). -/
def Obligations.JobsEnd : Prop := jobsFail ∧ jobsComplete

/-- Acceptance (R22 to R27, R40, R342, R347): the first waiting record of an instance, or the record of a shoot whose turn it
is among those of its write, none that ranks after it having been accepted on this cycle, becomes a task in a free entry of its routed grove's table where there is room: its edges run from exactly those tasks of the instance there whose
footprints conflict or whose keys are equal, and it is Ready if there are none. -/
def Sys2Proof.Machine.recordsAreAccepted : Prop :=
  ∀ (s : State) (n : Nat) (i : Inst) (ty : TaskType) (o : Offer),
    s.inst? n = some i → i.img.types[o.rcd.typ.toNat]? = some ty → o.inst = n → offerRoom s o = true →
    (∀ e, e ∈ s.tasks → e.2.token = false) →
    let taken (t : State) : Prop := ∃ k m, s.task? k = none ∧ t.task? k = some m ∧ k / 512 = o.grove i ty ∧ m.inst = n ∧
      m.rcd = o.rcd ∧ m.key = o.key ∧ m.regions = regionsOf ty o.rcd ∧ m.depth = o.depth ∧
      (∀ e, e ∈ m.edges ↔ ∃ p, (e, p) ∈ s.tasks ∧ e / 512 = o.grove i ty ∧ p.inst = n ∧
        (conflict m.regions p.regions = true ∨ (o.key.isSome ∧ o.key = p.key))) ∧
      m.st = if m.edges = [] then .ready else .pending
    (∀ h rest, s.ev.f = false → s.ev.a = n → i.recs = h :: rest → inTurn s h.rank = true →
      o = mkOffer h.rank i n h.rcd h.creator h.depth h.ts →
      ∃ t, exec .taskRecordAccept s = .next t ∧ (t.inst? n).map (·.recs) = some rest ∧ taken t) ∧
    ∀ w p, Map.get? s.watches s.ev.a = some w → w.inst = n → i.ended = false → w.pend[s.ev.b]? = some p → offeredAfter s s.ev.a p = false → inTurn s 1 = true →
      o = ⟨1, n, shootRec w.desc p.i p.chg, shootKey w.desc p.i, 0, p.depth, p.ts⟩ →
      ∃ t w', exec .shootAccept s = .next t ∧ Map.get? t.watches s.ev.a = some w' ∧ w'.pend = w.pend.eraseIdx s.ev.b ∧
        w'.shoots = w.shoots + 1 ∧ taken t

/-- RATE_WINDOW_START (R344): in a new window every entry's count starts again, and nothing else of an entry changes. -/
def Sys2Proof.Machine.rateWindowsStart : Prop :=
  ∀ s : State, ∃ t, exec .rateWindowStart s = .next t ∧ t.mem = s.mem ∧ t.tasks = s.tasks ∧
    ∀ e, Map.get? t.watches e = (Map.get? s.watches e).map fun w =>
      if w.win = s.time.toNat / 700 then w else { w with win := s.time.toNat / 700, winCount := 0 }

/-- Records and shoots become tasks; a rate window starts (R22 to R27, R40, R344, R347). -/
def Obligations.RecordsAndShootsAccepted : Prop := recordsAreAccepted ∧ rateWindowsStart

/-- Dispatch (R19, R28, R60): the task that the unit chooses runs on its cores, each context with its coordinates, key,
argument and change count in s1 to s7, every other scalar register zero, its entry as the program counter, and its grants. -/
def Obligations.TasksAreDispatched : Prop :=
  ∀ (s : State) (k : Nat) (cs : List Nat) (x off : Nat) (m : Task) (ty : TaskType),
    nextDispatch s s.ev.a = some (k, cs, x, off) → s.task? k = some m → s.typeOf m = some ty → m.st = .ready →
    ∃ t m', exec .taskDispatch s = .next t ∧ t.task? k = some m' ∧ m'.st = .running ∧ m'.cores = cs ∧ m'.x = x ∧
      ∀ c, c ∈ cs →
        let q := t.ctxAt c x
        q.st = .running ∧ q.task = some k ∧ q.inst = some m.inst ∧ q.pc = ty.entry ∧ q.lts = m.ts ∧ q.fpflags = 0 ∧
        q.vGrant = ty.vDem ∧ q.aGrant = ty.aDem ∧ q.spOff = off ∧ q.spLen = ty.spad * 4096 ∧
        (q.ready = true ∨ (t.coreAt c).current = some x) ∧
        ∀ r : Fin 64, q.s[r.val] = match r.val with
          | 1 => m.rcd.c0.setWidth 64 | 2 => m.rcd.c1.setWidth 64 | 3 => m.rcd.c2.setWidth 64 | 4 => m.rcd.c3.setWidth 64
          | 5 => m.key.getD 0 | 6 => m.rcd.arg | 7 => m.rcd.chg.setWidth 64 | _ => 0

/-- Commit (R35, R36, R140): a task of one core whose context has met every condition commits: its tentative bytes are in
memory and no other byte changes; its entry and its context are free, and no task of its grove has an edge from it any more.
That all bytes are written in one step is the model's choice (assumption log 33). -/
def Obligations.TasksCommit : Prop :=
  ∀ (s : State) (n : Nat) (m : Task),
    let c := s.ev.a
    let x := s.ev.b
    x < 8 → (s.ctxAt c x).task = some n → s.task? n = some m → m.cores = [c] → m.x = x → ctxDone s c x = true →
    failedAcc (s.ctxAt c x) Acc.dropped = none → (s.ctxAt c x).saving = false → commitWaits s m = false →
    ∃ t, exec .taskCommit s = .next t ∧ t.task? n = none ∧ (t.ctxAt c x).st = .free ∧
      (∀ a, t.mem.read a = (Map.get? m.tent a).getD (s.mem.read a)) ∧
      ∀ e p, (e, p) ∈ t.tasks → e / 512 = n / 512 → n ∉ p.edges

/-- Gangs and pre-emption (R39, R62, R66, R69): a yielded gang that no interposed run delays runs again on every core; a context stopped
at a safe point, drained and quiet, runs its save routine, with its area in s8 and its trap registers naming class 14. The flags kept are
those at the safe point, before the save routine (assumption log 34); the save area of a second pre-emption is log 58; of two gangs on
one grove, log 70; and a gang that yielded at an MCLAIM, log 90: all four are the model's readings or choices. -/
def Obligations.GangsResumeAndContextsSave : Prop :=
  ∀ s : State,
    let x := s.ev.b
    ((s.groveAt s.ev.a).gangs.any (fun e => e.x = x && e.yielded && e.waiting.isEmpty) = true →
      (∀ i, i < 8 → let k := s.ctxAt (s.ev.a * 8 + i) x
        k.gang = true ∧ k.st = .running ∧ k.err = none ∧ k.ywJob = none ∧ (s.coreAt (s.ev.a * 8 + i)).current = none ∧
          coreFrozen s (s.ev.a * 8 + i) = false) →
      ∃ t, exec .gangResume s = .next t ∧ t.mem = s.mem ∧ ∀ i, i < 8 →
        (t.coreAt (s.ev.a * 8 + i)).current = some x ∧ (t.ctxAt (s.ev.a * 8 + i) x).ready = false ∧
        (t.ctxAt (s.ev.a * 8 + i) x).s = (s.ctxAt (s.ev.a * 8 + i) x).s) ∧
    ∀ (d : State) (e : Trap) (n q : Nat) (m : Task) (img : Image) (p : SafePt),
      let c := s.ev.a
      let k := d.ctxAt c x
      (s.ctxAt c x).gang = false → (s.ctxAt c x).err = some e → e.cls = 14 → drainAll s x [c] = some d → failedRead k = none →
      quiet d c x = true → k.task = some n → d.task? n = some m → k.safePt = some q → imageAt d c x = some img →
      img.safes[q]? = some p →
      ∃ t m', exec .preemption s = .next t ∧ t.mem = d.mem ∧ t.task? n = some m' ∧ m'.keptFlags = [k.fpflags] ∧
        let r := t.ctxAt c x
        r.pc = p.save ∧ r.saving = true ∧ r.err = none ∧ r.target = none ∧ r.delay = 0 ∧ r.taddr = k.pc ∧
          r.tcause = 0x0EFF0000 ∧ r.s[8] = areaOf m 0 ∧ ∀ i : Fin 64, i.val ≠ 8 → r.s[i.val] = k.s[i.val]

/-- HANG_DETECT (R42, R65, R263, R439): a task that has issued nothing for its grove's HANG cycles fails with class 13, code 1, its token
set. A parked one, which has drained, fails at once. A running or committing one that no cause of its own is failing already takes the
cause on its first core, waits no more for its suspended jobs, and fails once its cores have drained, the matrix operations that have not
completed among what they wait for; until then the cause stands. -/
def Sys2Proof.Machine.hungTasksFail : Prop :=
  ∀ (s : State) (m : Task), s.task? s.ev.a = some m →
    idleSince m + (s.groveAt (s.ev.a / 512)).hang.toNat ≤ s.time.toNat →
    let hang : Trap := ⟨0, 13, 1, 0xFF, 0, 0, 0⟩
    (m.st = .parked → ∃ t, exec .hangDetect s = .next t ∧ failedWith t s.ev.a 0x0DFF0001) ∧
    (m.st = .running ∨ m.st = .committing → ∀ c cs, m.cores = c :: cs → (∀ d, d ∈ m.cores → failing (s.ctxAt d m.x) = false) →
      ∃ u : State, exec .hangDetect s = .next (settleCause u c m.x) ∧ u.mem = s.mem ∧ u.tasks = s.tasks ∧ u.cores = s.cores ∧
        ∀ d, d ∈ m.cores → (u.ctxAt d m.x).err = (if d = c then some hang else none) ∧
          (u.ctxAt d m.x).jobs = (s.ctxAt d m.x).jobs.filter (fun j => j.tok.isNone) ∧ (u.ctxAt d m.x).s = (s.ctxAt d m.x).s) ∧
    ∀ (u : State) (c : Nat), (u.ctxAt c m.x).gang = false → (u.ctxAt c m.x).err = some hang →
      let v := endRun (u.setCtx c m.x (transferNow (u.ctxAt c m.x))) c m.x
      (drainAll v m.x [c] = none → settleCause u c m.x = v ∧ (v.ctxAt c m.x).err = some hang) ∧
      ∀ d n m', drainAll v m.x [c] = some d → (d.ctxAt c m.x).task = some n → d.task? n = some m' →
        failedWith (settleCause u c m.x) n 0x0DFF0001

/-- Freezes, the timeouts of waits and hung tasks (R42, R56, R114, R115, R220, R439). -/
def Obligations.TimeoutsAndHangs : Prop := freezesAndTimeouts ∧ hungTasksFail

/-- Moves of state objects (R325 to R327): a move whose room is there reserves it, a raise takes the room that it needs by now, and a move
whose room is reserved and whose object is idle completes: the object is at its new place, or leaves that grove again at once to make
room for what waits there. -/
def Obligations.ObjectsMove : Prop :=
  ∀ (s : State) (o : Obj), s.obj? s.ev.a = some o →
    (s.ev.f = false → roomReady s s.ev.a = true → exec .roomReserved s = .next (s.setObj s.ev.a { o with res := true, held := 0 })) ∧
    (∀ w chip g, s.ev.f = true → o.roomFor[s.ev.b]? = some w → o.wh = .resident chip g → w.got = false →
      let need := waiterNeed s w
      usedCharge s chip g + need ≤ 4096 →
      ∃ t o', exec .roomReserved s = .next t ∧ t.obj? s.ev.a = some o' ∧ o'.extra = o.extra + need ∧
        o'.roomFor[s.ev.b]? = some { w with need := need, got := true }) ∧
    ∀ c h c' g, o.wh = .moving c h c' g → (c, h) ≠ (c', g) → moveReady s s.ev.a = true →
      ∃ t o', exec .moveComplete s = .next t ∧ t.mem = s.mem ∧ t.obj? s.ev.a = some o' ∧
        (o'.res = false ∧ o'.wh = (if g = 127 then .tier c' else .resident c' g) ∨
          g ≠ 127 ∧ o'.wh = .moving c' g c' 127)

/-- Generations (R348, R349, R353, R355): a cut lies above every write timestamp issued and no later write is at or below it; the drain
of a checkpoint writes its target granule by granule, those of the scope that have versions in ascending order, with the generation's bytes, in host memory where the target lies
there (that the target's contents stand in State is log 47); and when all are written the
generation draws on its target, or has failed where poison was met. -/
def Sys2Proof.Machine.generationsCutAndDrain : Prop :=
  ∀ s : State,
    let n := s.ev.a
    let k := s.genAt n
    (k.st = .cutting → ∃ t, exec .snapCutComplete s = .next t ∧ t.mem = s.mem ∧ (t.genAt n).st = .live ∧
      (∀ e, e ∈ s.lines → e.2.1 < (t.genAt n).cut) ∧ s.floor < (t.genAt n).cut ∧
      ∀ lts pa, (t.genAt n).cut < storeTs t lts pa) ∧
    ∀ m, Map.get? s.targets k.target = some m →
      (scopeGrans s m).Pairwise (fun x y => x < y) ∧
      (∀ i, i ∈ scopeGrans s m ↔ 4096 * (i + 1) ≤ m.slen ∧ m.sbase / 4096 + i < devSize / 4096 ∧ versioned s (m.sbase / 4096 + i) = true) ∧
      (∀ i, k.st = .draining → (scopeGrans s m)[k.done]? = some i →
        let g := m.sbase / 4096 + i
        spanWaits s (g * 4096) 4096 = false → s.ev.d = 0 →
        ∃ t m', exec .ckptGranuleWrite s = .next t ∧ t.mem = s.mem ∧ (t.genAt n).done = k.done + 1 ∧
          Map.get? t.targets k.target = some m' ∧ (g, genGranule s n g) ∈ m'.data ∧
          (m.host = true → ∀ i, i < 4096 →
            hostByte t (m.base + 4096 * (g - m.sbase / 4096) + i) = bits (genGranule s n g) (8 * i) 8) ∧
          (t.genAt n).poisoned = (k.poisoned || (granulePoison s n g).isSome)) ∧
      (k.st = .draining → (scopeGrans s m).length ≤ k.done →
        ∃ t, exec .ckptDrainComplete s = .next t ∧ t.mem = s.mem ∧
          (t.genAt n).st = if k.poisoned then .failed else .checkpointed)

/-- Generations: their requests, their cuts and their checkpoints (R348 to R355). -/
def Obligations.GenerationsRun : Prop := generationRequests ∧ generationsCutAndDrain

/-! ## Packets, registers, requests and the hardware's own events (R392-R463) -/

/-- A packet has started: HEAD has risen past it, and it is under way on its queue at its position, for an instance where it has
one (R397, R401). -/
def Sys2Proof.Machine.begun (s t : State) (q : Nat) (i : Instr) (inst : Option Nat) : Prop :=
  (t.queueAt q).head = (s.queueAt q).head + 1 ∧ (t.queueAt q).fetched = none ∧
    (t.queueAt q).started = (s.queueAt q).started ++ [⟨(s.queueAt q).head.toNat, i, inst⟩]

/-- The packets (R397, R401 to R408), on the queue that starts them, Active or waiting and not held back by R403, each where
the conditions of its start hold. NOP starts, and HEAD is written to HEADADDR when one is set; SIGNAL performs its operation
on its word of memory; WAITSIG starts when its word compares true and waits otherwise; WRENQ copies its payload and raises its
target's TAIL; PREEMPT, RESTORE and ENDINST act on their instance, and a queue without CTL may use none of them; LAUNCH is
admitted as a new instance, and one that fails a check starts nothing. A packet held back waits. A packet that completes at its
start (`passPacket`) leaves the ring, with a record where CPL asks for one. LAUNCH's checks are those of `checkLaunch` (assumption
logs 14, 55), and that its tasks start above what has completed before is log 97. -/
def Obligations.PacketsStart : Prop :=
  ∀ (s : State) (q : Nat) (h : PktHdr), s.queue = q → (s.queueAt q).st = .active ∨ (s.queueAt q).st = .waiting →
    let k := s.queueAt q
    let asid := asidOf k.desc
    let free (i : Instr) : Prop := packetBlocked s q i = false
    let plain : Prop := qHeadAddr k.desc = 0
    (∀ i, i = .nopPacket h ∨ (∃ a b n c d e, i = .launch h a b n c d e) ∨ (∃ a v c o, i = .signal h a v c o) ∨
        (∃ a v c o, i = .waitsig h a v c o) ∨ (∃ a b n t v, i = .wrenq h a b n t v) ∨ (∃ n, i = .preempt h n) ∨
        (∃ n, i = .restore h n) ∨ (∃ n, i = .endinst h n) →
      exec i s = .next (startPacket s q i) ∧ (packetBlocked s q i = true → exec i s = .next (waitQueue s q))) ∧
    (∀ (v : State) (i : Instr) (c n : Nat),
      let j := v.queueAt q
      let t := passPacket v q i c n
      let at_ := qCpl j.desc + 32 * (j.ctail.toNat % 2 ^ qClog j.desc)
      let r := t.queueAt q
      r.head = j.head + 1 ∧ r.fetched = none ∧ r.started = j.started ∧
      (qHeadAddr j.desc = 0 → (hdrOf i).cpl = false → c = 0 → t.mem = v.mem ∧ r.ctail = j.ctail) ∧
      (∀ pa, qHeadAddr j.desc ≠ 0 → (hdrOf i).cpl = false → c = 0 → j.held = [] → qHeadAddr j.desc % 4096 + 8 ≤ 4096 →
        feWalks v (asidOf j.desc) (qHeadAddr j.desc) 8 = false →
        feResolve v (asidOf j.desc) (qHeadAddr j.desc) false true = .ok (.dev pa) →
        feWriteHeld v (asidOf j.desc) (qHeadAddr j.desc) 8 = false →
        leNat (t.mem.readN pa 8) = (j.head + 1).toNat ∧ sameBytes v t (fun a => a < pa ∨ pa + 8 ≤ a)) ∧
      ∀ pa, qHeadAddr j.desc = 0 → (hdrOf i).cpl = true ∨ c ≠ 0 → sigOf i = 0 → j.held = [] → at_ % 4096 + 32 ≤ 4096 →
        feWalks v (asidOf j.desc) at_ 32 = false → feResolve v (asidOf j.desc) at_ false true = .ok (.dev pa) →
        feWriteHeld v (asidOf j.desc) at_ 32 = false →
        r.ctail = j.ctail + 1 ∧ sameBytes v t (fun a => a < pa ∨ pa + 32 ≤ a) ∧
        t.mem.readN pa 32 = recordBytes j.head.toNat (packetTag i).1 0 (packetTag i).2 c 0 0 n v.time.toNat 0) ∧
    (free (.nopPacket h) → exec (.nopPacket h) s = .next (passPacket s q (.nopPacket h) 0 0)) ∧
    (∀ addr val sc op pa, free (.signal h addr val sc op) → walkHeld s asid addr.toNat = false →
      feResolve s asid addr.toNat true true = .ok (.dev pa) →
      poisonOf s (.dev pa) = none → placeWaits s (.dev pa) = false → placeHeld s (.dev pa) = false →
      (wideScope sc = true → ∀ w, w ∈ s.redWins → w.2.held = []) →
      let x := leNat (s.mem.readN pa 8)
      ∃ v, exec (.signal h addr val sc op) s = .next (passPacket v q (.signal h addr val sc op) 0 0) ∧
        (v.queueAt q).head = k.head ∧ (v.queueAt q).started = k.started ∧ (v.queueAt q).desc = k.desc ∧
        leNat (v.mem.readN pa 8) = (match op with
          | .store => val.toNat | .add => (x + val.toNat) % 2 ^ 64 | .umax => Nat.max x val.toNat) ∧
        sameBytes s v (fun a => a < pa ∨ pa + 8 ≤ a)) ∧
    (∀ addr val sc op p, free (.waitsig h addr val sc op) → walkHeld s asid addr.toNat = false →
      feResolve s asid addr.toNat true false = .ok p →
      feSpoiled s p = false → placeWaits s p = false →
      let x := leNat (readPlace s p 8)
      let yes : Prop := match op with | .geu => val.toNat ≤ x | .eq => x = val.toNat | .ne => x ≠ val.toNat
      (yes → ∃ v, exec (.waitsig h addr val sc op) s = .next (passPacket v q (.waitsig h addr val sc op) 0 0) ∧
        v.queues = s.queues ∧ v.mem = s.mem) ∧
      (¬ yes → ∃ v, exec (.waitsig h addr val sc op) s = .next (waitQueue v q) ∧ v.queues = s.queues ∧ v.mem = s.mem)) ∧
    (∀ src dst len tq x v, free (.wrenq h src dst len tq x) → (s.queueAt tq.toNat).st ≠ .disabled →
      qDevenq (s.queueAt tq.toNat).desc = true → qPart (s.queueAt tq.toNat).desc = qPart k.desc →
      feWalks s asid src.toNat len.toNat = false → feWalks s asid dst.toNat len.toNat = false →
      payloadFault s asid src.toNat dst.toNat len.toNat = none → payloadHeld s asid src.toNat dst.toNat len.toNat = false →
      copyPayload (feWalked (feWalked s asid src.toNat len.toNat) asid dst.toNat len.toNat) asid src.toNat dst.toNat len.toNat
        (granCount dst.toNat len.toNat) 0 = (v, true) →
      let u := bellWrite v tq.toNat 0 x
      exec (.wrenq h src dst len tq x) s = .next (passPacket u q (.wrenq h src dst len tq x) 0 0) ∧ u.mem = v.mem ∧
        (u.queueAt tq.toNat).tail.toNat = Nat.max (v.queueAt tq.toNat).tail.toNat x.toNat ∧
        ∀ a b, src.toNat % 16 + len.toNat ≤ 16 → dst.toNat % 16 + len.toNat ≤ 16 →
          feResolve s asid src.toNat true false = .ok (.dev a) → feResolve s asid dst.toNat false true = .ok (.dev b) →
          ∀ i, i < len.toNat → v.mem.read (b + i) = s.mem.read (a + i)) ∧
    (∀ n m, s.live? (BitVec.toNat n) = some m → qCtl k.desc = true → instPart s n.toNat = qPart k.desc → plain →
      (free (.preempt h n) → m.noPre = false → qClass m.desc ≠ 2 →
        ∃ t, exec (.preempt h n) s = .next t ∧ begun s t q (.preempt h n) (some n.toNat) ∧
          t.inst? n.toNat = some { m with preempting := some (q, k.head.toNat) } ∧
          ∀ j e, t.task? j = some e → e.inst = n.toNat → e.preempt = decide (e.st = .running)) ∧
      (free (.restore h n) → exec (.restore h n) s =
        .next (passPacket (s.setInst n.toNat { m with preempting := none }) q (.restore h n) 0 n.toNat)) ∧
      (free (.endinst h n) → ∃ t, exec (.endinst h n) s = .next t ∧
        ((∀ e, e ∈ s.tasks → e.2.inst ≠ n.toNat) → (∀ u, u ∈ s.upcalls → u.inst ≠ n.toNat) →
          begun s t q (.endinst h n) (some n.toNat) ∧ (∀ e, e ∈ t.watches → e.2.inst ≠ n.toNat) ∧
          ∃ m', t.inst? n.toNat = some m' ∧ m'.ended = true ∧ m'.recs = [] ∧ (m.cause = 0 → m.endSt = .none → m'.endSt = .ended)))) ∧
    (∀ n i, i = .preempt h n ∨ i = .restore h n ∨ i = .endinst h n → free i →
      (s.live? (BitVec.toNat n) = none → exec i s = .next (passPacket s q i 8 n.toNat)) ∧
      ((s.live? n.toNat).isSome → qCtl k.desc = false → exec i s = .next (passPacket s q i 9 n.toNat))) ∧
    ∀ img rc nrec lblk deadline sig v,
      let i := Instr.launch h img rc nrec lblk deadline sig
      free i → (∀ r, r ∈ launchRanges s q i → feHeld s asid r.1 r.2 = false) →
      (∀ l, checkLaunch s q i = (v, .ok l) → admissible v q l = true →
        qClass k.desc ≠ 2 ∨ inTime v l.img deadline.toNat = true →
        ∃ t m, exec i s = .next t ∧ begun s t q i (some (freeInst v)) ∧
          t.inst? (freeInst v) = some m ∧ m.img = l.img ∧ m.queue = q ∧ m.desc = k.desc ∧ m.pos = k.head.toNat ∧ m.heapBase = l.base ∧
          m.heapLimit = l.limit ∧ m.heapOff = l.off ∧ m.recs = l.recs.map (fun r => ⟨0, r, 0, 0, v.outTs⟩)) ∧
      (∀ l, checkLaunch s q i = (v, .ok l) → admissible v q l = false → exec i s = .next (waitQueue v q)) ∧
      ∀ d, checkLaunch s q i = (v, .error d) →
        ∃ t, exec i s = .next t ∧ (t.queueAt q).head = k.head ∧ (t.queueAt q).started = k.started

/-- The front end's events (R16, R373 to R376, R396 to R402, R409, R466). PACKET_FETCH reads the header at HEAD: one whose SEQ is
its position plus 1 is taken, another is not yet published; then it reads the other 56 bytes, and the packet is fetched. PACKET_START, LAUNCH_ADMIT and WAITSIG_POLL start a fetched
packet in its fetcher's turn. PACKET_COMPLETE takes a packet that completes off its queue; INSTANCE_END_OF_LIFE takes an
instance that is over, its tasks and its dictionary; a write kept back is made, a record with the time of the write; a budget
overrun ends its instance and freezes its queue. A kept record takes its slot and its time when it is written (assumption log 63), and
a queue in any state but Halted writes what it has kept (log 67): both are the model's readings. -/
def Obligations.FrontEndEvents : Prop :=
  ∀ s : State,
    let q := s.ev.a
    let k := s.queueAt q
    let asid := asidOf k.desc
    let at_ := qRing k.desc + 64 * (k.head.toNat % 2 ^ qLog k.desc)
    (∀ p, k.st = .active ∨ k.st = .publishWait → k.fetched = none → k.head.toNat < k.tail.toNat → launchWaits s q = false →
      walkHeld s asid (if k.hdr.isSome then at_ + 8 else at_) = false →
      feResolve s asid (if k.hdr.isSome then at_ + 8 else at_) true false = .ok p → placeWaits s p = false →
      let va := if k.hdr.isSome then at_ + 8 else at_
      let v := checkHbm (walkCount s asid va) p (hbmCheck s.ev.d)
      let w : W64 := BitVec.ofNat 64 (leNat (readPlace v p 8))
      let seq := (PF.ofWord (w.setWidth 512)).hdr.seq
      poisonOf v p = none → refusedAway p (hbmCheck s.ev.d) = false →
      (k.hdr = none → seq ≠ BitVec.ofNat 32 (k.head.toNat + 1) →
        ∃ t, exec .packetFetch s = .next t ∧ t.queueAt q = { k with st := .publishWait } ∧ t.mem = s.mem) ∧
      (k.hdr = none → seq = BitVec.ofNat 32 (k.head.toNat + 1) →
        ∃ t, exec .packetFetch s = .next t ∧ t.queueAt q = { k with st := .active, hdr := some w } ∧ t.mem = s.mem) ∧
      ∀ hdr i, k.hdr = some hdr →
        decodePacket (qVer k.desc) (PF.ofWord (BitVec.ofNat 512 (hdr.toNat + leNat (readPlace v p 56) * 2 ^ 64))) = .ok i →
        ∃ t, exec .packetFetch s = .next t ∧ t.queueAt q = { k with st := .active, hdr := none, fetched := some i } ∧
          t.mem = s.mem) ∧
    (∀ i, k.fetched = some i → wouldStart s q = true → fetcherPick s (q % 8) = some q →
      let v : State := { s with fetchers := Map.set s.fetchers (q % 8) (q / 8) }
      exec .packetStart s = .next (startPacket v q i) ∧
      (∀ h a b n c d e, i = .launch h a b n c d e → k.st = .waiting → exec .launchAdmit s = .next (startPacket v q i)) ∧
      ∀ h a x c o, i = .waitsig h a x c o → k.st = .waiting → exec .waitsigPoll s = .next (startPacket v q i)) ∧
    (∀ p c, k.started.filter (fun (r : Started) => r.pos = s.ev.b) = [p] → completion s p = some c →
      ∃ t, exec .packetComplete s = .next t ∧ (t.queueAt q).started = k.started.erase p ∧
        (t.queueAt q).head = k.head) ∧
    (∀ i, s.inst? q = some i → instOver (dropStatics s q) q i = true →
      ∃ t, exec .instanceEndOfLife s = .next t ∧ t.inst? q = none ∧ (∀ e, e ∈ t.tasks → e.2.inst ≠ q) ∧
        ∀ g r, r ∈ (t.groveAt g).dict → r.inst ≠ q) ∧
    (∀ w pa, k.st ≠ .halted → k.held = [w] → k.token = none → w.addr k % 4096 + (stampRecord s w).length ≤ 4096 →
      feWalks s asid (w.addr k) w.data.length = false →
      feResolve s asid (w.addr k) false true = .ok (.dev pa) → feWriteHeld s asid (w.addr k) w.data.length = false →
      ∃ t, exec .frontEndWriteFault s = .next t ∧ (t.queueAt q).held = [] ∧
        (t.queueAt q).ctail = (if w.ctail then k.ctail + 1 else k.ctail) ∧
        (∀ i (h : i < (stampRecord s w).length), t.mem.read (pa + i) = (stampRecord s w)[i]'h) ∧
        sameBytes s t (fun a => a < pa ∨ pa + (stampRecord s w).length ≤ a)) ∧
    ∀ i, s.inst? q = some i → i.reserved = true → i.ended = false → (∃ e, e ∈ i.charged ∧ i.img.fbud < e.2) →
      ∃ t, exec .budgetExceed s = .next t ∧
        (i.cause = 0 → i.endSt = .none → (∀ e, e ∈ s.tasks → e.2.inst ≠ q) → (∀ u, u ∈ s.upcalls → u.inst ≠ q) →
          ∃ i', t.inst? q = some i' ∧ i'.ended = true ∧ i'.endSt = .budget ∧ i'.recs = [] ∧
            (i.froze = false → (s.queueAt i.queue).st ≠ .disabled → (t.queueAt i.queue).st = .frozen))

/-- The host's register writes (R392 to R395, R399, R444): until BAR0 opens none has an effect; TAIL and CPLHEAD rise to the value
written and never fall; CTRL enables a disabled queue of a valid descriptor under an agreed interface, disables a queue, skips
a halted queue's packet, and unfreezes; what a queue has kept it keeps (assumption log 67); IFSEL.DONE is set for version 1 of both interfaces alone; another write changes a word
of a disabled queue's descriptor. -/
def Obligations.QueueRegisters : Prop :=
  ∀ (s : State) (q : Nat) (v : W64), q < 1024 →
    let k := s.queueAt q
    (s.booted = false → ∀ i, i = .tail q v ∨ i = .cplhead q v ∨ i = .queueEnable q ∨ i = .queueDisable q ∨ i = .queueSkip q ∨
      i = .queueUnfreeze q ∨ i = .ifsel v ∨ i = .registerWrite q v → exec i s = .next s) ∧
    (s.booted = true →
      (∃ t x, exec (.tail q v) s = .next t ∧ t.queueAt q = { k with tail := x } ∧ x.toNat = Nat.max k.tail.toNat v.toNat ∧
        t.mem = s.mem) ∧
      (∃ t x, exec (.cplhead q v) s = .next t ∧ t.queueAt q = { k with chead := x } ∧
        x.toNat = Nat.max k.chead.toNat v.toNat ∧ t.mem = s.mem) ∧
      (∃ t, exec (.queueEnable q) s = .next t ∧ t.mem = s.mem ∧ (k.st ≠ .disabled → t = s) ∧
        (k.st = .disabled →
          let ok := tst s.ifsel 8 && descOk k.desc && (qVer k.desc = 1 || qVer k.desc = 2) && qFmt k.desc = 1
          (ok = true → let r := t.queueAt q
            r.head = 0 ∧ r.tail = 0 ∧ r.ctail = 0 ∧ r.chead = 0 ∧ r.desc = k.desc ∧ r.held = k.held ∧
            (k.held = [] → r.st = .active)) ∧
          (ok = false → t.queueAt q = { k with detail := 0x40 }))) ∧
      (∃ t, exec (.queueDisable q) s = .next t ∧ t.queueAt q = { k with st := .disabled, hdr := none, fetched := none } ∧
        t.insts = s.insts ∧ t.tasks = s.tasks ∧ t.mem = s.mem) ∧
      (∃ t, exec (.queueSkip q) s = .next t ∧ (k.st ≠ .halted → t = s) ∧
        (k.st = .halted → (t.queueAt q).head = k.head + 1 ∧ (t.queueAt q).started = k.started ∧
          (qHeadAddr k.desc = 0 → k.held = [] → (t.queueAt q).st = .active))) ∧
      (∃ t, exec (.queueUnfreeze q) s = .next t ∧ (k.st ≠ .halted → k.st ≠ .frozen → t = s) ∧
        (k.st = .halted ∨ k.st = .frozen → (t.queueAt q).head = k.head ∧ (k.held = [] → (t.queueAt q).st = .active))) ∧
      (∃ t, exec (.ifsel v) s = .next t ∧ bits t.ifsel 0 8 = bits v 0 8 ∧
        tst t.ifsel 8 = (tst v 8 && bits v 0 4 = 1 && bits v 4 4 = 1) ∧ bits t.ifsel 9 55 = 0) ∧
      ∀ n, n < 8 → k.st = .disabled → ∃ t, exec (.registerWrite (64 * q + 8 * n) v) s = .next t ∧
        bits (t.queueAt q).desc (64 * n) 64 = v ∧
        ∀ m, m < 8 → m ≠ n → bits (t.queueAt q).desc (64 * m) 64 = bits k.desc (64 * m) 64)

/-- Nothing holds the write of a pending request's STATUS: no controller, and no version that it replaces (R351, R428). -/
def Sys2Proof.Machine.statusFree (s : State) (p : Pending) : Prop :=
  spanWaits s p.blk 64 = false ∧
    ∀ i, i < 2 → ∀ e, e ∈ s.gens → e.2.holds = true → e.2.cut < versionTs s (p.blk / 4096 + i)

/-- The event e of a request pending as j completes it: it is pending no more, its STATUS byte is x (R283, R418), and what `f`
says of the next state holds. -/
def Sys2Proof.Machine.answers (e j : Instr) (s : State) (x : Status) (f : State → Prop) : Prop :=
  ∀ p, pendingReq s j = some p → statusFree s p → ∃ t, exec e s = .next t ∧ t.reqs = s.reqs.erase p ∧
    t.mem.read (p.blk + 1) = BitVec.ofNat 8 x.num ∧ sameBytes s t (fun a => a ≠ p.blk + 1) ∧ f t

/-- The request blocks of drivers and operators (R419, R424, R425, R428, R431, R432, R435, R436, R449 to R451, R461, R463):
with operands in their ranges each has its effect, and its STATUS answers; with operands out of them it is REFUSED, and what is in
use makes it BUSY; SHOOT, RETIRE and a shrink answer later, once their
work is done. TELEM's range and the pool's limit are the model's readings (assumption logs 49, 50). -/
def Obligations.RequestBlocks : Prop :=
  ∀ s : State,
    let r := s.req
    let n := r.w1.toNat
    let big (x : W64) : Prop := x.toNat % 4096 = 0
    let dropped := ((s.cores.flatMap fun c => c.2.tlb) ++ s.groves.flatMap fun g => g.2.tlb).filter (shot r)
    (big r.w2 → answers .root .root s .ok fun t =>
      Map.get? t.roots n = if r.w2 = 0 then none else some r.w2.toNat) ∧
    (¬ big r.w2 → answers .root .root s .refused fun t => t.roots = s.roots) ∧
    (∀ p, big r.w2 → big r.w3 → pendingReq s .shoot = some p → ∃ t, exec .shoot s = .next t ∧ t.mem = s.mem ∧
      t.reqs = s.reqs.map (fun q => if q.op = .shoot ∧ q.req = r then
        { q with shot := q.shot ++ dropped.filter fun e => !q.shot.contains e } else q) ∧
      (∀ c e, e ∈ (t.coreAt c).tlb ↔ e ∈ (s.coreAt c).tlb ∧ shot r e = false) ∧
      ∀ g e, e ∈ (t.groveAt g).tlb ↔ e ∈ (s.groveAt g).tlb ∧ shot r e = false) ∧
    (big r.w2 → big r.w3 → (∀ c, c ∈ s.cores → ∀ e, e ∈ c.2.tlb → shot r e = false) →
      (∀ g, g ∈ s.groves → ∀ e, e ∈ g.2.tlb → shot r e = false) → (∀ p, pendingReq s .shoot = some p → shootWaits s p = false) →
      answers .shootComplete .shoot s .ok fun _ => True) ∧
    (∀ i, s.live? r.w4.toNat = some i → big r.w2 → big r.w3 → r.w5.toNat < i.img.types.length →
      (∀ g, g ∈ s.regions → g.asid = n → overlap g.base g.len r.w2.toNat r.w3.toNat = false) →
      answers .pgreg .pgreg s .ok fun t =>
        t.regions = s.regions ++ [⟨n, r.w2.toNat, r.w3.toNat, r.w4.toNat, r.w5.setWidth 16, r.w6⟩]) ∧
    (s.live? r.w4.toNat = none → answers .pgreg .pgreg s .none fun t => t.regions = s.regions) ∧
    (big r.w2 → (∃ g, g ∈ s.regions ∧ g.asid = n ∧ g.base = r.w2.toNat ∧ (s.live? g.inst).isSome) → answers .pgunreg .pgunreg s .ok fun t =>
      ∀ g, g ∈ t.regions ↔ g ∈ s.regions ∧ ¬ (g.asid = n ∧ g.base = r.w2.toNat)) ∧
    ((∀ g, g ∈ s.regions → g.asid = n → g.base = r.w2.toNat → s.live? g.inst = none) →
      answers .pgunreg .pgunreg s .none fun t => t.regions = s.regions) ∧
    (n * 65536 ≤ devSize → s.poolFrames ≤ n → answers .gpool .gpool s .ok fun t => t.poolFrames = n) ∧
    (n * 65536 ≤ devSize → n < s.poolFrames → n * 16 < s.copies.length →
      answers .gpool .gpool s .busy fun t => t.poolFrames = s.poolFrames) ∧
    (n * 65536 ≤ devSize → n < s.poolFrames → s.copies.length ≤ n * 16 →
      answers .gpoolShrinkComplete .gpool s .ok fun t => t.poolFrames = n) ∧
    (big r.w3 → big r.w4 → big r.w5 → big r.w6 → r.w4 ≠ 0 → r.w6.toNat ≤ r.w4.toNat → r.w2 = 1 → targetUsed s n = false →
      answers .ckreg .ckreg s .ok fun t =>
        Map.get? t.targets n = some ⟨true, r.w3.toNat, r.w4.toNat, r.w5.toNat, r.w6.toNat, [], []⟩) ∧
    (big r.w3 → big r.w4 → big r.w5 → big r.w6 → r.w4 ≠ 0 → r.w6.toNat ≤ r.w4.toNat → r.w2 = 0 →
      (r.w3.toNat + r.w4.toNat ≤ Config.ckptArea → targetUsed s n = false → answers .ckreg .ckreg s .ok fun t =>
        Map.get? t.targets n = some ⟨false, r.w3.toNat, r.w4.toNat, r.w5.toNat, r.w6.toNat, [], []⟩) ∧
      (Config.ckptArea < r.w3.toNat + r.w4.toNat → answers .ckreg .ckreg s .refused fun t => t.targets = s.targets)) ∧
    (big r.w3 → big r.w5 → big r.w6 → r.w4 = 0 →
      (targetUsed s n = false → answers .ckreg .ckreg s .ok fun t =>
        Map.get? t.targets n = none ∧ ∀ k, k ≠ n → Map.get? t.targets k = Map.get? s.targets k) ∧
      (targetUsed s n = true → answers .ckreg .ckreg s .busy fun t => t.targets = s.targets)) ∧
    (¬ big r.w3 ∨ ¬ big r.w4 ∨ ¬ big r.w5 ∨ ¬ big r.w6 ∨ r.w4 ≠ 0 ∧ r.w4.toNat < r.w6.toNat →
      answers .ckreg .ckreg s .refused fun t => t.targets = s.targets) ∧
    (big r.w3 → big r.w4 → r.w5 = 1 ∨ r.w5 = 3 → answers .exportReq .exportReq s .ok fun t =>
      Map.get? t.exports n = some ⟨r.w2.toNat, r.w3.toNat, r.w4.toNat, decide (r.w5 = 3)⟩) ∧
    (big r.w3 → big r.w4 → r.w5 = 0 → answers .exportReq .exportReq s .ok fun t =>
      Map.get? t.exports n = none ∧ ∀ k, k ≠ n → Map.get? t.exports k = Map.get? s.exports k) ∧
    (¬ big r.w3 ∨ ¬ big r.w4 ∨ r.w5 = 2 → answers .exportReq .exportReq s .refused fun t => t.exports = s.exports) ∧
    (big r.w3 → r.w4.toNat % 65536 = 0 → 64 ≤ r.w6.toNat → r.w6.toNat ≤ 65536 → Map.get? s.redWins n = none →
      answers .rwin .rwin s .ok fun t =>
        Map.get? t.redWins n = some ⟨r.w2.toNat, r.w3.toNat, r.w4.toNat, r.w5.toNat, r.w6.toNat, []⟩) ∧
    (∀ w, Map.get? s.redWins n = some w →
      (big r.w3 → r.w4.toNat % 65536 = 0 → 64 ≤ r.w6.toNat → r.w6.toNat ≤ 65536 → w.held ≠ [] →
        answers .rwin .rwin s .busy fun t => t.redWins = s.redWins)) ∧
    (¬ big r.w3 ∨ r.w4.toNat % 65536 ≠ 0 ∨ r.w6.toNat < 64 ∨ 65536 < r.w6.toNat →
      answers .rwin .rwin s .refused fun t => t.redWins = s.redWins) ∧
    (n * 65536 < devSize → frameRetired s n = true → answers .retire .retire s .ok fun t => t.retiring = s.retiring) ∧
    (∀ p, pendingReq s .retire = some p → n * 65536 < devSize → frameRetired s n = false →
      (∀ e, e ∈ s.retiring → e.frame ≠ n) → poolFrame s n = false → 0 < s.spares → ∃ t, exec .retire s = .next t ∧ t.reqs = s.reqs ∧
        t.spares = s.spares - 1 ∧ (∃ e, t.retiring = s.retiring ++ [e] ∧ e.frame = n) ∧ t.mem = s.mem) ∧
    (n * 65536 < devSize → frameRetired s n = false → (∀ e, e ∈ s.retiring → e.frame ≠ n) → poolFrame s n = true →
      s.copies.length ≤ (s.poolFrames - 1) * 16 →
      answers .retire .retire s .ok fun t => t.poolFrames = s.poolFrames - 1 ∧ t.poolGone = n :: s.poolGone) ∧
    (s.reqs.any (fun p => p.op = .grovecfg && p.req = r && p.began) = false →
      (∀ p, pendingReq s .grovecfg = some p →
        ∀ g, g ∈ namedGroves r → reservedBy s (r.w3.setWidth 4) g = false ∧ groveBusy s p g = false) →
      (∀ e, e ∈ s.objs → (∀ g, g ∈ namedGroves r → objectAt s g e.2 = false) ∨ e.2.part = r.w3.setWidth 4) →
      answers .grovecfg .grovecfg s .ok fun t => ∀ g,
        (t.groveAt g).part = (if g ∈ namedGroves r then r.w3.setWidth 4 else (s.groveAt g).part) ∧
        (t.groveAt g).prot = (if g ∈ namedGroves r then tst r.w3 8 else (s.groveAt g).prot)) ∧
    (big r.w1 → n + 8192 ≤ devSize → 100 ≤ r.w2.toNat → r.w2.toNat ≤ 1000000 → answers .telem .telem s .ok fun t =>
      t.telemPa = n ∧ t.telemEvery = r.w2.toNat ∧ t.telemLast = s.time.toNat) ∧
    (¬ big r.w1 ∨ devSize < n + 8192 ∨ r.w2.toNat < 100 ∨ 1000000 < r.w2.toNat → answers .telem .telem s .refused fun t =>
      t.telemPa = s.telemPa ∧ t.telemEvery = s.telemEvery ∧ t.telemLast = s.telemLast) ∧
    (1200 ≤ n → n ≤ 2800 → 350 ≤ r.w2.toNat → r.w2.toNat ≤ 700 → r.w2.toNat % 25 = 0 → answers .power .power s .ok fun t =>
      t.plim = n ∧ t.fmax = r.w2.toNat ∧ t.mhz = Nat.min s.mhz r.w2.toNat) ∧
    (n < 1200 ∨ 2800 < n ∨ r.w2.toNat < 350 ∨ 700 < r.w2.toNat ∨ r.w2.toNat % 25 ≠ 0 → answers .power .power s .refused fun t =>
      t.plim = s.plim ∧ t.fmax = s.fmax ∧ t.mhz = s.mhz) ∧
    (65536 ≤ r.w3.toNat → r.w3.toNat < 2 ^ 32 → answers .hang .hang s .ok fun t => ∀ g,
      (t.groveAt g).hang = if g ∈ namedGroves r then r.w3.setWidth 32 else (s.groveAt g).hang) ∧
    (r.w3.toNat < 65536 → answers .hang .hang s .refused fun t => ∀ g, (t.groveAt g).hang = (s.groveAt g).hang)

/-- Accesses from outside and the fabric (R132 to R134, R393, R416, R433 to R436): the host's and another package's accesses
are performed at their home, another package's only where the export table allows it; a snoop and a release write pending
lines back; ports receive flits by their fields, train, retrain and go down; a lost path drops what it held, granule by granule, and
the contributions for it; a combined write is performed. What the
outside does comes with the event (assumption log 21); the stop beyond device memory and the host's access there are the
model's (assumption logs 8, 61), as are a flit's credits (log 102) and that an ACAS combines alone (log 48). -/
def Obligations.FabricEvents : Prop :=
  ∀ (s : State) (pa : Nat) (data : List Byte),
    let here (t : State) : Prop := (∀ i (h : i < data.length), t.mem.read (pa + i) = data[i]'h) ∧
      sameBytes s t (fun a => a < pa ∨ pa + data.length ≤ a)
    let goes : Prop := spanWaits s pa data.length = false ∧ spanHeld s pa data.length = false
    let gone (t : State) (f : Nat → Prop) : Prop := ∀ d e, e ∈ (t.dieAt d).pending → ∀ l, l ∈ e.2 → ¬ f l
    (∀ d l, ∃ t, exec (.pendingLineEvict d l) s = .next t ∧ t.mem = s.mem ∧ ∀ e, e ∈ (t.dieAt d).pending → l ∉ e.2) ∧
    (pa + data.length ≤ devSize → goes →
      (∃ t, exec (.hostMemAccess true pa data) s = .next t ∧ here t) ∧
      ∃ t, exec (.hostMemAccess false pa data) s = .next t ∧ t.mem = s.mem) ∧
    (∃ t, exec .cxlSnoop s = .next t ∧ t.mem = s.mem ∧ gone t (fun l => l = s.ev.a) ∧
      (∀ d e i, e ∈ (t.dieAt d).pending → i < 64 → e.1 ≠ sigKey (.host (64 * s.ev.a + i))) ∧
      (s.ev.f = true → s.ev.b + s.ev.c ≤ 64 → ∀ i, i < s.ev.c →
        hostByte t (64 * s.ev.a + s.ev.b + i) = BitVec.ofNat 8 (s.ev.d / 256 ^ i)) ∧
      (s.ev.f = false → t.hostMem = s.hostMem)) ∧
    (∀ base len,
      let used (e : Nat × Target) : Prop := e.2.host = true ∧ targetUsed s e.1 = true ∧ overlap base len e.2.base e.2.len = true
      ((∀ e, e ∈ s.targets → ¬ used e) → ∃ t, exec (.dcExtentRelease base len) s = .next t ∧ t.mem = s.mem ∧
        gone t fun l => overlap (64 * l) 64 base len = true) ∧
      ((∃ e, e ∈ s.targets ∧ used e) → exec (.dcExtentRelease base len) s = .next s)) ∧
    (∀ chip wr,
      let allowed (w : Bool) : Prop := ∃ e, e ∈ s.exports ∧ e.2.allows chip pa data.length w = true
      (¬ allowed (wr || (remoteKind s.ev.a).isSome) →
        exec (.remoteAccess chip wr pa data) s = .next { s with security := s.security + 1 }) ∧
      (pa + data.length ≤ devSize → goes → allowed true →
        (remoteKind s.ev.a = none → ∃ t, exec (.remoteAccess chip true pa data) s = .next t ∧ here t) ∧
        ∀ k x, remoteKind s.ev.a = some k → poisonOf s (.dev pa) = none →
          rmw k data.length (leNat (s.mem.readN pa data.length)) (leNat data) s.ev.b = some x →
          ∃ t, exec (.remoteAccess chip true pa data) s = .next t ∧
            (∀ i, i < data.length → t.mem.read (pa + i) = BitVec.ofNat 8 (x / 256 ^ i)) ∧
            sameBytes s t (fun a => a < pa ∨ pa + data.length ≤ a)) ∧
      (∀ k, pa + data.length ≤ devSize → spanWaits s pa data.length = false → allowed true → remoteKind s.ev.a = some k →
        poisonOf s (.dev pa) = none → rmw k data.length (leNat (s.mem.readN pa data.length)) (leNat data) s.ev.b = none →
        ∃ t, exec (.remoteAccess chip true pa data) s = .next t ∧ t.mem = s.mem) ∧
      (devSize < pa + data.length → allowed (wr || (remoteKind s.ev.a).isSome) →
        exec (.remoteAccess chip wr pa data) s = .fault .noDeviceMemory)) ∧
    (∀ f : Flit, Flit.ofParts f.head f.payload = f) ∧
    (∀ n w payload crc, let k := s.portAt n
      let good : Prop := k.st = .up ∧ crc = flitCrc w payload ∧ bits w 0 16 = k.expect
      ∃ t, exec (.flitReceive n w payload crc) s = .next t ∧ t.mem = s.mem ∧
        (good → let r := t.portAt n
          r.expect = k.expect + 1 ∧ r.next = k.next ∧
          (∀ i : Fin 8, r.credits[i.val] = k.credits[i.val] + (bits w (32 + 4 * i.val) 4).toNat ∧
            r.owed[i.val] = k.owed[i.val] + if i.val = (bits w 88 3).toNat then 1 else 0) ∧
          (∀ l f l', k.unacked = l ++ f :: l' → f.seq = bits w 16 16 → (∀ e, e ∈ l → e.seq ≠ f.seq) → r.unacked = l') ∧
          ((∀ e, e ∈ k.unacked → e.seq ≠ bits w 16 16) → r.unacked = k.unacked)) ∧
        (¬ good → t = s)) ∧
    (∀ n lo hi, ∃ t, exec (.linkTrain n lo hi) s = .next t ∧ t.mem = s.mem ∧
      (s.booted = true → n < portCount → lo ≤ 1 → 1 ≤ hi → t.portAt n = { s.portAt n with st := .up, version := 1 }) ∧
      (s.booted = false ∨ portCount ≤ n ∨ 1 < lo ∨ hi < 1 → t = s)) ∧
    (let k := s.portAt s.ev.a;
      (k.st = .up → exec .portRetrainStart s = .next (s.setPort s.ev.a { k with st := .retraining, since := s.time.toNat })) ∧
      (k.st = .retraining → k.since + 700000 ≤ s.time.toNat →
        exec .portRetrainTimeout s = .next (s.setPort s.ev.a { k with st := .down })) ∧
      (k.st ≠ .retraining ∨ s.time.toNat < k.since + 700000 → exec .portRetrainTimeout s = .next s)) ∧
    (let loss : Prop := if s.ev.f = true then s.ev.a ≠ s.chip
        else 7000000 ≤ s.time.toNat ∧ ∀ e, e ∈ s.ports → e.2.st ≠ .up ∧ e.2.since + 7000000 ≤ s.time.toNat;
      (¬ loss → exec .pathLossTimeout s = .next s) ∧
      (loss → ∃ t, exec .pathLossTimeout s = .next t ∧ (s.queues = [] → t.mem = s.mem) ∧
        (∀ n w, Map.get? t.redWins n = some w → w.home ≠ s.chip → s.ev.f = false ∨ w.home = s.ev.a → w.held = []) ∧
        (s.ev.f = false → ∀ c x a p, a ∈ (t.ctxAt c x).accs → p ∈ a.pieces → p.pl.away = false) ∧
        (s.ev.f = true → ∀ c x a p pa, a ∈ (t.ctxAt c x).accs → p ∈ a.pieces → p.pl ≠ .remote s.ev.a pa))) ∧
    ∀ w m v, Map.get? s.redWins s.ev.a = some w → (mergeGroups w.held)[s.ev.b]? = some m → w.home = s.chip → m.pa = pa →
      placeWaits s (.dev pa) = false → placeHeld s (.dev pa) = false → pa + m.len ≤ devSize → poisonOf s (.dev pa) = none →
      rmw m.op m.len (leNat (s.mem.readN pa m.len)) m.x m.new = some v →
      ∃ t, exec .combineIntervalExpire s = .next t ∧ (∀ i, i < m.len → t.mem.read (pa + i) = BitVec.ofNat 8 (v / 256 ^ i)) ∧
        sameBytes s t (fun a => a < pa ∨ pa + m.len ≤ a) ∧
        ∃ w', Map.get? t.redWins s.ev.a = some w' ∧ ∀ c, c ∈ w'.held ↔ c ∈ w.held ∧ m.within c = false

/-- What hardware, the owner and firmware bring about (R428 to R430, R440 to R446, R453, R459 to R463): a frame is retired and
its accesses go to its spare; channels replay, retrain and fail; links take new keys, and a tag that fails twice poisons its
block; a device reset boots the device from the images given or fails at a step, keeps the key slots and never lowers the security
version, and a boot leaves every service context running; a service context that is loaded again runs from its entry, and the SVCs in
flight on its core are answered all ones; telemetry is written with its SEQ even; the clock steps; and lockstep signatures that
differ fail the bundle's task.

The model's own, not the spec's: what hardware finds comes with the event (assumption log 21); a new key is a free value (log 17); the
registers of a loaded service context start at zero (log 3), and its entry is that of its image's first type (log 100); memory reads
zero also after a boot that fails before step 5 (log 5); each temperature event counts one step (log 62); and 1 ms and 10 ms are
cycles at 700 MHz (log 104). -/
def Obligations.HardwareEvents : Prop :=
  ∀ s : State,
    let n := s.ev.a
    let ch := Map.at_ s.chans n Chan.reset
    (n ∈ s.worn → (∀ r, r ∈ s.retiring → r.frame ≠ n) → frameRetired s n = false →
      poolFrame s n = false → 0 < s.spares → ∃ t, exec .frameRetire s = .next t ∧ t.spares = s.spares - 1 ∧ t.mem = s.mem ∧
        ∃ r, t.retiring = s.retiring ++ [r] ∧ r.frame = n) ∧
    (∀ r, s.retiring.find? (fun r => r.frame = n) = some r →
      (∀ k, Map.at_ s.linkUse k 0 + 512 + s.reqs.length < 2 ^ 36) →
      (∀ p, p ∈ s.reqs → p.op = .retire → p.req.w1.toNat = n → statusFree s p) → ∃ t, exec .retireCopyDone s = .next t ∧
      Map.get? t.remap n = some r.spare ∧ n ∉ t.worn ∧ (∀ r, r ∈ t.retiring → r.frame ≠ n) ∧
      (∀ c e, e ∈ (t.coreAt c).tlb → ¬ (e.tgt = 0 ∧ overlap e.pa (2 ^ e.k) (n * 65536) 65536 = true)) ∧
      ∀ p, p ∈ t.reqs → ¬ (p.op = .retire ∧ p.req.w1.toNat = n)) ∧
    (n < 512 → ch.failed = false → ch.retraining = false → ∃ t, exec .parityAlert s = .next t ∧ t.mem = s.mem ∧
      let r := if s.ev.f then ch.replays + 1 else 0
      Map.get? t.chans n = some ⟨false, decide (8 ≤ r), r, s.time.toNat⟩ ∧ t.counters.capar = s.counters.capar + 1) ∧
    (ch.retraining = true → ∃ t, exec .channelRetrainDone s = .next t ∧ t.mem = s.mem ∧
      Map.get? t.chans n = some ⟨s.ev.f, false, 0, 0⟩) ∧
    (2 ^ 36 ≤ Map.at_ s.linkUse n 0 → ∃ t, exec .linkRekey s = .next t ∧ t.mem = s.mem ∧ Map.get? t.linkUse n = some 0 ∧
      Map.get? t.linkKeys n = some (Config.freeKey s.fresh n)) ∧
    (∃ t, exec .linkTagFail s = .next t ∧ t.mem = s.mem ∧
      (s.ev.f = true → n < devSize → t.security = s.security + 1 ∧ Map.get? t.poison (2 * (n / 64)) = some (11 * 65536 + 2)) ∧
      (s.ev.f = false → t.poison = s.poison ∧ t.security = s.security)) ∧
    (∀ link store heart sap, ∃ t, exec (.deviceReset link store heart sap) s = .next t ∧ t.keySlots = s.keySlots ∧
      (∀ a, t.mem.read a = 0) ∧ t.gated = false ∧ (∀ q, (t.queueAt q).st = .disabled) ∧
      let fails := bootFails link store heart sap (resetState s)
      (firmwareOk (resetState s) s.svn heart = false → fails = some 1) ∧
      (fails = none → t.booted = true ∧ t.svn = Nat.max s.svn (fwSvn heart) ∧
        ∀ c, c < 768 → t.ctxAt c 8 = { Ctx.reset c 8 with st := .running, pc := (t.ctxAt c 8).pc }) ∧
      ∀ k, fails = some k → t.booted = false ∧ t.bootFail = k ∧ s.svn ≤ t.svn ∧ (k = 1 → t.svn = s.svn)) ∧
    ((s.ctxAt n 8).st = .parked → (s.ctxAt n 8).task = none → ∃ t, exec .sapwoodReload s = .next t ∧ t.mem = s.mem ∧
      (∃ pc, t.ctxAt n 8 = { Ctx.reset n 8 with st := .running, pc := pc, nextAt := (s.coreAt n).cyc } ∧
        ∀ i ty l, s.sapwood = some i → i.types = ty :: l → pc = ty.entry) ∧
      ∀ x, x < 8 → (∀ r, r ∈ (t.ctxAt n x).reqs → svcReq r = false) ∧
        ∀ r, r ∈ (s.ctxAt n x).reqs → svcReq r = true → (s.coreAt n).cyc < r.bound →
          ∃ l, l ∈ (t.ctxAt n x).inflight ∧ l.wr = .s (reqDest r.op) (BitVec.allOnes 64) ∧ (s.coreAt n).cyc < l.land ∧
            l.land ≤ r.bound) ∧
    (1 ≤ n → n ≤ 7 →
      (Map.get? s.keySlots n = none →
        exec .keySlotProvision s = .next { s with keySlots := Map.set s.keySlots n true }) ∧
      (Map.get? s.keySlots n = some true →
        exec .keySlotRevoke s = .next { s with keySlots := Map.set s.keySlots n false })) ∧
    (s.telemPa ≠ 0 → s.telemLast + s.telemEvery * 700 ≤ s.time.toNat → spanHeld s s.telemPa 8192 = false →
      spanWaits s s.telemPa 8192 = false →
      ∃ t, exec .telemWrite s = .next t ∧ t.telemSeq = s.telemSeq + 2 ∧ t.telemLast = s.time.toNat ∧
        leNat (t.mem.readN s.telemPa 8) = (s.telemSeq + 2) % 2 ^ 64 ∧ leNat (t.mem.readN (s.telemPa + 8) 8) = s.time.toNat ∧
        sameBytes s t (fun a => a < s.telemPa ∨ s.telemPa + 8192 ≤ a)) ∧
    (∃ t, exec .powerAverageCheck s = .next t ∧ t.mem = s.mem ∧ t.ctxs = s.ctxs ∧
      let due : Prop := s.plim < n ∧ ∀ k, s.powerAt = some k → k + 700000 ≤ s.time.toNat
      (due → t.mhz = Nat.max 350 (s.mhz - 25) ∧ t.powerAt = some s.time.toNat) ∧
      (¬ due → t.mhz = s.mhz ∧ t.powerAt = s.powerAt)) ∧
    exec .junction95c s =
      .next { s with mhz := Nat.max 350 (s.mhz - 25), throttled := s.throttled + 1, warmAt := s.time.toNat } ∧
    exec .junction105c s = .next { s with mhz := 350, throttled := s.throttled + 1, warmAt := s.time.toNat } ∧
    exec .junction115c s = .next { s with gated := true } ∧
    (∃ t, exec .clockStepUp s = .next t ∧ t.mem = s.mem ∧ t.ctxs = s.ctxs ∧
      let due : Prop := n * 100 < s.plim * 95 ∧ s.ev.b < 90 ∧ s.warmAt + 7000000 ≤ s.time.toNat
      (due → t.mhz = Nat.min s.fmax (s.mhz + 25)) ∧ (¬ due → t.mhz = s.mhz)) ∧
    let k := s.ctxAt n s.ev.b
    let g := s.groveAt (groveOf n)
    g.prot = true → n % 2 = 0 → (∃ u, u ∈ k.unmatched ∧ u.1 = s.ev.d ∧ u.2 + 2 ≤ s.time.toNat) →
      (s.ev.f = false → (∀ j, j ∈ k.jobs → j.leaves = true → j.ord < k.matched ∨ s.ev.d < j.ord) → exec .lockstepCompare s = .next (s.setCtx n s.ev.b
        { k with matched := s.ev.d + 1, unmatched := k.unmatched.filter fun u => s.ev.d < u.1 })) ∧
      (s.ev.f = true → ∃ t, exec .lockstepCompare s = .next t ∧ t.mem = s.mem ∧
        (t.groveAt (groveOf n)).mismatch = g.mismatch + 1 ∧ (∀ a, a ∈ (t.ctxAt n s.ev.b).accs → a.ord < s.ev.d) ∧
        (k.st ≠ .ending → (t.ctxAt n s.ev.b).err = some ⟨0, 10, 0x20, noSlot, 0, 0, 0⟩))
end

