-- ==== Sys2Proof/Laws/Codec.lean ====
section
/-! SUPPORT. Fields read back from the words that hold them: bit fields of a concatenation, register numbers, codes of the
closed sets, and the words of slots, headers, packets and request blocks. -/

namespace Sys2Proof

/-- A field within the high part of a concatenation. -/
theorem bits_append_hi {v w : Nat} (a : BitVec v) (b : BitVec w) (lo len : Nat) (h : w ≤ lo) :
    bits (a ++ b) lo len = bits a (lo - w) len := by
  ext i hi
  simp only [bits, BitVec.getElem_extractLsb', BitVec.getLsbD_append]
  rw [if_neg (by omega)]
  congr 1
  omega

/-- A field within the low part of a concatenation. -/
theorem bits_append_lo {v w : Nat} (a : BitVec v) (b : BitVec w) (lo len : Nat) (h : lo + len ≤ w) :
    bits (a ++ b) lo len = bits b lo len := by
  ext i hi
  simp only [bits, BitVec.getElem_extractLsb', BitVec.getLsbD_append]
  rw [if_pos (by omega)]

/-- A field that is the whole word. -/
theorem bits_all {v : Nat} (a : BitVec v) : bits a 0 v = a := by
  ext i hi
  simp [bits]

/-- A bit of the high part of a concatenation. -/
theorem tst_append_hi {v w : Nat} (a : BitVec v) (b : BitVec w) (i : Nat) (h : w ≤ i) :
    tst (a ++ b) i = tst a (i - w) := by
  simp only [tst, BitVec.getLsbD_append]
  rw [if_neg (by omega)]

/-- A bit of the low part of a concatenation. -/
theorem tst_append_lo {v w : Nat} (a : BitVec v) (b : BitVec w) (i : Nat) (h : i < w) :
    tst (a ++ b) i = tst b i := by
  simp only [tst, BitVec.getLsbD_append]
  rw [if_pos (by omega)]

/-- The one bit of a truth value. -/
@[simp] theorem tst_bit1 (b : Bool) : tst (bit1 b) 0 = b := by cases b <;> rfl

/-- Zero has no bit set. -/
@[simp] theorem tst_zero {w : Nat} (i : Nat) : tst (0 : BitVec w) i = false := by simp [tst]

/-- A register number read back from its field. -/
theorem fld_enc {n : Nat} [NeZero n] (w : Nat) (x : Fin n) (h : n ≤ 2 ^ w) : fld n (enc w x) = x := by
  ext
  have := x.isLt
  simp only [fld, enc, BitVec.toNat_ofNat, Fin.val_ofNat]
  rw [Nat.mod_eq_of_lt (a := x.val) (by omega), Nat.mod_eq_of_lt this]

/-- A register number read back from a field that checks it. -/
theorem fld?_enc {n : Nat} [NeZero n] (w : Nat) (x : Fin n) (h : n ≤ 2 ^ w) : fld? n (enc w x) = some x := by
  have hx := x.isLt
  unfold fld?
  rw [if_pos, fld_enc w x h]
  simp only [enc, BitVec.toNat_ofNat]
  rw [Nat.mod_eq_of_lt (by omega)]
  exact hx

/-! ## Words -/

/-- Slot S read back. -/
@[simp] theorem SF.ofWord_toWord (f : SF) : SF.ofWord f.toWord = f := by
  obtain ⟨op, d, a, b, q, imm⟩ := f
  simp only [SF.ofWord, SF.toWord, SF.mk.injEq]
  refine ⟨?_, ?_, ?_, ?_, ?_, ?_⟩ <;>
    simp (disch := decide) only [bits_append_hi, bits_append_lo, bits_all, Nat.reduceSub]

/-- A vector slot read back. -/
@[simp] theorem VF.ofWord_toWord (f : VF) : VF.ofWord f.toWord = f := by
  obtain ⟨op, t, d, a, b, c, g, z, imm⟩ := f
  simp only [VF.ofWord, VF.toWord, VF.mk.injEq]
  refine ⟨?_, ?_, ?_, ?_, ?_, ?_, ?_, ?_, ?_⟩ <;>
    simp (disch := decide) only [bits_append_hi, bits_append_lo, bits_all, Nat.reduceSub]

/-- Slot M read back. -/
@[simp] theorem MF.ofWord_toWord (f : MF) : MF.ofWord f.toWord = f := by
  obtain ⟨op, d, pa, pb, pc, f, imm⟩ := f
  simp only [MF.ofWord, MF.toWord, MF.mk.injEq]
  refine ⟨?_, ?_, ?_, ?_, ?_, ?_, ?_⟩ <;>
    simp (disch := decide) only [bits_append_hi, bits_append_lo, bits_all, Nat.reduceSub]

/-- A copy slot read back. -/
@[simp] theorem CF.ofWord_toWord (f : CF) : CF.ofWord f.toWord = f := by
  obtain ⟨op, sa, sb, sc, yw, sf, scope, tag, imm⟩ := f
  simp only [CF.ofWord, CF.toWord, CF.mk.injEq]
  refine ⟨?_, ?_, ?_, ?_, ?_, ?_, ?_, ?_, ?_⟩ <;>
    simp (disch := decide) only [bits_append_hi, bits_append_lo, bits_all, Nat.reduceSub]

/-- A header read back. -/
@[simp] theorem HF.ofWord_toWord (f : HF) : HF.ofWord f.toWord = f := by
  obtain ⟨seq, cp, cn, bt, lc, yld, sfp, gap, val, sq, rsv⟩ := f
  simp only [HF.ofWord, HF.toWord, HF.mk.injEq]
  refine ⟨?_, ?_, ?_, ?_, ?_, ?_, ?_, ?_, ?_, ?_, ?_⟩ <;>
    simp (disch := decide) only [bits_append_hi, bits_append_lo, bits_all, Nat.reduceSub]

/-- A packet read back. -/
@[simp] theorem PF.ofWord_toWord (f : PF) : PF.ofWord f.toWord = f := by
  obtain ⟨⟨seq, cpl, barr, tag⟩, opc, rsv, w1, w2, w3, w4, w5, w6, w7⟩ := f
  simp only [PF.ofWord, PF.toWord, PF.mk.injEq, PktHdr.mk.injEq]
  refine ⟨⟨?_, ?_, ?_, ?_⟩, ?_, ?_, ?_, ?_, ?_, ?_, ?_, ?_, ?_⟩ <;>
    simp (disch := decide) only [bits_append_hi, bits_append_lo, bits_all, Nat.reduceSub, tst_append_hi, tst_append_lo,
      tst_bit1] <;>
    exact bits_all _

/-- A request block read back. -/
@[simp] theorem RF.ofWord_toWord (f : RF) : RF.ofWord f.toWord = f := by
  obtain ⟨op, rsv, w1, w2, w3, w4, w5, w6, w7⟩ := f
  simp only [RF.ofWord, RF.toWord, RF.mk.injEq]
  refine ⟨?_, ?_, ?_, ?_, ?_, ?_, ?_, ?_, ?_⟩ <;>
    simp (disch := decide) only [bits_append_hi, bits_append_lo, bits_all, Nat.reduceSub] <;>
    exact bits_all _

/-! ## Codes -/

@[simp] theorem VTy.ofCode_code (t : VTy) : VTy.ofCode t.code = some t := by cases t <;> rfl
@[simp] theorem SFmt.ofCode_code (t : SFmt) : SFmt.ofCode t.code = t := by cases t <;> rfl
@[simp] theorem CvtTy.ofCode_code (t : CvtTy) : CvtTy.ofCode t.code = t := by cases t <;> rfl
@[simp] theorem RMode.ofCode_code (t : RMode) : RMode.ofCode t.code = some t := by cases t <;> rfl
@[simp] theorem ICond.ofCode_code (t : ICond) : ICond.ofCode t.code = t := by cases t <;> rfl
@[simp] theorem FCond.ofCode_code (t : FCond) : FCond.ofCode t.code = t := by cases t <;> rfl
@[simp] theorem MSize.ofCode_code (t : MSize) : MSize.ofCode t.code = t := by cases t <;> rfl
@[simp] theorem Scope.ofCode_code (t : Scope) : Scope.ofCode t.code = t := by cases t <;> rfl
@[simp] theorem Ordering4.ofCode_code (t : Ordering4) : Ordering4.ofCode t.code = t := by cases t <;> rfl
@[simp] theorem RedOp.ofCode_code (t : RedOp) : RedOp.ofCode t.code = some t := by cases t <;> rfl
@[simp] theorem Shuf.ofCode_code (t : Shuf) : Shuf.ofCode t.code = some t := by cases t <;> rfl
@[simp] theorem AccTy.ofCode_code (t : AccTy) : AccTy.ofCode t.code = some t := by cases t <;> rfl
@[simp] theorem AccCvt.ofCode_code (t : AccCvt) : AccCvt.ofCode t.code = t := by cases t <;> rfl
@[simp] theorem FeLoad.ofCode_code (t : FeLoad) : FeLoad.ofCode t.code = some t := by cases t <;> rfl
@[simp] theorem FeStore.ofCode_code (t : FeStore) : FeStore.ofCode t.code = some t := by cases t <;> rfl
@[simp] theorem SigOp.ofCode_code (t : SigOp) : SigOp.ofCode t.code = some t := by cases t <;> rfl
@[simp] theorem WaitOp.ofCode_code (t : WaitOp) : WaitOp.ofCode t.code = some t := by cases t <;> rfl

/-! ## The decoder's last check -/

/-- A candidate that is well formed and encodes to the fields at hand is the instruction decoded. -/
theorem settle_ok (i : Instr) (same : Instr → Bool) (hw : i.wf) (hs : same i) : settle (some i) same = .ok i := by
  unfold Instr.wf at hw
  unfold settle
  cases h : i.illegal with
  | none => simp [h, hs]
  | some c => simp [h] at hw

/-- An instruction decoded is its candidate, well formed, and its encoding is the fields it was read from. -/
theorem settle_eq_ok {cand : Option Instr} {same : Instr → Bool} {i : Instr} (h : settle cand same = .ok i) :
    cand = some i ∧ i.wf ∧ same i := by
  unfold settle at h
  cases cand with
  | none => simp at h
  | some j =>
    simp only at h
    cases hj : j.illegal with
    | none =>
      simp only [hj] at h
      split at h
      · simp only [Except.ok.injEq] at h; subst h; exact ⟨rfl, by simp [Instr.wf, hj], by assumption⟩
      · simp at h
    | some c => cases c <;> simp only [hj] at h <;> (try split at h) <;> simp at h

end Sys2Proof
end

