-- ==== Sys2Proof/Laws/Map.lean ====
section
/-! SUPPORT. What a sparse collection answers after an update, and that its numbers stay in order. -/

namespace Sys2Proof.Machine
open Sys2Proof

/-- An entry just set is there. -/
@[simp] theorem Map.get?_set_same {α : Type} (m : Map α) (k : Nat) (x : α) : Map.get? (Map.set m k x) k = some x := by
  induction m with
  | nil => simp [Map.set, Map.get?]
  | cons h t ih =>
    simp only [Map.set]
    split
    · simp [Map.get?]
    · split
      · simp [Map.get?]
      · rename_i h1 h2
        simp [Map.get?, ih, Ne.symm h2]

/-- Setting an entry leaves the others as they were. -/
theorem Map.get?_set_other {α : Type} (m : Map α) (k j : Nat) (x : α) (h : j ≠ k) :
    Map.get? (Map.set m k x) j = Map.get? m j := by
  induction m with
  | nil => simp [Map.set, Map.get?, Ne.symm h]
  | cons a t ih =>
    simp only [Map.set]
    split
    · simp [Map.get?, Ne.symm h]
    · split
      · rename_i h2
        simp [Map.get?, ← h2, Ne.symm h]
      · simp [Map.get?, ih]

/-- What an update answers at any number. -/
theorem Map.get?_set {α : Type} (m : Map α) (k j : Nat) (x : α) :
    Map.get? (Map.set m k x) j = if j = k then some x else Map.get? m j := by
  split
  · subst_vars; simp
  · exact Map.get?_set_other m k j x (by assumption)

/-- An entry deleted is gone. -/
@[simp] theorem Map.get?_del_same {α : Type} (m : Map α) (k : Nat) : Map.get? (Map.del m k) k = none := by
  induction m with
  | nil => rfl
  | cons a t ih => simp only [Map.del]; split <;> simp [Map.get?, *]

/-- Deleting an entry leaves the others as they were. -/
theorem Map.get?_del_other {α : Type} (m : Map α) (k j : Nat) (h : j ≠ k) :
    Map.get? (Map.del m k) j = Map.get? m j := by
  induction m with
  | nil => rfl
  | cons a t ih =>
    simp only [Map.del]
    split
    · rename_i h2; simp [Map.get?, h2, Ne.symm h, ih]
    · simp [Map.get?, ih]

/-- An entry just set, read with a default. -/
@[simp] theorem Map.at_set_same {α : Type} (m : Map α) (k : Nat) (x d : α) : Map.at_ (Map.set m k x) k d = x := by
  simp [Map.at_]
/-- Setting an entry leaves the others as they were, read with a default. -/
theorem Map.at_set_other {α : Type} (m : Map α) (k j : Nat) (x d : α) (h : j ≠ k) :
    Map.at_ (Map.set m k x) j d = Map.at_ m j d := by
  simp [Map.at_, Map.get?_set_other m k j x h]

/-- A bound on the numbers of a collection holds after an update, for a number within it. -/
theorem Map.set_above {α : Type} (m : Map α) (k b : Nat) (x : α) (hb : b < k) (h : m.all (fun p => b < p.1)) :
    (Map.set m k x).all (fun p => b < p.1) := by
  induction m with
  | nil => simp [Map.set, hb]
  | cons a t ih =>
    simp only [List.all_cons, Bool.and_eq_true] at h
    simp only [Map.set]
    split
    · simp only [List.all_cons, Bool.and_eq_true]; exact ⟨by simpa using hb, h⟩
    · split
      · simp only [List.all_cons, Bool.and_eq_true]; exact ⟨by simpa using hb, h.2⟩
      · simp only [List.all_cons, Bool.and_eq_true]; exact ⟨h.1, ih h.2⟩

/-- A bound on the numbers of a collection holds after a deletion. -/
theorem Map.del_above {α : Type} (m : Map α) (k b : Nat) (h : m.all (fun p => b < p.1)) :
    (Map.del m k).all (fun p => b < p.1) := by
  induction m with
  | nil => rfl
  | cons a t ih =>
    simp only [List.all_cons, Bool.and_eq_true] at h
    simp only [Map.del]
    split
    · exact ih h.2
    · simp only [List.all_cons, Bool.and_eq_true]; exact ⟨h.1, ih h.2⟩

/-- An update keeps the numbers strictly rising. -/
theorem Map.sorted_set {α : Type} (m : Map α) (k : Nat) (x : α) (h : Map.sorted m) : Map.sorted (Map.set m k x) := by
  induction m with
  | nil => simp [Map.set, Map.sorted]
  | cons a t ih =>
    simp only [Map.sorted, Bool.and_eq_true] at h
    simp only [Map.set]
    split
    · rename_i hlt
      simp only [Map.sorted, List.all_cons, Bool.and_eq_true]
      refine ⟨⟨by simpa using hlt, ?_⟩, h⟩
      have := h.1
      simp only [List.all_eq_true] at this ⊢
      intro p hp
      have := this p hp
      simp only [decide_eq_true_eq] at this ⊢
      omega
    · split
      · rename_i _ heq
        subst heq
        simpa only [Map.sorted, Bool.and_eq_true] using h
      · simp only [Map.sorted, Bool.and_eq_true]
        exact ⟨Map.set_above t k a.1 x (by omega) h.1, ih h.2⟩

/-- A deletion keeps the numbers strictly rising. -/
theorem Map.sorted_del {α : Type} (m : Map α) (k : Nat) (h : Map.sorted m) : Map.sorted (Map.del m k) := by
  induction m with
  | nil => rfl
  | cons a t ih =>
    simp only [Map.sorted, Bool.and_eq_true] at h
    simp only [Map.del]
    split
    · exact ih h.2
    · simp only [Map.sorted, Bool.and_eq_true]
      exact ⟨Map.del_above t k a.1 h.1, ih h.2⟩

end Sys2Proof.Machine
end

