-- ==== Sys2Proof/Laws/State.lean ====
section
/-! SUPPORT. What each update of State leaves: one lemma a field and update, each true by unfolding. -/

namespace Sys2Proof.Machine
open Sys2Proof

/-! ## State.setCore -/

@[simp] theorem State.setCore_time (s : State) (c : Nat) (k : Core) : (s.setCore c k).time = s.time := rfl
@[simp] theorem State.setCore_ctxs (s : State) (c : Nat) (k : Core) : (s.setCore c k).ctxs = s.ctxs := rfl
@[simp] theorem State.setCore_groves (s : State) (c : Nat) (k : Core) : (s.setCore c k).groves = s.groves := rfl
@[simp] theorem State.setCore_dies (s : State) (c : Nat) (k : Core) : (s.setCore c k).dies = s.dies := rfl
@[simp] theorem State.setCore_tasks (s : State) (c : Nat) (k : Core) : (s.setCore c k).tasks = s.tasks := rfl
@[simp] theorem State.setCore_insts (s : State) (c : Nat) (k : Core) : (s.setCore c k).insts = s.insts := rfl
@[simp] theorem State.setCore_mem (s : State) (c : Nat) (k : Core) : (s.setCore c k).mem = s.mem := rfl
@[simp] theorem State.setCore_hostMem (s : State) (c : Nat) (k : Core) : (s.setCore c k).hostMem = s.hostMem := rfl
@[simp] theorem State.setCore_remoteMem (s : State) (c : Nat) (k : Core) : (s.setCore c k).remoteMem = s.remoteMem := rfl
@[simp] theorem State.setCore_lines (s : State) (c : Nat) (k : Core) : (s.setCore c k).lines = s.lines := rfl
@[simp] theorem State.setCore_writeTs (s : State) (c : Nat) (k : Core) : (s.setCore c k).writeTs = s.writeTs := rfl
@[simp] theorem State.setCore_floor (s : State) (c : Nat) (k : Core) : (s.setCore c k).floor = s.floor := rfl
@[simp] theorem State.setCore_outTs (s : State) (c : Nat) (k : Core) : (s.setCore c k).outTs = s.outTs := rfl
@[simp] theorem State.setCore_roots (s : State) (c : Nat) (k : Core) : (s.setCore c k).roots = s.roots := rfl
@[simp] theorem State.setCore_regions (s : State) (c : Nat) (k : Core) : (s.setCore c k).regions = s.regions := rfl
@[simp] theorem State.setCore_upcalls (s : State) (c : Nat) (k : Core) : (s.setCore c k).upcalls = s.upcalls := rfl
@[simp] theorem State.setCore_chip (s : State) (c : Nat) (k : Core) : (s.setCore c k).chip = s.chip := rfl
@[simp] theorem State.setCore_objs (s : State) (c : Nat) (k : Core) : (s.setCore c k).objs = s.objs := rfl
@[simp] theorem State.setCore_units (s : State) (c : Nat) (k : Core) : (s.setCore c k).units = s.units := rfl
@[simp] theorem State.setCore_badUnits (s : State) (c : Nat) (k : Core) : (s.setCore c k).badUnits = s.badUnits := rfl
@[simp] theorem State.setCore_watches (s : State) (c : Nat) (k : Core) : (s.setCore c k).watches = s.watches := rfl
@[simp] theorem State.setCore_gens (s : State) (c : Nat) (k : Core) : (s.setCore c k).gens = s.gens := rfl
@[simp] theorem State.setCore_poolFrames (s : State) (c : Nat) (k : Core) : (s.setCore c k).poolFrames = s.poolFrames := rfl
@[simp] theorem State.setCore_poolGone (s : State) (c : Nat) (k : Core) : (s.setCore c k).poolGone = s.poolGone := rfl
@[simp] theorem State.setCore_copies (s : State) (c : Nat) (k : Core) : (s.setCore c k).copies = s.copies := rfl
@[simp] theorem State.setCore_targets (s : State) (c : Nat) (k : Core) : (s.setCore c k).targets = s.targets := rfl
@[simp] theorem State.setCore_bootFail (s : State) (c : Nat) (k : Core) : (s.setCore c k).bootFail = s.bootFail := rfl
@[simp] theorem State.setCore_ifsel (s : State) (c : Nat) (k : Core) : (s.setCore c k).ifsel = s.ifsel := rfl
@[simp] theorem State.setCore_booted (s : State) (c : Nat) (k : Core) : (s.setCore c k).booted = s.booted := rfl
@[simp] theorem State.setCore_queues (s : State) (c : Nat) (k : Core) : (s.setCore c k).queues = s.queues := rfl
@[simp] theorem State.setCore_fetchers (s : State) (c : Nat) (k : Core) : (s.setCore c k).fetchers = s.fetchers := rfl
@[simp] theorem State.setCore_nextInst (s : State) (c : Nat) (k : Core) : (s.setCore c k).nextInst = s.nextInst := rfl
@[simp] theorem State.setCore_lastRank (s : State) (c : Nat) (k : Core) : (s.setCore c k).lastRank = s.lastRank := rfl
@[simp] theorem State.setCore_exports (s : State) (c : Nat) (k : Core) : (s.setCore c k).exports = s.exports := rfl
@[simp] theorem State.setCore_redWins (s : State) (c : Nat) (k : Core) : (s.setCore c k).redWins = s.redWins := rfl
@[simp] theorem State.setCore_ports (s : State) (c : Nat) (k : Core) : (s.setCore c k).ports = s.ports := rfl
@[simp] theorem State.setCore_remap (s : State) (c : Nat) (k : Core) : (s.setCore c k).remap = s.remap := rfl
@[simp] theorem State.setCore_spares (s : State) (c : Nat) (k : Core) : (s.setCore c k).spares = s.spares := rfl
@[simp] theorem State.setCore_retiring (s : State) (c : Nat) (k : Core) : (s.setCore c k).retiring = s.retiring := rfl
@[simp] theorem State.setCore_poison (s : State) (c : Nat) (k : Core) : (s.setCore c k).poison = s.poison := rfl
@[simp] theorem State.setCore_mending (s : State) (c : Nat) (k : Core) : (s.setCore c k).mending = s.mending := rfl
@[simp] theorem State.setCore_ecc (s : State) (c : Nat) (k : Core) : (s.setCore c k).ecc = s.ecc := rfl
@[simp] theorem State.setCore_worn (s : State) (c : Nat) (k : Core) : (s.setCore c k).worn = s.worn := rfl
@[simp] theorem State.setCore_chans (s : State) (c : Nat) (k : Core) : (s.setCore c k).chans = s.chans := rfl
@[simp] theorem State.setCore_security (s : State) (c : Nat) (k : Core) : (s.setCore c k).security = s.security := rfl
@[simp] theorem State.setCore_keySlots (s : State) (c : Nat) (k : Core) : (s.setCore c k).keySlots = s.keySlots := rfl
@[simp] theorem State.setCore_meas (s : State) (c : Nat) (k : Core) : (s.setCore c k).meas = s.meas := rfl
@[simp] theorem State.setCore_svn (s : State) (c : Nat) (k : Core) : (s.setCore c k).svn = s.svn := rfl
@[simp] theorem State.setCore_digests (s : State) (c : Nat) (k : Core) : (s.setCore c k).digests = s.digests := rfl
@[simp] theorem State.setCore_accepted (s : State) (c : Nat) (k : Core) : (s.setCore c k).accepted = s.accepted := rfl
@[simp] theorem State.setCore_linkUse (s : State) (c : Nat) (k : Core) : (s.setCore c k).linkUse = s.linkUse := rfl
@[simp] theorem State.setCore_linkKeys (s : State) (c : Nat) (k : Core) : (s.setCore c k).linkKeys = s.linkKeys := rfl
@[simp] theorem State.setCore_memKeys (s : State) (c : Nat) (k : Core) : (s.setCore c k).memKeys = s.memKeys := rfl
@[simp] theorem State.setCore_sapwood (s : State) (c : Nat) (k : Core) : (s.setCore c k).sapwood = s.sapwood := rfl
@[simp] theorem State.setCore_telemPa (s : State) (c : Nat) (k : Core) : (s.setCore c k).telemPa = s.telemPa := rfl
@[simp] theorem State.setCore_telemEvery (s : State) (c : Nat) (k : Core) : (s.setCore c k).telemEvery = s.telemEvery := rfl
@[simp] theorem State.setCore_telemSeq (s : State) (c : Nat) (k : Core) : (s.setCore c k).telemSeq = s.telemSeq := rfl
@[simp] theorem State.setCore_telemLast (s : State) (c : Nat) (k : Core) : (s.setCore c k).telemLast = s.telemLast := rfl
@[simp] theorem State.setCore_plim (s : State) (c : Nat) (k : Core) : (s.setCore c k).plim = s.plim := rfl
@[simp] theorem State.setCore_fmax (s : State) (c : Nat) (k : Core) : (s.setCore c k).fmax = s.fmax := rfl
@[simp] theorem State.setCore_mhz (s : State) (c : Nat) (k : Core) : (s.setCore c k).mhz = s.mhz := rfl
@[simp] theorem State.setCore_gated (s : State) (c : Nat) (k : Core) : (s.setCore c k).gated = s.gated := rfl
@[simp] theorem State.setCore_throttled (s : State) (c : Nat) (k : Core) : (s.setCore c k).throttled = s.throttled := rfl
@[simp] theorem State.setCore_powerAt (s : State) (c : Nat) (k : Core) : (s.setCore c k).powerAt = s.powerAt := rfl
@[simp] theorem State.setCore_warmAt (s : State) (c : Nat) (k : Core) : (s.setCore c k).warmAt = s.warmAt := rfl
@[simp] theorem State.setCore_counters (s : State) (c : Nat) (k : Core) : (s.setCore c k).counters = s.counters := rfl
@[simp] theorem State.setCore_reqs (s : State) (c : Nat) (k : Core) : (s.setCore c k).reqs = s.reqs := rfl
@[simp] theorem State.setCore_core (s : State) (c : Nat) (k : Core) : (s.setCore c k).core = s.core := rfl
@[simp] theorem State.setCore_ctx (s : State) (c : Nat) (k : Core) : (s.setCore c k).ctx = s.ctx := rfl
@[simp] theorem State.setCore_slot (s : State) (c : Nat) (k : Core) : (s.setCore c k).slot = s.slot := rfl
@[simp] theorem State.setCore_inHeader (s : State) (c : Nat) (k : Core) : (s.setCore c k).inHeader = s.inHeader := rfl
@[simp] theorem State.setCore_squash (s : State) (c : Nat) (k : Core) : (s.setCore c k).squash = s.squash := rfl
@[simp] theorem State.setCore_checked (s : State) (c : Nat) (k : Core) : (s.setCore c k).checked = s.checked := rfl
@[simp] theorem State.setCore_here (s : State) (c : Nat) (k : Core) : (s.setCore c k).here = s.here := rfl
@[simp] theorem State.setCore_nextOrd (s : State) (c : Nat) (k : Core) : (s.setCore c k).nextOrd = s.nextOrd := rfl
@[simp] theorem State.setCore_fresh (s : State) (c : Nat) (k : Core) : (s.setCore c k).fresh = s.fresh := rfl
@[simp] theorem State.setCore_ev (s : State) (c : Nat) (k : Core) : (s.setCore c k).ev = s.ev := rfl
@[simp] theorem State.setCore_req (s : State) (c : Nat) (k : Core) : (s.setCore c k).req = s.req := rfl
@[simp] theorem State.setCore_queue (s : State) (c : Nat) (k : Core) : (s.setCore c k).queue = s.queue := rfl
@[simp] theorem State.setCore_agenda (s : State) (c : Nat) (k : Core) : (s.setCore c k).agenda = s.agenda := rfl

/-! ## State.setCtx -/

@[simp] theorem State.setCtx_time (s : State) (c x : Nat) (k : Ctx) : (s.setCtx c x k).time = s.time := rfl
@[simp] theorem State.setCtx_cores (s : State) (c x : Nat) (k : Ctx) : (s.setCtx c x k).cores = s.cores := rfl
@[simp] theorem State.setCtx_groves (s : State) (c x : Nat) (k : Ctx) : (s.setCtx c x k).groves = s.groves := rfl
@[simp] theorem State.setCtx_dies (s : State) (c x : Nat) (k : Ctx) : (s.setCtx c x k).dies = s.dies := rfl
@[simp] theorem State.setCtx_tasks (s : State) (c x : Nat) (k : Ctx) : (s.setCtx c x k).tasks = s.tasks := rfl
@[simp] theorem State.setCtx_insts (s : State) (c x : Nat) (k : Ctx) : (s.setCtx c x k).insts = s.insts := rfl
@[simp] theorem State.setCtx_mem (s : State) (c x : Nat) (k : Ctx) : (s.setCtx c x k).mem = s.mem := rfl
@[simp] theorem State.setCtx_hostMem (s : State) (c x : Nat) (k : Ctx) : (s.setCtx c x k).hostMem = s.hostMem := rfl
@[simp] theorem State.setCtx_remoteMem (s : State) (c x : Nat) (k : Ctx) : (s.setCtx c x k).remoteMem = s.remoteMem := rfl
@[simp] theorem State.setCtx_lines (s : State) (c x : Nat) (k : Ctx) : (s.setCtx c x k).lines = s.lines := rfl
@[simp] theorem State.setCtx_writeTs (s : State) (c x : Nat) (k : Ctx) : (s.setCtx c x k).writeTs = s.writeTs := rfl
@[simp] theorem State.setCtx_floor (s : State) (c x : Nat) (k : Ctx) : (s.setCtx c x k).floor = s.floor := rfl
@[simp] theorem State.setCtx_outTs (s : State) (c x : Nat) (k : Ctx) : (s.setCtx c x k).outTs = s.outTs := rfl
@[simp] theorem State.setCtx_roots (s : State) (c x : Nat) (k : Ctx) : (s.setCtx c x k).roots = s.roots := rfl
@[simp] theorem State.setCtx_regions (s : State) (c x : Nat) (k : Ctx) : (s.setCtx c x k).regions = s.regions := rfl
@[simp] theorem State.setCtx_upcalls (s : State) (c x : Nat) (k : Ctx) : (s.setCtx c x k).upcalls = s.upcalls := rfl
@[simp] theorem State.setCtx_chip (s : State) (c x : Nat) (k : Ctx) : (s.setCtx c x k).chip = s.chip := rfl
@[simp] theorem State.setCtx_objs (s : State) (c x : Nat) (k : Ctx) : (s.setCtx c x k).objs = s.objs := rfl
@[simp] theorem State.setCtx_units (s : State) (c x : Nat) (k : Ctx) : (s.setCtx c x k).units = s.units := rfl
@[simp] theorem State.setCtx_badUnits (s : State) (c x : Nat) (k : Ctx) : (s.setCtx c x k).badUnits = s.badUnits := rfl
@[simp] theorem State.setCtx_watches (s : State) (c x : Nat) (k : Ctx) : (s.setCtx c x k).watches = s.watches := rfl
@[simp] theorem State.setCtx_gens (s : State) (c x : Nat) (k : Ctx) : (s.setCtx c x k).gens = s.gens := rfl
@[simp] theorem State.setCtx_poolFrames (s : State) (c x : Nat) (k : Ctx) : (s.setCtx c x k).poolFrames = s.poolFrames := rfl
@[simp] theorem State.setCtx_poolGone (s : State) (c x : Nat) (k : Ctx) : (s.setCtx c x k).poolGone = s.poolGone := rfl
@[simp] theorem State.setCtx_copies (s : State) (c x : Nat) (k : Ctx) : (s.setCtx c x k).copies = s.copies := rfl
@[simp] theorem State.setCtx_targets (s : State) (c x : Nat) (k : Ctx) : (s.setCtx c x k).targets = s.targets := rfl
@[simp] theorem State.setCtx_bootFail (s : State) (c x : Nat) (k : Ctx) : (s.setCtx c x k).bootFail = s.bootFail := rfl
@[simp] theorem State.setCtx_ifsel (s : State) (c x : Nat) (k : Ctx) : (s.setCtx c x k).ifsel = s.ifsel := rfl
@[simp] theorem State.setCtx_booted (s : State) (c x : Nat) (k : Ctx) : (s.setCtx c x k).booted = s.booted := rfl
@[simp] theorem State.setCtx_queues (s : State) (c x : Nat) (k : Ctx) : (s.setCtx c x k).queues = s.queues := rfl
@[simp] theorem State.setCtx_fetchers (s : State) (c x : Nat) (k : Ctx) : (s.setCtx c x k).fetchers = s.fetchers := rfl
@[simp] theorem State.setCtx_nextInst (s : State) (c x : Nat) (k : Ctx) : (s.setCtx c x k).nextInst = s.nextInst := rfl
@[simp] theorem State.setCtx_lastRank (s : State) (c x : Nat) (k : Ctx) : (s.setCtx c x k).lastRank = s.lastRank := rfl
@[simp] theorem State.setCtx_exports (s : State) (c x : Nat) (k : Ctx) : (s.setCtx c x k).exports = s.exports := rfl
@[simp] theorem State.setCtx_redWins (s : State) (c x : Nat) (k : Ctx) : (s.setCtx c x k).redWins = s.redWins := rfl
@[simp] theorem State.setCtx_ports (s : State) (c x : Nat) (k : Ctx) : (s.setCtx c x k).ports = s.ports := rfl
@[simp] theorem State.setCtx_remap (s : State) (c x : Nat) (k : Ctx) : (s.setCtx c x k).remap = s.remap := rfl
@[simp] theorem State.setCtx_spares (s : State) (c x : Nat) (k : Ctx) : (s.setCtx c x k).spares = s.spares := rfl
@[simp] theorem State.setCtx_retiring (s : State) (c x : Nat) (k : Ctx) : (s.setCtx c x k).retiring = s.retiring := rfl
@[simp] theorem State.setCtx_poison (s : State) (c x : Nat) (k : Ctx) : (s.setCtx c x k).poison = s.poison := rfl
@[simp] theorem State.setCtx_mending (s : State) (c x : Nat) (k : Ctx) : (s.setCtx c x k).mending = s.mending := rfl
@[simp] theorem State.setCtx_ecc (s : State) (c x : Nat) (k : Ctx) : (s.setCtx c x k).ecc = s.ecc := rfl
@[simp] theorem State.setCtx_worn (s : State) (c x : Nat) (k : Ctx) : (s.setCtx c x k).worn = s.worn := rfl
@[simp] theorem State.setCtx_chans (s : State) (c x : Nat) (k : Ctx) : (s.setCtx c x k).chans = s.chans := rfl
@[simp] theorem State.setCtx_security (s : State) (c x : Nat) (k : Ctx) : (s.setCtx c x k).security = s.security := rfl
@[simp] theorem State.setCtx_keySlots (s : State) (c x : Nat) (k : Ctx) : (s.setCtx c x k).keySlots = s.keySlots := rfl
@[simp] theorem State.setCtx_meas (s : State) (c x : Nat) (k : Ctx) : (s.setCtx c x k).meas = s.meas := rfl
@[simp] theorem State.setCtx_svn (s : State) (c x : Nat) (k : Ctx) : (s.setCtx c x k).svn = s.svn := rfl
@[simp] theorem State.setCtx_digests (s : State) (c x : Nat) (k : Ctx) : (s.setCtx c x k).digests = s.digests := rfl
@[simp] theorem State.setCtx_accepted (s : State) (c x : Nat) (k : Ctx) : (s.setCtx c x k).accepted = s.accepted := rfl
@[simp] theorem State.setCtx_linkUse (s : State) (c x : Nat) (k : Ctx) : (s.setCtx c x k).linkUse = s.linkUse := rfl
@[simp] theorem State.setCtx_linkKeys (s : State) (c x : Nat) (k : Ctx) : (s.setCtx c x k).linkKeys = s.linkKeys := rfl
@[simp] theorem State.setCtx_memKeys (s : State) (c x : Nat) (k : Ctx) : (s.setCtx c x k).memKeys = s.memKeys := rfl
@[simp] theorem State.setCtx_sapwood (s : State) (c x : Nat) (k : Ctx) : (s.setCtx c x k).sapwood = s.sapwood := rfl
@[simp] theorem State.setCtx_telemPa (s : State) (c x : Nat) (k : Ctx) : (s.setCtx c x k).telemPa = s.telemPa := rfl
@[simp] theorem State.setCtx_telemEvery (s : State) (c x : Nat) (k : Ctx) : (s.setCtx c x k).telemEvery = s.telemEvery := rfl
@[simp] theorem State.setCtx_telemSeq (s : State) (c x : Nat) (k : Ctx) : (s.setCtx c x k).telemSeq = s.telemSeq := rfl
@[simp] theorem State.setCtx_telemLast (s : State) (c x : Nat) (k : Ctx) : (s.setCtx c x k).telemLast = s.telemLast := rfl
@[simp] theorem State.setCtx_plim (s : State) (c x : Nat) (k : Ctx) : (s.setCtx c x k).plim = s.plim := rfl
@[simp] theorem State.setCtx_fmax (s : State) (c x : Nat) (k : Ctx) : (s.setCtx c x k).fmax = s.fmax := rfl
@[simp] theorem State.setCtx_mhz (s : State) (c x : Nat) (k : Ctx) : (s.setCtx c x k).mhz = s.mhz := rfl
@[simp] theorem State.setCtx_gated (s : State) (c x : Nat) (k : Ctx) : (s.setCtx c x k).gated = s.gated := rfl
@[simp] theorem State.setCtx_throttled (s : State) (c x : Nat) (k : Ctx) : (s.setCtx c x k).throttled = s.throttled := rfl
@[simp] theorem State.setCtx_powerAt (s : State) (c x : Nat) (k : Ctx) : (s.setCtx c x k).powerAt = s.powerAt := rfl
@[simp] theorem State.setCtx_warmAt (s : State) (c x : Nat) (k : Ctx) : (s.setCtx c x k).warmAt = s.warmAt := rfl
@[simp] theorem State.setCtx_counters (s : State) (c x : Nat) (k : Ctx) : (s.setCtx c x k).counters = s.counters := rfl
@[simp] theorem State.setCtx_reqs (s : State) (c x : Nat) (k : Ctx) : (s.setCtx c x k).reqs = s.reqs := rfl
@[simp] theorem State.setCtx_core (s : State) (c x : Nat) (k : Ctx) : (s.setCtx c x k).core = s.core := rfl
@[simp] theorem State.setCtx_ctx (s : State) (c x : Nat) (k : Ctx) : (s.setCtx c x k).ctx = s.ctx := rfl
@[simp] theorem State.setCtx_slot (s : State) (c x : Nat) (k : Ctx) : (s.setCtx c x k).slot = s.slot := rfl
@[simp] theorem State.setCtx_inHeader (s : State) (c x : Nat) (k : Ctx) : (s.setCtx c x k).inHeader = s.inHeader := rfl
@[simp] theorem State.setCtx_squash (s : State) (c x : Nat) (k : Ctx) : (s.setCtx c x k).squash = s.squash := rfl
@[simp] theorem State.setCtx_checked (s : State) (c x : Nat) (k : Ctx) : (s.setCtx c x k).checked = s.checked := rfl
@[simp] theorem State.setCtx_here (s : State) (c x : Nat) (k : Ctx) : (s.setCtx c x k).here = s.here := rfl
@[simp] theorem State.setCtx_nextOrd (s : State) (c x : Nat) (k : Ctx) : (s.setCtx c x k).nextOrd = s.nextOrd := rfl
@[simp] theorem State.setCtx_fresh (s : State) (c x : Nat) (k : Ctx) : (s.setCtx c x k).fresh = s.fresh := rfl
@[simp] theorem State.setCtx_ev (s : State) (c x : Nat) (k : Ctx) : (s.setCtx c x k).ev = s.ev := rfl
@[simp] theorem State.setCtx_req (s : State) (c x : Nat) (k : Ctx) : (s.setCtx c x k).req = s.req := rfl
@[simp] theorem State.setCtx_queue (s : State) (c x : Nat) (k : Ctx) : (s.setCtx c x k).queue = s.queue := rfl
@[simp] theorem State.setCtx_agenda (s : State) (c x : Nat) (k : Ctx) : (s.setCtx c x k).agenda = s.agenda := rfl

/-! ## State.setGrove -/

@[simp] theorem State.setGrove_time (s : State) (g : Nat) (k : Grove) : (s.setGrove g k).time = s.time := rfl
@[simp] theorem State.setGrove_cores (s : State) (g : Nat) (k : Grove) : (s.setGrove g k).cores = s.cores := rfl
@[simp] theorem State.setGrove_ctxs (s : State) (g : Nat) (k : Grove) : (s.setGrove g k).ctxs = s.ctxs := rfl
@[simp] theorem State.setGrove_dies (s : State) (g : Nat) (k : Grove) : (s.setGrove g k).dies = s.dies := rfl
@[simp] theorem State.setGrove_tasks (s : State) (g : Nat) (k : Grove) : (s.setGrove g k).tasks = s.tasks := rfl
@[simp] theorem State.setGrove_insts (s : State) (g : Nat) (k : Grove) : (s.setGrove g k).insts = s.insts := rfl
@[simp] theorem State.setGrove_mem (s : State) (g : Nat) (k : Grove) : (s.setGrove g k).mem = s.mem := rfl
@[simp] theorem State.setGrove_hostMem (s : State) (g : Nat) (k : Grove) : (s.setGrove g k).hostMem = s.hostMem := rfl
@[simp] theorem State.setGrove_remoteMem (s : State) (g : Nat) (k : Grove) : (s.setGrove g k).remoteMem = s.remoteMem := rfl
@[simp] theorem State.setGrove_lines (s : State) (g : Nat) (k : Grove) : (s.setGrove g k).lines = s.lines := rfl
@[simp] theorem State.setGrove_writeTs (s : State) (g : Nat) (k : Grove) : (s.setGrove g k).writeTs = s.writeTs := rfl
@[simp] theorem State.setGrove_floor (s : State) (g : Nat) (k : Grove) : (s.setGrove g k).floor = s.floor := rfl
@[simp] theorem State.setGrove_outTs (s : State) (g : Nat) (k : Grove) : (s.setGrove g k).outTs = s.outTs := rfl
@[simp] theorem State.setGrove_roots (s : State) (g : Nat) (k : Grove) : (s.setGrove g k).roots = s.roots := rfl
@[simp] theorem State.setGrove_regions (s : State) (g : Nat) (k : Grove) : (s.setGrove g k).regions = s.regions := rfl
@[simp] theorem State.setGrove_upcalls (s : State) (g : Nat) (k : Grove) : (s.setGrove g k).upcalls = s.upcalls := rfl
@[simp] theorem State.setGrove_chip (s : State) (g : Nat) (k : Grove) : (s.setGrove g k).chip = s.chip := rfl
@[simp] theorem State.setGrove_objs (s : State) (g : Nat) (k : Grove) : (s.setGrove g k).objs = s.objs := rfl
@[simp] theorem State.setGrove_units (s : State) (g : Nat) (k : Grove) : (s.setGrove g k).units = s.units := rfl
@[simp] theorem State.setGrove_badUnits (s : State) (g : Nat) (k : Grove) : (s.setGrove g k).badUnits = s.badUnits := rfl
@[simp] theorem State.setGrove_watches (s : State) (g : Nat) (k : Grove) : (s.setGrove g k).watches = s.watches := rfl
@[simp] theorem State.setGrove_gens (s : State) (g : Nat) (k : Grove) : (s.setGrove g k).gens = s.gens := rfl
@[simp] theorem State.setGrove_poolFrames (s : State) (g : Nat) (k : Grove) : (s.setGrove g k).poolFrames = s.poolFrames := rfl
@[simp] theorem State.setGrove_poolGone (s : State) (g : Nat) (k : Grove) : (s.setGrove g k).poolGone = s.poolGone := rfl
@[simp] theorem State.setGrove_copies (s : State) (g : Nat) (k : Grove) : (s.setGrove g k).copies = s.copies := rfl
@[simp] theorem State.setGrove_targets (s : State) (g : Nat) (k : Grove) : (s.setGrove g k).targets = s.targets := rfl
@[simp] theorem State.setGrove_bootFail (s : State) (g : Nat) (k : Grove) : (s.setGrove g k).bootFail = s.bootFail := rfl
@[simp] theorem State.setGrove_ifsel (s : State) (g : Nat) (k : Grove) : (s.setGrove g k).ifsel = s.ifsel := rfl
@[simp] theorem State.setGrove_booted (s : State) (g : Nat) (k : Grove) : (s.setGrove g k).booted = s.booted := rfl
@[simp] theorem State.setGrove_queues (s : State) (g : Nat) (k : Grove) : (s.setGrove g k).queues = s.queues := rfl
@[simp] theorem State.setGrove_fetchers (s : State) (g : Nat) (k : Grove) : (s.setGrove g k).fetchers = s.fetchers := rfl
@[simp] theorem State.setGrove_nextInst (s : State) (g : Nat) (k : Grove) : (s.setGrove g k).nextInst = s.nextInst := rfl
@[simp] theorem State.setGrove_lastRank (s : State) (g : Nat) (k : Grove) : (s.setGrove g k).lastRank = s.lastRank := rfl
@[simp] theorem State.setGrove_exports (s : State) (g : Nat) (k : Grove) : (s.setGrove g k).exports = s.exports := rfl
@[simp] theorem State.setGrove_redWins (s : State) (g : Nat) (k : Grove) : (s.setGrove g k).redWins = s.redWins := rfl
@[simp] theorem State.setGrove_ports (s : State) (g : Nat) (k : Grove) : (s.setGrove g k).ports = s.ports := rfl
@[simp] theorem State.setGrove_remap (s : State) (g : Nat) (k : Grove) : (s.setGrove g k).remap = s.remap := rfl
@[simp] theorem State.setGrove_spares (s : State) (g : Nat) (k : Grove) : (s.setGrove g k).spares = s.spares := rfl
@[simp] theorem State.setGrove_retiring (s : State) (g : Nat) (k : Grove) : (s.setGrove g k).retiring = s.retiring := rfl
@[simp] theorem State.setGrove_poison (s : State) (g : Nat) (k : Grove) : (s.setGrove g k).poison = s.poison := rfl
@[simp] theorem State.setGrove_mending (s : State) (g : Nat) (k : Grove) : (s.setGrove g k).mending = s.mending := rfl
@[simp] theorem State.setGrove_ecc (s : State) (g : Nat) (k : Grove) : (s.setGrove g k).ecc = s.ecc := rfl
@[simp] theorem State.setGrove_worn (s : State) (g : Nat) (k : Grove) : (s.setGrove g k).worn = s.worn := rfl
@[simp] theorem State.setGrove_chans (s : State) (g : Nat) (k : Grove) : (s.setGrove g k).chans = s.chans := rfl
@[simp] theorem State.setGrove_security (s : State) (g : Nat) (k : Grove) : (s.setGrove g k).security = s.security := rfl
@[simp] theorem State.setGrove_keySlots (s : State) (g : Nat) (k : Grove) : (s.setGrove g k).keySlots = s.keySlots := rfl
@[simp] theorem State.setGrove_meas (s : State) (g : Nat) (k : Grove) : (s.setGrove g k).meas = s.meas := rfl
@[simp] theorem State.setGrove_svn (s : State) (g : Nat) (k : Grove) : (s.setGrove g k).svn = s.svn := rfl
@[simp] theorem State.setGrove_digests (s : State) (g : Nat) (k : Grove) : (s.setGrove g k).digests = s.digests := rfl
@[simp] theorem State.setGrove_accepted (s : State) (g : Nat) (k : Grove) : (s.setGrove g k).accepted = s.accepted := rfl
@[simp] theorem State.setGrove_linkUse (s : State) (g : Nat) (k : Grove) : (s.setGrove g k).linkUse = s.linkUse := rfl
@[simp] theorem State.setGrove_linkKeys (s : State) (g : Nat) (k : Grove) : (s.setGrove g k).linkKeys = s.linkKeys := rfl
@[simp] theorem State.setGrove_memKeys (s : State) (g : Nat) (k : Grove) : (s.setGrove g k).memKeys = s.memKeys := rfl
@[simp] theorem State.setGrove_sapwood (s : State) (g : Nat) (k : Grove) : (s.setGrove g k).sapwood = s.sapwood := rfl
@[simp] theorem State.setGrove_telemPa (s : State) (g : Nat) (k : Grove) : (s.setGrove g k).telemPa = s.telemPa := rfl
@[simp] theorem State.setGrove_telemEvery (s : State) (g : Nat) (k : Grove) : (s.setGrove g k).telemEvery = s.telemEvery := rfl
@[simp] theorem State.setGrove_telemSeq (s : State) (g : Nat) (k : Grove) : (s.setGrove g k).telemSeq = s.telemSeq := rfl
@[simp] theorem State.setGrove_telemLast (s : State) (g : Nat) (k : Grove) : (s.setGrove g k).telemLast = s.telemLast := rfl
@[simp] theorem State.setGrove_plim (s : State) (g : Nat) (k : Grove) : (s.setGrove g k).plim = s.plim := rfl
@[simp] theorem State.setGrove_fmax (s : State) (g : Nat) (k : Grove) : (s.setGrove g k).fmax = s.fmax := rfl
@[simp] theorem State.setGrove_mhz (s : State) (g : Nat) (k : Grove) : (s.setGrove g k).mhz = s.mhz := rfl
@[simp] theorem State.setGrove_gated (s : State) (g : Nat) (k : Grove) : (s.setGrove g k).gated = s.gated := rfl
@[simp] theorem State.setGrove_throttled (s : State) (g : Nat) (k : Grove) : (s.setGrove g k).throttled = s.throttled := rfl
@[simp] theorem State.setGrove_powerAt (s : State) (g : Nat) (k : Grove) : (s.setGrove g k).powerAt = s.powerAt := rfl
@[simp] theorem State.setGrove_warmAt (s : State) (g : Nat) (k : Grove) : (s.setGrove g k).warmAt = s.warmAt := rfl
@[simp] theorem State.setGrove_counters (s : State) (g : Nat) (k : Grove) : (s.setGrove g k).counters = s.counters := rfl
@[simp] theorem State.setGrove_reqs (s : State) (g : Nat) (k : Grove) : (s.setGrove g k).reqs = s.reqs := rfl
@[simp] theorem State.setGrove_core (s : State) (g : Nat) (k : Grove) : (s.setGrove g k).core = s.core := rfl
@[simp] theorem State.setGrove_ctx (s : State) (g : Nat) (k : Grove) : (s.setGrove g k).ctx = s.ctx := rfl
@[simp] theorem State.setGrove_slot (s : State) (g : Nat) (k : Grove) : (s.setGrove g k).slot = s.slot := rfl
@[simp] theorem State.setGrove_inHeader (s : State) (g : Nat) (k : Grove) : (s.setGrove g k).inHeader = s.inHeader := rfl
@[simp] theorem State.setGrove_squash (s : State) (g : Nat) (k : Grove) : (s.setGrove g k).squash = s.squash := rfl
@[simp] theorem State.setGrove_checked (s : State) (g : Nat) (k : Grove) : (s.setGrove g k).checked = s.checked := rfl
@[simp] theorem State.setGrove_here (s : State) (g : Nat) (k : Grove) : (s.setGrove g k).here = s.here := rfl
@[simp] theorem State.setGrove_nextOrd (s : State) (g : Nat) (k : Grove) : (s.setGrove g k).nextOrd = s.nextOrd := rfl
@[simp] theorem State.setGrove_fresh (s : State) (g : Nat) (k : Grove) : (s.setGrove g k).fresh = s.fresh := rfl
@[simp] theorem State.setGrove_ev (s : State) (g : Nat) (k : Grove) : (s.setGrove g k).ev = s.ev := rfl
@[simp] theorem State.setGrove_req (s : State) (g : Nat) (k : Grove) : (s.setGrove g k).req = s.req := rfl
@[simp] theorem State.setGrove_queue (s : State) (g : Nat) (k : Grove) : (s.setGrove g k).queue = s.queue := rfl
@[simp] theorem State.setGrove_agenda (s : State) (g : Nat) (k : Grove) : (s.setGrove g k).agenda = s.agenda := rfl

/-! ## State.setDie -/

@[simp] theorem State.setDie_time (s : State) (d : Nat) (k : Die) : (s.setDie d k).time = s.time := rfl
@[simp] theorem State.setDie_cores (s : State) (d : Nat) (k : Die) : (s.setDie d k).cores = s.cores := rfl
@[simp] theorem State.setDie_ctxs (s : State) (d : Nat) (k : Die) : (s.setDie d k).ctxs = s.ctxs := rfl
@[simp] theorem State.setDie_groves (s : State) (d : Nat) (k : Die) : (s.setDie d k).groves = s.groves := rfl
@[simp] theorem State.setDie_tasks (s : State) (d : Nat) (k : Die) : (s.setDie d k).tasks = s.tasks := rfl
@[simp] theorem State.setDie_insts (s : State) (d : Nat) (k : Die) : (s.setDie d k).insts = s.insts := rfl
@[simp] theorem State.setDie_mem (s : State) (d : Nat) (k : Die) : (s.setDie d k).mem = s.mem := rfl
@[simp] theorem State.setDie_hostMem (s : State) (d : Nat) (k : Die) : (s.setDie d k).hostMem = s.hostMem := rfl
@[simp] theorem State.setDie_remoteMem (s : State) (d : Nat) (k : Die) : (s.setDie d k).remoteMem = s.remoteMem := rfl
@[simp] theorem State.setDie_lines (s : State) (d : Nat) (k : Die) : (s.setDie d k).lines = s.lines := rfl
@[simp] theorem State.setDie_writeTs (s : State) (d : Nat) (k : Die) : (s.setDie d k).writeTs = s.writeTs := rfl
@[simp] theorem State.setDie_floor (s : State) (d : Nat) (k : Die) : (s.setDie d k).floor = s.floor := rfl
@[simp] theorem State.setDie_outTs (s : State) (d : Nat) (k : Die) : (s.setDie d k).outTs = s.outTs := rfl
@[simp] theorem State.setDie_roots (s : State) (d : Nat) (k : Die) : (s.setDie d k).roots = s.roots := rfl
@[simp] theorem State.setDie_regions (s : State) (d : Nat) (k : Die) : (s.setDie d k).regions = s.regions := rfl
@[simp] theorem State.setDie_upcalls (s : State) (d : Nat) (k : Die) : (s.setDie d k).upcalls = s.upcalls := rfl
@[simp] theorem State.setDie_chip (s : State) (d : Nat) (k : Die) : (s.setDie d k).chip = s.chip := rfl
@[simp] theorem State.setDie_objs (s : State) (d : Nat) (k : Die) : (s.setDie d k).objs = s.objs := rfl
@[simp] theorem State.setDie_units (s : State) (d : Nat) (k : Die) : (s.setDie d k).units = s.units := rfl
@[simp] theorem State.setDie_badUnits (s : State) (d : Nat) (k : Die) : (s.setDie d k).badUnits = s.badUnits := rfl
@[simp] theorem State.setDie_watches (s : State) (d : Nat) (k : Die) : (s.setDie d k).watches = s.watches := rfl
@[simp] theorem State.setDie_gens (s : State) (d : Nat) (k : Die) : (s.setDie d k).gens = s.gens := rfl
@[simp] theorem State.setDie_poolFrames (s : State) (d : Nat) (k : Die) : (s.setDie d k).poolFrames = s.poolFrames := rfl
@[simp] theorem State.setDie_poolGone (s : State) (d : Nat) (k : Die) : (s.setDie d k).poolGone = s.poolGone := rfl
@[simp] theorem State.setDie_copies (s : State) (d : Nat) (k : Die) : (s.setDie d k).copies = s.copies := rfl
@[simp] theorem State.setDie_targets (s : State) (d : Nat) (k : Die) : (s.setDie d k).targets = s.targets := rfl
@[simp] theorem State.setDie_bootFail (s : State) (d : Nat) (k : Die) : (s.setDie d k).bootFail = s.bootFail := rfl
@[simp] theorem State.setDie_ifsel (s : State) (d : Nat) (k : Die) : (s.setDie d k).ifsel = s.ifsel := rfl
@[simp] theorem State.setDie_booted (s : State) (d : Nat) (k : Die) : (s.setDie d k).booted = s.booted := rfl
@[simp] theorem State.setDie_queues (s : State) (d : Nat) (k : Die) : (s.setDie d k).queues = s.queues := rfl
@[simp] theorem State.setDie_fetchers (s : State) (d : Nat) (k : Die) : (s.setDie d k).fetchers = s.fetchers := rfl
@[simp] theorem State.setDie_nextInst (s : State) (d : Nat) (k : Die) : (s.setDie d k).nextInst = s.nextInst := rfl
@[simp] theorem State.setDie_lastRank (s : State) (d : Nat) (k : Die) : (s.setDie d k).lastRank = s.lastRank := rfl
@[simp] theorem State.setDie_exports (s : State) (d : Nat) (k : Die) : (s.setDie d k).exports = s.exports := rfl
@[simp] theorem State.setDie_redWins (s : State) (d : Nat) (k : Die) : (s.setDie d k).redWins = s.redWins := rfl
@[simp] theorem State.setDie_ports (s : State) (d : Nat) (k : Die) : (s.setDie d k).ports = s.ports := rfl
@[simp] theorem State.setDie_remap (s : State) (d : Nat) (k : Die) : (s.setDie d k).remap = s.remap := rfl
@[simp] theorem State.setDie_spares (s : State) (d : Nat) (k : Die) : (s.setDie d k).spares = s.spares := rfl
@[simp] theorem State.setDie_retiring (s : State) (d : Nat) (k : Die) : (s.setDie d k).retiring = s.retiring := rfl
@[simp] theorem State.setDie_poison (s : State) (d : Nat) (k : Die) : (s.setDie d k).poison = s.poison := rfl
@[simp] theorem State.setDie_mending (s : State) (d : Nat) (k : Die) : (s.setDie d k).mending = s.mending := rfl
@[simp] theorem State.setDie_ecc (s : State) (d : Nat) (k : Die) : (s.setDie d k).ecc = s.ecc := rfl
@[simp] theorem State.setDie_worn (s : State) (d : Nat) (k : Die) : (s.setDie d k).worn = s.worn := rfl
@[simp] theorem State.setDie_chans (s : State) (d : Nat) (k : Die) : (s.setDie d k).chans = s.chans := rfl
@[simp] theorem State.setDie_security (s : State) (d : Nat) (k : Die) : (s.setDie d k).security = s.security := rfl
@[simp] theorem State.setDie_keySlots (s : State) (d : Nat) (k : Die) : (s.setDie d k).keySlots = s.keySlots := rfl
@[simp] theorem State.setDie_meas (s : State) (d : Nat) (k : Die) : (s.setDie d k).meas = s.meas := rfl
@[simp] theorem State.setDie_svn (s : State) (d : Nat) (k : Die) : (s.setDie d k).svn = s.svn := rfl
@[simp] theorem State.setDie_digests (s : State) (d : Nat) (k : Die) : (s.setDie d k).digests = s.digests := rfl
@[simp] theorem State.setDie_accepted (s : State) (d : Nat) (k : Die) : (s.setDie d k).accepted = s.accepted := rfl
@[simp] theorem State.setDie_linkUse (s : State) (d : Nat) (k : Die) : (s.setDie d k).linkUse = s.linkUse := rfl
@[simp] theorem State.setDie_linkKeys (s : State) (d : Nat) (k : Die) : (s.setDie d k).linkKeys = s.linkKeys := rfl
@[simp] theorem State.setDie_memKeys (s : State) (d : Nat) (k : Die) : (s.setDie d k).memKeys = s.memKeys := rfl
@[simp] theorem State.setDie_sapwood (s : State) (d : Nat) (k : Die) : (s.setDie d k).sapwood = s.sapwood := rfl
@[simp] theorem State.setDie_telemPa (s : State) (d : Nat) (k : Die) : (s.setDie d k).telemPa = s.telemPa := rfl
@[simp] theorem State.setDie_telemEvery (s : State) (d : Nat) (k : Die) : (s.setDie d k).telemEvery = s.telemEvery := rfl
@[simp] theorem State.setDie_telemSeq (s : State) (d : Nat) (k : Die) : (s.setDie d k).telemSeq = s.telemSeq := rfl
@[simp] theorem State.setDie_telemLast (s : State) (d : Nat) (k : Die) : (s.setDie d k).telemLast = s.telemLast := rfl
@[simp] theorem State.setDie_plim (s : State) (d : Nat) (k : Die) : (s.setDie d k).plim = s.plim := rfl
@[simp] theorem State.setDie_fmax (s : State) (d : Nat) (k : Die) : (s.setDie d k).fmax = s.fmax := rfl
@[simp] theorem State.setDie_mhz (s : State) (d : Nat) (k : Die) : (s.setDie d k).mhz = s.mhz := rfl
@[simp] theorem State.setDie_gated (s : State) (d : Nat) (k : Die) : (s.setDie d k).gated = s.gated := rfl
@[simp] theorem State.setDie_throttled (s : State) (d : Nat) (k : Die) : (s.setDie d k).throttled = s.throttled := rfl
@[simp] theorem State.setDie_powerAt (s : State) (d : Nat) (k : Die) : (s.setDie d k).powerAt = s.powerAt := rfl
@[simp] theorem State.setDie_warmAt (s : State) (d : Nat) (k : Die) : (s.setDie d k).warmAt = s.warmAt := rfl
@[simp] theorem State.setDie_counters (s : State) (d : Nat) (k : Die) : (s.setDie d k).counters = s.counters := rfl
@[simp] theorem State.setDie_reqs (s : State) (d : Nat) (k : Die) : (s.setDie d k).reqs = s.reqs := rfl
@[simp] theorem State.setDie_core (s : State) (d : Nat) (k : Die) : (s.setDie d k).core = s.core := rfl
@[simp] theorem State.setDie_ctx (s : State) (d : Nat) (k : Die) : (s.setDie d k).ctx = s.ctx := rfl
@[simp] theorem State.setDie_slot (s : State) (d : Nat) (k : Die) : (s.setDie d k).slot = s.slot := rfl
@[simp] theorem State.setDie_inHeader (s : State) (d : Nat) (k : Die) : (s.setDie d k).inHeader = s.inHeader := rfl
@[simp] theorem State.setDie_squash (s : State) (d : Nat) (k : Die) : (s.setDie d k).squash = s.squash := rfl
@[simp] theorem State.setDie_checked (s : State) (d : Nat) (k : Die) : (s.setDie d k).checked = s.checked := rfl
@[simp] theorem State.setDie_here (s : State) (d : Nat) (k : Die) : (s.setDie d k).here = s.here := rfl
@[simp] theorem State.setDie_nextOrd (s : State) (d : Nat) (k : Die) : (s.setDie d k).nextOrd = s.nextOrd := rfl
@[simp] theorem State.setDie_fresh (s : State) (d : Nat) (k : Die) : (s.setDie d k).fresh = s.fresh := rfl
@[simp] theorem State.setDie_ev (s : State) (d : Nat) (k : Die) : (s.setDie d k).ev = s.ev := rfl
@[simp] theorem State.setDie_req (s : State) (d : Nat) (k : Die) : (s.setDie d k).req = s.req := rfl
@[simp] theorem State.setDie_queue (s : State) (d : Nat) (k : Die) : (s.setDie d k).queue = s.queue := rfl
@[simp] theorem State.setDie_agenda (s : State) (d : Nat) (k : Die) : (s.setDie d k).agenda = s.agenda := rfl

/-! ## State.setQueue -/

@[simp] theorem State.setQueue_time (s : State) (q : Nat) (k : Queue) : (s.setQueue q k).time = s.time := rfl
@[simp] theorem State.setQueue_cores (s : State) (q : Nat) (k : Queue) : (s.setQueue q k).cores = s.cores := rfl
@[simp] theorem State.setQueue_ctxs (s : State) (q : Nat) (k : Queue) : (s.setQueue q k).ctxs = s.ctxs := rfl
@[simp] theorem State.setQueue_groves (s : State) (q : Nat) (k : Queue) : (s.setQueue q k).groves = s.groves := rfl
@[simp] theorem State.setQueue_dies (s : State) (q : Nat) (k : Queue) : (s.setQueue q k).dies = s.dies := rfl
@[simp] theorem State.setQueue_tasks (s : State) (q : Nat) (k : Queue) : (s.setQueue q k).tasks = s.tasks := rfl
@[simp] theorem State.setQueue_insts (s : State) (q : Nat) (k : Queue) : (s.setQueue q k).insts = s.insts := rfl
@[simp] theorem State.setQueue_mem (s : State) (q : Nat) (k : Queue) : (s.setQueue q k).mem = s.mem := rfl
@[simp] theorem State.setQueue_hostMem (s : State) (q : Nat) (k : Queue) : (s.setQueue q k).hostMem = s.hostMem := rfl
@[simp] theorem State.setQueue_remoteMem (s : State) (q : Nat) (k : Queue) : (s.setQueue q k).remoteMem = s.remoteMem := rfl
@[simp] theorem State.setQueue_lines (s : State) (q : Nat) (k : Queue) : (s.setQueue q k).lines = s.lines := rfl
@[simp] theorem State.setQueue_writeTs (s : State) (q : Nat) (k : Queue) : (s.setQueue q k).writeTs = s.writeTs := rfl
@[simp] theorem State.setQueue_floor (s : State) (q : Nat) (k : Queue) : (s.setQueue q k).floor = s.floor := rfl
@[simp] theorem State.setQueue_outTs (s : State) (q : Nat) (k : Queue) : (s.setQueue q k).outTs = s.outTs := rfl
@[simp] theorem State.setQueue_roots (s : State) (q : Nat) (k : Queue) : (s.setQueue q k).roots = s.roots := rfl
@[simp] theorem State.setQueue_regions (s : State) (q : Nat) (k : Queue) : (s.setQueue q k).regions = s.regions := rfl
@[simp] theorem State.setQueue_upcalls (s : State) (q : Nat) (k : Queue) : (s.setQueue q k).upcalls = s.upcalls := rfl
@[simp] theorem State.setQueue_chip (s : State) (q : Nat) (k : Queue) : (s.setQueue q k).chip = s.chip := rfl
@[simp] theorem State.setQueue_objs (s : State) (q : Nat) (k : Queue) : (s.setQueue q k).objs = s.objs := rfl
@[simp] theorem State.setQueue_units (s : State) (q : Nat) (k : Queue) : (s.setQueue q k).units = s.units := rfl
@[simp] theorem State.setQueue_badUnits (s : State) (q : Nat) (k : Queue) : (s.setQueue q k).badUnits = s.badUnits := rfl
@[simp] theorem State.setQueue_watches (s : State) (q : Nat) (k : Queue) : (s.setQueue q k).watches = s.watches := rfl
@[simp] theorem State.setQueue_gens (s : State) (q : Nat) (k : Queue) : (s.setQueue q k).gens = s.gens := rfl
@[simp] theorem State.setQueue_poolFrames (s : State) (q : Nat) (k : Queue) : (s.setQueue q k).poolFrames = s.poolFrames := rfl
@[simp] theorem State.setQueue_poolGone (s : State) (q : Nat) (k : Queue) : (s.setQueue q k).poolGone = s.poolGone := rfl
@[simp] theorem State.setQueue_copies (s : State) (q : Nat) (k : Queue) : (s.setQueue q k).copies = s.copies := rfl
@[simp] theorem State.setQueue_targets (s : State) (q : Nat) (k : Queue) : (s.setQueue q k).targets = s.targets := rfl
@[simp] theorem State.setQueue_bootFail (s : State) (q : Nat) (k : Queue) : (s.setQueue q k).bootFail = s.bootFail := rfl
@[simp] theorem State.setQueue_ifsel (s : State) (q : Nat) (k : Queue) : (s.setQueue q k).ifsel = s.ifsel := rfl
@[simp] theorem State.setQueue_booted (s : State) (q : Nat) (k : Queue) : (s.setQueue q k).booted = s.booted := rfl
@[simp] theorem State.setQueue_fetchers (s : State) (q : Nat) (k : Queue) : (s.setQueue q k).fetchers = s.fetchers := rfl
@[simp] theorem State.setQueue_nextInst (s : State) (q : Nat) (k : Queue) : (s.setQueue q k).nextInst = s.nextInst := rfl
@[simp] theorem State.setQueue_lastRank (s : State) (q : Nat) (k : Queue) : (s.setQueue q k).lastRank = s.lastRank := rfl
@[simp] theorem State.setQueue_exports (s : State) (q : Nat) (k : Queue) : (s.setQueue q k).exports = s.exports := rfl
@[simp] theorem State.setQueue_redWins (s : State) (q : Nat) (k : Queue) : (s.setQueue q k).redWins = s.redWins := rfl
@[simp] theorem State.setQueue_ports (s : State) (q : Nat) (k : Queue) : (s.setQueue q k).ports = s.ports := rfl
@[simp] theorem State.setQueue_remap (s : State) (q : Nat) (k : Queue) : (s.setQueue q k).remap = s.remap := rfl
@[simp] theorem State.setQueue_spares (s : State) (q : Nat) (k : Queue) : (s.setQueue q k).spares = s.spares := rfl
@[simp] theorem State.setQueue_retiring (s : State) (q : Nat) (k : Queue) : (s.setQueue q k).retiring = s.retiring := rfl
@[simp] theorem State.setQueue_poison (s : State) (q : Nat) (k : Queue) : (s.setQueue q k).poison = s.poison := rfl
@[simp] theorem State.setQueue_mending (s : State) (q : Nat) (k : Queue) : (s.setQueue q k).mending = s.mending := rfl
@[simp] theorem State.setQueue_ecc (s : State) (q : Nat) (k : Queue) : (s.setQueue q k).ecc = s.ecc := rfl
@[simp] theorem State.setQueue_worn (s : State) (q : Nat) (k : Queue) : (s.setQueue q k).worn = s.worn := rfl
@[simp] theorem State.setQueue_chans (s : State) (q : Nat) (k : Queue) : (s.setQueue q k).chans = s.chans := rfl
@[simp] theorem State.setQueue_security (s : State) (q : Nat) (k : Queue) : (s.setQueue q k).security = s.security := rfl
@[simp] theorem State.setQueue_keySlots (s : State) (q : Nat) (k : Queue) : (s.setQueue q k).keySlots = s.keySlots := rfl
@[simp] theorem State.setQueue_meas (s : State) (q : Nat) (k : Queue) : (s.setQueue q k).meas = s.meas := rfl
@[simp] theorem State.setQueue_svn (s : State) (q : Nat) (k : Queue) : (s.setQueue q k).svn = s.svn := rfl
@[simp] theorem State.setQueue_digests (s : State) (q : Nat) (k : Queue) : (s.setQueue q k).digests = s.digests := rfl
@[simp] theorem State.setQueue_accepted (s : State) (q : Nat) (k : Queue) : (s.setQueue q k).accepted = s.accepted := rfl
@[simp] theorem State.setQueue_linkUse (s : State) (q : Nat) (k : Queue) : (s.setQueue q k).linkUse = s.linkUse := rfl
@[simp] theorem State.setQueue_linkKeys (s : State) (q : Nat) (k : Queue) : (s.setQueue q k).linkKeys = s.linkKeys := rfl
@[simp] theorem State.setQueue_memKeys (s : State) (q : Nat) (k : Queue) : (s.setQueue q k).memKeys = s.memKeys := rfl
@[simp] theorem State.setQueue_sapwood (s : State) (q : Nat) (k : Queue) : (s.setQueue q k).sapwood = s.sapwood := rfl
@[simp] theorem State.setQueue_telemPa (s : State) (q : Nat) (k : Queue) : (s.setQueue q k).telemPa = s.telemPa := rfl
@[simp] theorem State.setQueue_telemEvery (s : State) (q : Nat) (k : Queue) : (s.setQueue q k).telemEvery = s.telemEvery := rfl
@[simp] theorem State.setQueue_telemSeq (s : State) (q : Nat) (k : Queue) : (s.setQueue q k).telemSeq = s.telemSeq := rfl
@[simp] theorem State.setQueue_telemLast (s : State) (q : Nat) (k : Queue) : (s.setQueue q k).telemLast = s.telemLast := rfl
@[simp] theorem State.setQueue_plim (s : State) (q : Nat) (k : Queue) : (s.setQueue q k).plim = s.plim := rfl
@[simp] theorem State.setQueue_fmax (s : State) (q : Nat) (k : Queue) : (s.setQueue q k).fmax = s.fmax := rfl
@[simp] theorem State.setQueue_mhz (s : State) (q : Nat) (k : Queue) : (s.setQueue q k).mhz = s.mhz := rfl
@[simp] theorem State.setQueue_gated (s : State) (q : Nat) (k : Queue) : (s.setQueue q k).gated = s.gated := rfl
@[simp] theorem State.setQueue_throttled (s : State) (q : Nat) (k : Queue) : (s.setQueue q k).throttled = s.throttled := rfl
@[simp] theorem State.setQueue_powerAt (s : State) (q : Nat) (k : Queue) : (s.setQueue q k).powerAt = s.powerAt := rfl
@[simp] theorem State.setQueue_warmAt (s : State) (q : Nat) (k : Queue) : (s.setQueue q k).warmAt = s.warmAt := rfl
@[simp] theorem State.setQueue_counters (s : State) (q : Nat) (k : Queue) : (s.setQueue q k).counters = s.counters := rfl
@[simp] theorem State.setQueue_reqs (s : State) (q : Nat) (k : Queue) : (s.setQueue q k).reqs = s.reqs := rfl
@[simp] theorem State.setQueue_core (s : State) (q : Nat) (k : Queue) : (s.setQueue q k).core = s.core := rfl
@[simp] theorem State.setQueue_ctx (s : State) (q : Nat) (k : Queue) : (s.setQueue q k).ctx = s.ctx := rfl
@[simp] theorem State.setQueue_slot (s : State) (q : Nat) (k : Queue) : (s.setQueue q k).slot = s.slot := rfl
@[simp] theorem State.setQueue_inHeader (s : State) (q : Nat) (k : Queue) : (s.setQueue q k).inHeader = s.inHeader := rfl
@[simp] theorem State.setQueue_squash (s : State) (q : Nat) (k : Queue) : (s.setQueue q k).squash = s.squash := rfl
@[simp] theorem State.setQueue_checked (s : State) (q : Nat) (k : Queue) : (s.setQueue q k).checked = s.checked := rfl
@[simp] theorem State.setQueue_here (s : State) (q : Nat) (k : Queue) : (s.setQueue q k).here = s.here := rfl
@[simp] theorem State.setQueue_nextOrd (s : State) (q : Nat) (k : Queue) : (s.setQueue q k).nextOrd = s.nextOrd := rfl
@[simp] theorem State.setQueue_fresh (s : State) (q : Nat) (k : Queue) : (s.setQueue q k).fresh = s.fresh := rfl
@[simp] theorem State.setQueue_ev (s : State) (q : Nat) (k : Queue) : (s.setQueue q k).ev = s.ev := rfl
@[simp] theorem State.setQueue_req (s : State) (q : Nat) (k : Queue) : (s.setQueue q k).req = s.req := rfl
@[simp] theorem State.setQueue_queue (s : State) (q : Nat) (k : Queue) : (s.setQueue q k).queue = s.queue := rfl
@[simp] theorem State.setQueue_agenda (s : State) (q : Nat) (k : Queue) : (s.setQueue q k).agenda = s.agenda := rfl

/-! ## State.setGen -/

@[simp] theorem State.setGen_time (s : State) (n : Nat) (k : Gen) : (s.setGen n k).time = s.time := rfl
@[simp] theorem State.setGen_cores (s : State) (n : Nat) (k : Gen) : (s.setGen n k).cores = s.cores := rfl
@[simp] theorem State.setGen_ctxs (s : State) (n : Nat) (k : Gen) : (s.setGen n k).ctxs = s.ctxs := rfl
@[simp] theorem State.setGen_groves (s : State) (n : Nat) (k : Gen) : (s.setGen n k).groves = s.groves := rfl
@[simp] theorem State.setGen_dies (s : State) (n : Nat) (k : Gen) : (s.setGen n k).dies = s.dies := rfl
@[simp] theorem State.setGen_tasks (s : State) (n : Nat) (k : Gen) : (s.setGen n k).tasks = s.tasks := rfl
@[simp] theorem State.setGen_insts (s : State) (n : Nat) (k : Gen) : (s.setGen n k).insts = s.insts := rfl
@[simp] theorem State.setGen_mem (s : State) (n : Nat) (k : Gen) : (s.setGen n k).mem = s.mem := rfl
@[simp] theorem State.setGen_hostMem (s : State) (n : Nat) (k : Gen) : (s.setGen n k).hostMem = s.hostMem := rfl
@[simp] theorem State.setGen_remoteMem (s : State) (n : Nat) (k : Gen) : (s.setGen n k).remoteMem = s.remoteMem := rfl
@[simp] theorem State.setGen_lines (s : State) (n : Nat) (k : Gen) : (s.setGen n k).lines = s.lines := rfl
@[simp] theorem State.setGen_writeTs (s : State) (n : Nat) (k : Gen) : (s.setGen n k).writeTs = s.writeTs := rfl
@[simp] theorem State.setGen_floor (s : State) (n : Nat) (k : Gen) : (s.setGen n k).floor = s.floor := rfl
@[simp] theorem State.setGen_outTs (s : State) (n : Nat) (k : Gen) : (s.setGen n k).outTs = s.outTs := rfl
@[simp] theorem State.setGen_roots (s : State) (n : Nat) (k : Gen) : (s.setGen n k).roots = s.roots := rfl
@[simp] theorem State.setGen_regions (s : State) (n : Nat) (k : Gen) : (s.setGen n k).regions = s.regions := rfl
@[simp] theorem State.setGen_upcalls (s : State) (n : Nat) (k : Gen) : (s.setGen n k).upcalls = s.upcalls := rfl
@[simp] theorem State.setGen_chip (s : State) (n : Nat) (k : Gen) : (s.setGen n k).chip = s.chip := rfl
@[simp] theorem State.setGen_objs (s : State) (n : Nat) (k : Gen) : (s.setGen n k).objs = s.objs := rfl
@[simp] theorem State.setGen_units (s : State) (n : Nat) (k : Gen) : (s.setGen n k).units = s.units := rfl
@[simp] theorem State.setGen_badUnits (s : State) (n : Nat) (k : Gen) : (s.setGen n k).badUnits = s.badUnits := rfl
@[simp] theorem State.setGen_watches (s : State) (n : Nat) (k : Gen) : (s.setGen n k).watches = s.watches := rfl
@[simp] theorem State.setGen_poolFrames (s : State) (n : Nat) (k : Gen) : (s.setGen n k).poolFrames = s.poolFrames := rfl
@[simp] theorem State.setGen_poolGone (s : State) (n : Nat) (k : Gen) : (s.setGen n k).poolGone = s.poolGone := rfl
@[simp] theorem State.setGen_copies (s : State) (n : Nat) (k : Gen) : (s.setGen n k).copies = s.copies := rfl
@[simp] theorem State.setGen_targets (s : State) (n : Nat) (k : Gen) : (s.setGen n k).targets = s.targets := rfl
@[simp] theorem State.setGen_bootFail (s : State) (n : Nat) (k : Gen) : (s.setGen n k).bootFail = s.bootFail := rfl
@[simp] theorem State.setGen_ifsel (s : State) (n : Nat) (k : Gen) : (s.setGen n k).ifsel = s.ifsel := rfl
@[simp] theorem State.setGen_booted (s : State) (n : Nat) (k : Gen) : (s.setGen n k).booted = s.booted := rfl
@[simp] theorem State.setGen_queues (s : State) (n : Nat) (k : Gen) : (s.setGen n k).queues = s.queues := rfl
@[simp] theorem State.setGen_fetchers (s : State) (n : Nat) (k : Gen) : (s.setGen n k).fetchers = s.fetchers := rfl
@[simp] theorem State.setGen_nextInst (s : State) (n : Nat) (k : Gen) : (s.setGen n k).nextInst = s.nextInst := rfl
@[simp] theorem State.setGen_lastRank (s : State) (n : Nat) (k : Gen) : (s.setGen n k).lastRank = s.lastRank := rfl
@[simp] theorem State.setGen_exports (s : State) (n : Nat) (k : Gen) : (s.setGen n k).exports = s.exports := rfl
@[simp] theorem State.setGen_redWins (s : State) (n : Nat) (k : Gen) : (s.setGen n k).redWins = s.redWins := rfl
@[simp] theorem State.setGen_ports (s : State) (n : Nat) (k : Gen) : (s.setGen n k).ports = s.ports := rfl
@[simp] theorem State.setGen_remap (s : State) (n : Nat) (k : Gen) : (s.setGen n k).remap = s.remap := rfl
@[simp] theorem State.setGen_spares (s : State) (n : Nat) (k : Gen) : (s.setGen n k).spares = s.spares := rfl
@[simp] theorem State.setGen_retiring (s : State) (n : Nat) (k : Gen) : (s.setGen n k).retiring = s.retiring := rfl
@[simp] theorem State.setGen_poison (s : State) (n : Nat) (k : Gen) : (s.setGen n k).poison = s.poison := rfl
@[simp] theorem State.setGen_mending (s : State) (n : Nat) (k : Gen) : (s.setGen n k).mending = s.mending := rfl
@[simp] theorem State.setGen_ecc (s : State) (n : Nat) (k : Gen) : (s.setGen n k).ecc = s.ecc := rfl
@[simp] theorem State.setGen_worn (s : State) (n : Nat) (k : Gen) : (s.setGen n k).worn = s.worn := rfl
@[simp] theorem State.setGen_chans (s : State) (n : Nat) (k : Gen) : (s.setGen n k).chans = s.chans := rfl
@[simp] theorem State.setGen_security (s : State) (n : Nat) (k : Gen) : (s.setGen n k).security = s.security := rfl
@[simp] theorem State.setGen_keySlots (s : State) (n : Nat) (k : Gen) : (s.setGen n k).keySlots = s.keySlots := rfl
@[simp] theorem State.setGen_meas (s : State) (n : Nat) (k : Gen) : (s.setGen n k).meas = s.meas := rfl
@[simp] theorem State.setGen_svn (s : State) (n : Nat) (k : Gen) : (s.setGen n k).svn = s.svn := rfl
@[simp] theorem State.setGen_digests (s : State) (n : Nat) (k : Gen) : (s.setGen n k).digests = s.digests := rfl
@[simp] theorem State.setGen_accepted (s : State) (n : Nat) (k : Gen) : (s.setGen n k).accepted = s.accepted := rfl
@[simp] theorem State.setGen_linkUse (s : State) (n : Nat) (k : Gen) : (s.setGen n k).linkUse = s.linkUse := rfl
@[simp] theorem State.setGen_linkKeys (s : State) (n : Nat) (k : Gen) : (s.setGen n k).linkKeys = s.linkKeys := rfl
@[simp] theorem State.setGen_memKeys (s : State) (n : Nat) (k : Gen) : (s.setGen n k).memKeys = s.memKeys := rfl
@[simp] theorem State.setGen_sapwood (s : State) (n : Nat) (k : Gen) : (s.setGen n k).sapwood = s.sapwood := rfl
@[simp] theorem State.setGen_telemPa (s : State) (n : Nat) (k : Gen) : (s.setGen n k).telemPa = s.telemPa := rfl
@[simp] theorem State.setGen_telemEvery (s : State) (n : Nat) (k : Gen) : (s.setGen n k).telemEvery = s.telemEvery := rfl
@[simp] theorem State.setGen_telemSeq (s : State) (n : Nat) (k : Gen) : (s.setGen n k).telemSeq = s.telemSeq := rfl
@[simp] theorem State.setGen_telemLast (s : State) (n : Nat) (k : Gen) : (s.setGen n k).telemLast = s.telemLast := rfl
@[simp] theorem State.setGen_plim (s : State) (n : Nat) (k : Gen) : (s.setGen n k).plim = s.plim := rfl
@[simp] theorem State.setGen_fmax (s : State) (n : Nat) (k : Gen) : (s.setGen n k).fmax = s.fmax := rfl
@[simp] theorem State.setGen_mhz (s : State) (n : Nat) (k : Gen) : (s.setGen n k).mhz = s.mhz := rfl
@[simp] theorem State.setGen_gated (s : State) (n : Nat) (k : Gen) : (s.setGen n k).gated = s.gated := rfl
@[simp] theorem State.setGen_throttled (s : State) (n : Nat) (k : Gen) : (s.setGen n k).throttled = s.throttled := rfl
@[simp] theorem State.setGen_powerAt (s : State) (n : Nat) (k : Gen) : (s.setGen n k).powerAt = s.powerAt := rfl
@[simp] theorem State.setGen_warmAt (s : State) (n : Nat) (k : Gen) : (s.setGen n k).warmAt = s.warmAt := rfl
@[simp] theorem State.setGen_counters (s : State) (n : Nat) (k : Gen) : (s.setGen n k).counters = s.counters := rfl
@[simp] theorem State.setGen_reqs (s : State) (n : Nat) (k : Gen) : (s.setGen n k).reqs = s.reqs := rfl
@[simp] theorem State.setGen_core (s : State) (n : Nat) (k : Gen) : (s.setGen n k).core = s.core := rfl
@[simp] theorem State.setGen_ctx (s : State) (n : Nat) (k : Gen) : (s.setGen n k).ctx = s.ctx := rfl
@[simp] theorem State.setGen_slot (s : State) (n : Nat) (k : Gen) : (s.setGen n k).slot = s.slot := rfl
@[simp] theorem State.setGen_inHeader (s : State) (n : Nat) (k : Gen) : (s.setGen n k).inHeader = s.inHeader := rfl
@[simp] theorem State.setGen_squash (s : State) (n : Nat) (k : Gen) : (s.setGen n k).squash = s.squash := rfl
@[simp] theorem State.setGen_checked (s : State) (n : Nat) (k : Gen) : (s.setGen n k).checked = s.checked := rfl
@[simp] theorem State.setGen_here (s : State) (n : Nat) (k : Gen) : (s.setGen n k).here = s.here := rfl
@[simp] theorem State.setGen_nextOrd (s : State) (n : Nat) (k : Gen) : (s.setGen n k).nextOrd = s.nextOrd := rfl
@[simp] theorem State.setGen_fresh (s : State) (n : Nat) (k : Gen) : (s.setGen n k).fresh = s.fresh := rfl
@[simp] theorem State.setGen_ev (s : State) (n : Nat) (k : Gen) : (s.setGen n k).ev = s.ev := rfl
@[simp] theorem State.setGen_req (s : State) (n : Nat) (k : Gen) : (s.setGen n k).req = s.req := rfl
@[simp] theorem State.setGen_queue (s : State) (n : Nat) (k : Gen) : (s.setGen n k).queue = s.queue := rfl
@[simp] theorem State.setGen_agenda (s : State) (n : Nat) (k : Gen) : (s.setGen n k).agenda = s.agenda := rfl

/-! ## State.setTask -/

@[simp] theorem State.setTask_time (s : State) (n : Nat) (t : Task) : (s.setTask n t).time = s.time := rfl
@[simp] theorem State.setTask_cores (s : State) (n : Nat) (t : Task) : (s.setTask n t).cores = s.cores := rfl
@[simp] theorem State.setTask_ctxs (s : State) (n : Nat) (t : Task) : (s.setTask n t).ctxs = s.ctxs := rfl
@[simp] theorem State.setTask_groves (s : State) (n : Nat) (t : Task) : (s.setTask n t).groves = s.groves := rfl
@[simp] theorem State.setTask_dies (s : State) (n : Nat) (t : Task) : (s.setTask n t).dies = s.dies := rfl
@[simp] theorem State.setTask_insts (s : State) (n : Nat) (t : Task) : (s.setTask n t).insts = s.insts := rfl
@[simp] theorem State.setTask_mem (s : State) (n : Nat) (t : Task) : (s.setTask n t).mem = s.mem := rfl
@[simp] theorem State.setTask_hostMem (s : State) (n : Nat) (t : Task) : (s.setTask n t).hostMem = s.hostMem := rfl
@[simp] theorem State.setTask_remoteMem (s : State) (n : Nat) (t : Task) : (s.setTask n t).remoteMem = s.remoteMem := rfl
@[simp] theorem State.setTask_lines (s : State) (n : Nat) (t : Task) : (s.setTask n t).lines = s.lines := rfl
@[simp] theorem State.setTask_writeTs (s : State) (n : Nat) (t : Task) : (s.setTask n t).writeTs = s.writeTs := rfl
@[simp] theorem State.setTask_floor (s : State) (n : Nat) (t : Task) : (s.setTask n t).floor = s.floor := rfl
@[simp] theorem State.setTask_outTs (s : State) (n : Nat) (t : Task) : (s.setTask n t).outTs = s.outTs := rfl
@[simp] theorem State.setTask_roots (s : State) (n : Nat) (t : Task) : (s.setTask n t).roots = s.roots := rfl
@[simp] theorem State.setTask_regions (s : State) (n : Nat) (t : Task) : (s.setTask n t).regions = s.regions := rfl
@[simp] theorem State.setTask_upcalls (s : State) (n : Nat) (t : Task) : (s.setTask n t).upcalls = s.upcalls := rfl
@[simp] theorem State.setTask_chip (s : State) (n : Nat) (t : Task) : (s.setTask n t).chip = s.chip := rfl
@[simp] theorem State.setTask_objs (s : State) (n : Nat) (t : Task) : (s.setTask n t).objs = s.objs := rfl
@[simp] theorem State.setTask_units (s : State) (n : Nat) (t : Task) : (s.setTask n t).units = s.units := rfl
@[simp] theorem State.setTask_badUnits (s : State) (n : Nat) (t : Task) : (s.setTask n t).badUnits = s.badUnits := rfl
@[simp] theorem State.setTask_watches (s : State) (n : Nat) (t : Task) : (s.setTask n t).watches = s.watches := rfl
@[simp] theorem State.setTask_gens (s : State) (n : Nat) (t : Task) : (s.setTask n t).gens = s.gens := rfl
@[simp] theorem State.setTask_poolFrames (s : State) (n : Nat) (t : Task) : (s.setTask n t).poolFrames = s.poolFrames := rfl
@[simp] theorem State.setTask_poolGone (s : State) (n : Nat) (t : Task) : (s.setTask n t).poolGone = s.poolGone := rfl
@[simp] theorem State.setTask_copies (s : State) (n : Nat) (t : Task) : (s.setTask n t).copies = s.copies := rfl
@[simp] theorem State.setTask_targets (s : State) (n : Nat) (t : Task) : (s.setTask n t).targets = s.targets := rfl
@[simp] theorem State.setTask_bootFail (s : State) (n : Nat) (t : Task) : (s.setTask n t).bootFail = s.bootFail := rfl
@[simp] theorem State.setTask_ifsel (s : State) (n : Nat) (t : Task) : (s.setTask n t).ifsel = s.ifsel := rfl
@[simp] theorem State.setTask_booted (s : State) (n : Nat) (t : Task) : (s.setTask n t).booted = s.booted := rfl
@[simp] theorem State.setTask_queues (s : State) (n : Nat) (t : Task) : (s.setTask n t).queues = s.queues := rfl
@[simp] theorem State.setTask_fetchers (s : State) (n : Nat) (t : Task) : (s.setTask n t).fetchers = s.fetchers := rfl
@[simp] theorem State.setTask_nextInst (s : State) (n : Nat) (t : Task) : (s.setTask n t).nextInst = s.nextInst := rfl
@[simp] theorem State.setTask_lastRank (s : State) (n : Nat) (t : Task) : (s.setTask n t).lastRank = s.lastRank := rfl
@[simp] theorem State.setTask_exports (s : State) (n : Nat) (t : Task) : (s.setTask n t).exports = s.exports := rfl
@[simp] theorem State.setTask_redWins (s : State) (n : Nat) (t : Task) : (s.setTask n t).redWins = s.redWins := rfl
@[simp] theorem State.setTask_ports (s : State) (n : Nat) (t : Task) : (s.setTask n t).ports = s.ports := rfl
@[simp] theorem State.setTask_remap (s : State) (n : Nat) (t : Task) : (s.setTask n t).remap = s.remap := rfl
@[simp] theorem State.setTask_spares (s : State) (n : Nat) (t : Task) : (s.setTask n t).spares = s.spares := rfl
@[simp] theorem State.setTask_retiring (s : State) (n : Nat) (t : Task) : (s.setTask n t).retiring = s.retiring := rfl
@[simp] theorem State.setTask_poison (s : State) (n : Nat) (t : Task) : (s.setTask n t).poison = s.poison := rfl
@[simp] theorem State.setTask_mending (s : State) (n : Nat) (t : Task) : (s.setTask n t).mending = s.mending := rfl
@[simp] theorem State.setTask_ecc (s : State) (n : Nat) (t : Task) : (s.setTask n t).ecc = s.ecc := rfl
@[simp] theorem State.setTask_worn (s : State) (n : Nat) (t : Task) : (s.setTask n t).worn = s.worn := rfl
@[simp] theorem State.setTask_chans (s : State) (n : Nat) (t : Task) : (s.setTask n t).chans = s.chans := rfl
@[simp] theorem State.setTask_security (s : State) (n : Nat) (t : Task) : (s.setTask n t).security = s.security := rfl
@[simp] theorem State.setTask_keySlots (s : State) (n : Nat) (t : Task) : (s.setTask n t).keySlots = s.keySlots := rfl
@[simp] theorem State.setTask_meas (s : State) (n : Nat) (t : Task) : (s.setTask n t).meas = s.meas := rfl
@[simp] theorem State.setTask_svn (s : State) (n : Nat) (t : Task) : (s.setTask n t).svn = s.svn := rfl
@[simp] theorem State.setTask_digests (s : State) (n : Nat) (t : Task) : (s.setTask n t).digests = s.digests := rfl
@[simp] theorem State.setTask_accepted (s : State) (n : Nat) (t : Task) : (s.setTask n t).accepted = s.accepted := rfl
@[simp] theorem State.setTask_linkUse (s : State) (n : Nat) (t : Task) : (s.setTask n t).linkUse = s.linkUse := rfl
@[simp] theorem State.setTask_linkKeys (s : State) (n : Nat) (t : Task) : (s.setTask n t).linkKeys = s.linkKeys := rfl
@[simp] theorem State.setTask_memKeys (s : State) (n : Nat) (t : Task) : (s.setTask n t).memKeys = s.memKeys := rfl
@[simp] theorem State.setTask_sapwood (s : State) (n : Nat) (t : Task) : (s.setTask n t).sapwood = s.sapwood := rfl
@[simp] theorem State.setTask_telemPa (s : State) (n : Nat) (t : Task) : (s.setTask n t).telemPa = s.telemPa := rfl
@[simp] theorem State.setTask_telemEvery (s : State) (n : Nat) (t : Task) : (s.setTask n t).telemEvery = s.telemEvery := rfl
@[simp] theorem State.setTask_telemSeq (s : State) (n : Nat) (t : Task) : (s.setTask n t).telemSeq = s.telemSeq := rfl
@[simp] theorem State.setTask_telemLast (s : State) (n : Nat) (t : Task) : (s.setTask n t).telemLast = s.telemLast := rfl
@[simp] theorem State.setTask_plim (s : State) (n : Nat) (t : Task) : (s.setTask n t).plim = s.plim := rfl
@[simp] theorem State.setTask_fmax (s : State) (n : Nat) (t : Task) : (s.setTask n t).fmax = s.fmax := rfl
@[simp] theorem State.setTask_mhz (s : State) (n : Nat) (t : Task) : (s.setTask n t).mhz = s.mhz := rfl
@[simp] theorem State.setTask_gated (s : State) (n : Nat) (t : Task) : (s.setTask n t).gated = s.gated := rfl
@[simp] theorem State.setTask_throttled (s : State) (n : Nat) (t : Task) : (s.setTask n t).throttled = s.throttled := rfl
@[simp] theorem State.setTask_powerAt (s : State) (n : Nat) (t : Task) : (s.setTask n t).powerAt = s.powerAt := rfl
@[simp] theorem State.setTask_warmAt (s : State) (n : Nat) (t : Task) : (s.setTask n t).warmAt = s.warmAt := rfl
@[simp] theorem State.setTask_counters (s : State) (n : Nat) (t : Task) : (s.setTask n t).counters = s.counters := rfl
@[simp] theorem State.setTask_reqs (s : State) (n : Nat) (t : Task) : (s.setTask n t).reqs = s.reqs := rfl
@[simp] theorem State.setTask_core (s : State) (n : Nat) (t : Task) : (s.setTask n t).core = s.core := rfl
@[simp] theorem State.setTask_ctx (s : State) (n : Nat) (t : Task) : (s.setTask n t).ctx = s.ctx := rfl
@[simp] theorem State.setTask_slot (s : State) (n : Nat) (t : Task) : (s.setTask n t).slot = s.slot := rfl
@[simp] theorem State.setTask_inHeader (s : State) (n : Nat) (t : Task) : (s.setTask n t).inHeader = s.inHeader := rfl
@[simp] theorem State.setTask_squash (s : State) (n : Nat) (t : Task) : (s.setTask n t).squash = s.squash := rfl
@[simp] theorem State.setTask_checked (s : State) (n : Nat) (t : Task) : (s.setTask n t).checked = s.checked := rfl
@[simp] theorem State.setTask_here (s : State) (n : Nat) (t : Task) : (s.setTask n t).here = s.here := rfl
@[simp] theorem State.setTask_nextOrd (s : State) (n : Nat) (t : Task) : (s.setTask n t).nextOrd = s.nextOrd := rfl
@[simp] theorem State.setTask_fresh (s : State) (n : Nat) (t : Task) : (s.setTask n t).fresh = s.fresh := rfl
@[simp] theorem State.setTask_ev (s : State) (n : Nat) (t : Task) : (s.setTask n t).ev = s.ev := rfl
@[simp] theorem State.setTask_req (s : State) (n : Nat) (t : Task) : (s.setTask n t).req = s.req := rfl
@[simp] theorem State.setTask_queue (s : State) (n : Nat) (t : Task) : (s.setTask n t).queue = s.queue := rfl
@[simp] theorem State.setTask_agenda (s : State) (n : Nat) (t : Task) : (s.setTask n t).agenda = s.agenda := rfl

/-! ## State.setInst -/

@[simp] theorem State.setInst_time (s : State) (n : Nat) (i : Inst) : (s.setInst n i).time = s.time := rfl
@[simp] theorem State.setInst_cores (s : State) (n : Nat) (i : Inst) : (s.setInst n i).cores = s.cores := rfl
@[simp] theorem State.setInst_ctxs (s : State) (n : Nat) (i : Inst) : (s.setInst n i).ctxs = s.ctxs := rfl
@[simp] theorem State.setInst_groves (s : State) (n : Nat) (i : Inst) : (s.setInst n i).groves = s.groves := rfl
@[simp] theorem State.setInst_dies (s : State) (n : Nat) (i : Inst) : (s.setInst n i).dies = s.dies := rfl
@[simp] theorem State.setInst_tasks (s : State) (n : Nat) (i : Inst) : (s.setInst n i).tasks = s.tasks := rfl
@[simp] theorem State.setInst_mem (s : State) (n : Nat) (i : Inst) : (s.setInst n i).mem = s.mem := rfl
@[simp] theorem State.setInst_hostMem (s : State) (n : Nat) (i : Inst) : (s.setInst n i).hostMem = s.hostMem := rfl
@[simp] theorem State.setInst_remoteMem (s : State) (n : Nat) (i : Inst) : (s.setInst n i).remoteMem = s.remoteMem := rfl
@[simp] theorem State.setInst_lines (s : State) (n : Nat) (i : Inst) : (s.setInst n i).lines = s.lines := rfl
@[simp] theorem State.setInst_writeTs (s : State) (n : Nat) (i : Inst) : (s.setInst n i).writeTs = s.writeTs := rfl
@[simp] theorem State.setInst_floor (s : State) (n : Nat) (i : Inst) : (s.setInst n i).floor = s.floor := rfl
@[simp] theorem State.setInst_outTs (s : State) (n : Nat) (i : Inst) : (s.setInst n i).outTs = s.outTs := rfl
@[simp] theorem State.setInst_roots (s : State) (n : Nat) (i : Inst) : (s.setInst n i).roots = s.roots := rfl
@[simp] theorem State.setInst_regions (s : State) (n : Nat) (i : Inst) : (s.setInst n i).regions = s.regions := rfl
@[simp] theorem State.setInst_upcalls (s : State) (n : Nat) (i : Inst) : (s.setInst n i).upcalls = s.upcalls := rfl
@[simp] theorem State.setInst_chip (s : State) (n : Nat) (i : Inst) : (s.setInst n i).chip = s.chip := rfl
@[simp] theorem State.setInst_objs (s : State) (n : Nat) (i : Inst) : (s.setInst n i).objs = s.objs := rfl
@[simp] theorem State.setInst_units (s : State) (n : Nat) (i : Inst) : (s.setInst n i).units = s.units := rfl
@[simp] theorem State.setInst_badUnits (s : State) (n : Nat) (i : Inst) : (s.setInst n i).badUnits = s.badUnits := rfl
@[simp] theorem State.setInst_watches (s : State) (n : Nat) (i : Inst) : (s.setInst n i).watches = s.watches := rfl
@[simp] theorem State.setInst_gens (s : State) (n : Nat) (i : Inst) : (s.setInst n i).gens = s.gens := rfl
@[simp] theorem State.setInst_poolFrames (s : State) (n : Nat) (i : Inst) : (s.setInst n i).poolFrames = s.poolFrames := rfl
@[simp] theorem State.setInst_poolGone (s : State) (n : Nat) (i : Inst) : (s.setInst n i).poolGone = s.poolGone := rfl
@[simp] theorem State.setInst_copies (s : State) (n : Nat) (i : Inst) : (s.setInst n i).copies = s.copies := rfl
@[simp] theorem State.setInst_targets (s : State) (n : Nat) (i : Inst) : (s.setInst n i).targets = s.targets := rfl
@[simp] theorem State.setInst_bootFail (s : State) (n : Nat) (i : Inst) : (s.setInst n i).bootFail = s.bootFail := rfl
@[simp] theorem State.setInst_ifsel (s : State) (n : Nat) (i : Inst) : (s.setInst n i).ifsel = s.ifsel := rfl
@[simp] theorem State.setInst_booted (s : State) (n : Nat) (i : Inst) : (s.setInst n i).booted = s.booted := rfl
@[simp] theorem State.setInst_queues (s : State) (n : Nat) (i : Inst) : (s.setInst n i).queues = s.queues := rfl
@[simp] theorem State.setInst_fetchers (s : State) (n : Nat) (i : Inst) : (s.setInst n i).fetchers = s.fetchers := rfl
@[simp] theorem State.setInst_nextInst (s : State) (n : Nat) (i : Inst) : (s.setInst n i).nextInst = s.nextInst := rfl
@[simp] theorem State.setInst_lastRank (s : State) (n : Nat) (i : Inst) : (s.setInst n i).lastRank = s.lastRank := rfl
@[simp] theorem State.setInst_exports (s : State) (n : Nat) (i : Inst) : (s.setInst n i).exports = s.exports := rfl
@[simp] theorem State.setInst_redWins (s : State) (n : Nat) (i : Inst) : (s.setInst n i).redWins = s.redWins := rfl
@[simp] theorem State.setInst_ports (s : State) (n : Nat) (i : Inst) : (s.setInst n i).ports = s.ports := rfl
@[simp] theorem State.setInst_remap (s : State) (n : Nat) (i : Inst) : (s.setInst n i).remap = s.remap := rfl
@[simp] theorem State.setInst_spares (s : State) (n : Nat) (i : Inst) : (s.setInst n i).spares = s.spares := rfl
@[simp] theorem State.setInst_retiring (s : State) (n : Nat) (i : Inst) : (s.setInst n i).retiring = s.retiring := rfl
@[simp] theorem State.setInst_poison (s : State) (n : Nat) (i : Inst) : (s.setInst n i).poison = s.poison := rfl
@[simp] theorem State.setInst_mending (s : State) (n : Nat) (i : Inst) : (s.setInst n i).mending = s.mending := rfl
@[simp] theorem State.setInst_ecc (s : State) (n : Nat) (i : Inst) : (s.setInst n i).ecc = s.ecc := rfl
@[simp] theorem State.setInst_worn (s : State) (n : Nat) (i : Inst) : (s.setInst n i).worn = s.worn := rfl
@[simp] theorem State.setInst_chans (s : State) (n : Nat) (i : Inst) : (s.setInst n i).chans = s.chans := rfl
@[simp] theorem State.setInst_security (s : State) (n : Nat) (i : Inst) : (s.setInst n i).security = s.security := rfl
@[simp] theorem State.setInst_keySlots (s : State) (n : Nat) (i : Inst) : (s.setInst n i).keySlots = s.keySlots := rfl
@[simp] theorem State.setInst_meas (s : State) (n : Nat) (i : Inst) : (s.setInst n i).meas = s.meas := rfl
@[simp] theorem State.setInst_svn (s : State) (n : Nat) (i : Inst) : (s.setInst n i).svn = s.svn := rfl
@[simp] theorem State.setInst_digests (s : State) (n : Nat) (i : Inst) : (s.setInst n i).digests = s.digests := rfl
@[simp] theorem State.setInst_accepted (s : State) (n : Nat) (i : Inst) : (s.setInst n i).accepted = s.accepted := rfl
@[simp] theorem State.setInst_linkUse (s : State) (n : Nat) (i : Inst) : (s.setInst n i).linkUse = s.linkUse := rfl
@[simp] theorem State.setInst_linkKeys (s : State) (n : Nat) (i : Inst) : (s.setInst n i).linkKeys = s.linkKeys := rfl
@[simp] theorem State.setInst_memKeys (s : State) (n : Nat) (i : Inst) : (s.setInst n i).memKeys = s.memKeys := rfl
@[simp] theorem State.setInst_sapwood (s : State) (n : Nat) (i : Inst) : (s.setInst n i).sapwood = s.sapwood := rfl
@[simp] theorem State.setInst_telemPa (s : State) (n : Nat) (i : Inst) : (s.setInst n i).telemPa = s.telemPa := rfl
@[simp] theorem State.setInst_telemEvery (s : State) (n : Nat) (i : Inst) : (s.setInst n i).telemEvery = s.telemEvery := rfl
@[simp] theorem State.setInst_telemSeq (s : State) (n : Nat) (i : Inst) : (s.setInst n i).telemSeq = s.telemSeq := rfl
@[simp] theorem State.setInst_telemLast (s : State) (n : Nat) (i : Inst) : (s.setInst n i).telemLast = s.telemLast := rfl
@[simp] theorem State.setInst_plim (s : State) (n : Nat) (i : Inst) : (s.setInst n i).plim = s.plim := rfl
@[simp] theorem State.setInst_fmax (s : State) (n : Nat) (i : Inst) : (s.setInst n i).fmax = s.fmax := rfl
@[simp] theorem State.setInst_mhz (s : State) (n : Nat) (i : Inst) : (s.setInst n i).mhz = s.mhz := rfl
@[simp] theorem State.setInst_gated (s : State) (n : Nat) (i : Inst) : (s.setInst n i).gated = s.gated := rfl
@[simp] theorem State.setInst_throttled (s : State) (n : Nat) (i : Inst) : (s.setInst n i).throttled = s.throttled := rfl
@[simp] theorem State.setInst_powerAt (s : State) (n : Nat) (i : Inst) : (s.setInst n i).powerAt = s.powerAt := rfl
@[simp] theorem State.setInst_warmAt (s : State) (n : Nat) (i : Inst) : (s.setInst n i).warmAt = s.warmAt := rfl
@[simp] theorem State.setInst_counters (s : State) (n : Nat) (i : Inst) : (s.setInst n i).counters = s.counters := rfl
@[simp] theorem State.setInst_reqs (s : State) (n : Nat) (i : Inst) : (s.setInst n i).reqs = s.reqs := rfl
@[simp] theorem State.setInst_core (s : State) (n : Nat) (i : Inst) : (s.setInst n i).core = s.core := rfl
@[simp] theorem State.setInst_ctx (s : State) (n : Nat) (i : Inst) : (s.setInst n i).ctx = s.ctx := rfl
@[simp] theorem State.setInst_slot (s : State) (n : Nat) (i : Inst) : (s.setInst n i).slot = s.slot := rfl
@[simp] theorem State.setInst_inHeader (s : State) (n : Nat) (i : Inst) : (s.setInst n i).inHeader = s.inHeader := rfl
@[simp] theorem State.setInst_squash (s : State) (n : Nat) (i : Inst) : (s.setInst n i).squash = s.squash := rfl
@[simp] theorem State.setInst_checked (s : State) (n : Nat) (i : Inst) : (s.setInst n i).checked = s.checked := rfl
@[simp] theorem State.setInst_here (s : State) (n : Nat) (i : Inst) : (s.setInst n i).here = s.here := rfl
@[simp] theorem State.setInst_nextOrd (s : State) (n : Nat) (i : Inst) : (s.setInst n i).nextOrd = s.nextOrd := rfl
@[simp] theorem State.setInst_fresh (s : State) (n : Nat) (i : Inst) : (s.setInst n i).fresh = s.fresh := rfl
@[simp] theorem State.setInst_ev (s : State) (n : Nat) (i : Inst) : (s.setInst n i).ev = s.ev := rfl
@[simp] theorem State.setInst_req (s : State) (n : Nat) (i : Inst) : (s.setInst n i).req = s.req := rfl
@[simp] theorem State.setInst_queue (s : State) (n : Nat) (i : Inst) : (s.setInst n i).queue = s.queue := rfl
@[simp] theorem State.setInst_agenda (s : State) (n : Nat) (i : Inst) : (s.setInst n i).agenda = s.agenda := rfl

/-! ## State.setObj -/

@[simp] theorem State.setObj_time (s : State) (n : Nat) (o : Obj) : (s.setObj n o).time = s.time := rfl
@[simp] theorem State.setObj_cores (s : State) (n : Nat) (o : Obj) : (s.setObj n o).cores = s.cores := rfl
@[simp] theorem State.setObj_ctxs (s : State) (n : Nat) (o : Obj) : (s.setObj n o).ctxs = s.ctxs := rfl
@[simp] theorem State.setObj_groves (s : State) (n : Nat) (o : Obj) : (s.setObj n o).groves = s.groves := rfl
@[simp] theorem State.setObj_dies (s : State) (n : Nat) (o : Obj) : (s.setObj n o).dies = s.dies := rfl
@[simp] theorem State.setObj_tasks (s : State) (n : Nat) (o : Obj) : (s.setObj n o).tasks = s.tasks := rfl
@[simp] theorem State.setObj_insts (s : State) (n : Nat) (o : Obj) : (s.setObj n o).insts = s.insts := rfl
@[simp] theorem State.setObj_mem (s : State) (n : Nat) (o : Obj) : (s.setObj n o).mem = s.mem := rfl
@[simp] theorem State.setObj_hostMem (s : State) (n : Nat) (o : Obj) : (s.setObj n o).hostMem = s.hostMem := rfl
@[simp] theorem State.setObj_remoteMem (s : State) (n : Nat) (o : Obj) : (s.setObj n o).remoteMem = s.remoteMem := rfl
@[simp] theorem State.setObj_lines (s : State) (n : Nat) (o : Obj) : (s.setObj n o).lines = s.lines := rfl
@[simp] theorem State.setObj_writeTs (s : State) (n : Nat) (o : Obj) : (s.setObj n o).writeTs = s.writeTs := rfl
@[simp] theorem State.setObj_floor (s : State) (n : Nat) (o : Obj) : (s.setObj n o).floor = s.floor := rfl
@[simp] theorem State.setObj_outTs (s : State) (n : Nat) (o : Obj) : (s.setObj n o).outTs = s.outTs := rfl
@[simp] theorem State.setObj_roots (s : State) (n : Nat) (o : Obj) : (s.setObj n o).roots = s.roots := rfl
@[simp] theorem State.setObj_regions (s : State) (n : Nat) (o : Obj) : (s.setObj n o).regions = s.regions := rfl
@[simp] theorem State.setObj_upcalls (s : State) (n : Nat) (o : Obj) : (s.setObj n o).upcalls = s.upcalls := rfl
@[simp] theorem State.setObj_chip (s : State) (n : Nat) (o : Obj) : (s.setObj n o).chip = s.chip := rfl
@[simp] theorem State.setObj_units (s : State) (n : Nat) (o : Obj) : (s.setObj n o).units = s.units := rfl
@[simp] theorem State.setObj_badUnits (s : State) (n : Nat) (o : Obj) : (s.setObj n o).badUnits = s.badUnits := rfl
@[simp] theorem State.setObj_watches (s : State) (n : Nat) (o : Obj) : (s.setObj n o).watches = s.watches := rfl
@[simp] theorem State.setObj_gens (s : State) (n : Nat) (o : Obj) : (s.setObj n o).gens = s.gens := rfl
@[simp] theorem State.setObj_poolFrames (s : State) (n : Nat) (o : Obj) : (s.setObj n o).poolFrames = s.poolFrames := rfl
@[simp] theorem State.setObj_poolGone (s : State) (n : Nat) (o : Obj) : (s.setObj n o).poolGone = s.poolGone := rfl
@[simp] theorem State.setObj_copies (s : State) (n : Nat) (o : Obj) : (s.setObj n o).copies = s.copies := rfl
@[simp] theorem State.setObj_targets (s : State) (n : Nat) (o : Obj) : (s.setObj n o).targets = s.targets := rfl
@[simp] theorem State.setObj_bootFail (s : State) (n : Nat) (o : Obj) : (s.setObj n o).bootFail = s.bootFail := rfl
@[simp] theorem State.setObj_ifsel (s : State) (n : Nat) (o : Obj) : (s.setObj n o).ifsel = s.ifsel := rfl
@[simp] theorem State.setObj_booted (s : State) (n : Nat) (o : Obj) : (s.setObj n o).booted = s.booted := rfl
@[simp] theorem State.setObj_queues (s : State) (n : Nat) (o : Obj) : (s.setObj n o).queues = s.queues := rfl
@[simp] theorem State.setObj_fetchers (s : State) (n : Nat) (o : Obj) : (s.setObj n o).fetchers = s.fetchers := rfl
@[simp] theorem State.setObj_nextInst (s : State) (n : Nat) (o : Obj) : (s.setObj n o).nextInst = s.nextInst := rfl
@[simp] theorem State.setObj_lastRank (s : State) (n : Nat) (o : Obj) : (s.setObj n o).lastRank = s.lastRank := rfl
@[simp] theorem State.setObj_exports (s : State) (n : Nat) (o : Obj) : (s.setObj n o).exports = s.exports := rfl
@[simp] theorem State.setObj_redWins (s : State) (n : Nat) (o : Obj) : (s.setObj n o).redWins = s.redWins := rfl
@[simp] theorem State.setObj_ports (s : State) (n : Nat) (o : Obj) : (s.setObj n o).ports = s.ports := rfl
@[simp] theorem State.setObj_remap (s : State) (n : Nat) (o : Obj) : (s.setObj n o).remap = s.remap := rfl
@[simp] theorem State.setObj_spares (s : State) (n : Nat) (o : Obj) : (s.setObj n o).spares = s.spares := rfl
@[simp] theorem State.setObj_retiring (s : State) (n : Nat) (o : Obj) : (s.setObj n o).retiring = s.retiring := rfl
@[simp] theorem State.setObj_poison (s : State) (n : Nat) (o : Obj) : (s.setObj n o).poison = s.poison := rfl
@[simp] theorem State.setObj_mending (s : State) (n : Nat) (o : Obj) : (s.setObj n o).mending = s.mending := rfl
@[simp] theorem State.setObj_ecc (s : State) (n : Nat) (o : Obj) : (s.setObj n o).ecc = s.ecc := rfl
@[simp] theorem State.setObj_worn (s : State) (n : Nat) (o : Obj) : (s.setObj n o).worn = s.worn := rfl
@[simp] theorem State.setObj_chans (s : State) (n : Nat) (o : Obj) : (s.setObj n o).chans = s.chans := rfl
@[simp] theorem State.setObj_security (s : State) (n : Nat) (o : Obj) : (s.setObj n o).security = s.security := rfl
@[simp] theorem State.setObj_keySlots (s : State) (n : Nat) (o : Obj) : (s.setObj n o).keySlots = s.keySlots := rfl
@[simp] theorem State.setObj_meas (s : State) (n : Nat) (o : Obj) : (s.setObj n o).meas = s.meas := rfl
@[simp] theorem State.setObj_svn (s : State) (n : Nat) (o : Obj) : (s.setObj n o).svn = s.svn := rfl
@[simp] theorem State.setObj_digests (s : State) (n : Nat) (o : Obj) : (s.setObj n o).digests = s.digests := rfl
@[simp] theorem State.setObj_accepted (s : State) (n : Nat) (o : Obj) : (s.setObj n o).accepted = s.accepted := rfl
@[simp] theorem State.setObj_linkUse (s : State) (n : Nat) (o : Obj) : (s.setObj n o).linkUse = s.linkUse := rfl
@[simp] theorem State.setObj_linkKeys (s : State) (n : Nat) (o : Obj) : (s.setObj n o).linkKeys = s.linkKeys := rfl
@[simp] theorem State.setObj_memKeys (s : State) (n : Nat) (o : Obj) : (s.setObj n o).memKeys = s.memKeys := rfl
@[simp] theorem State.setObj_sapwood (s : State) (n : Nat) (o : Obj) : (s.setObj n o).sapwood = s.sapwood := rfl
@[simp] theorem State.setObj_telemPa (s : State) (n : Nat) (o : Obj) : (s.setObj n o).telemPa = s.telemPa := rfl
@[simp] theorem State.setObj_telemEvery (s : State) (n : Nat) (o : Obj) : (s.setObj n o).telemEvery = s.telemEvery := rfl
@[simp] theorem State.setObj_telemSeq (s : State) (n : Nat) (o : Obj) : (s.setObj n o).telemSeq = s.telemSeq := rfl
@[simp] theorem State.setObj_telemLast (s : State) (n : Nat) (o : Obj) : (s.setObj n o).telemLast = s.telemLast := rfl
@[simp] theorem State.setObj_plim (s : State) (n : Nat) (o : Obj) : (s.setObj n o).plim = s.plim := rfl
@[simp] theorem State.setObj_fmax (s : State) (n : Nat) (o : Obj) : (s.setObj n o).fmax = s.fmax := rfl
@[simp] theorem State.setObj_mhz (s : State) (n : Nat) (o : Obj) : (s.setObj n o).mhz = s.mhz := rfl
@[simp] theorem State.setObj_gated (s : State) (n : Nat) (o : Obj) : (s.setObj n o).gated = s.gated := rfl
@[simp] theorem State.setObj_throttled (s : State) (n : Nat) (o : Obj) : (s.setObj n o).throttled = s.throttled := rfl
@[simp] theorem State.setObj_powerAt (s : State) (n : Nat) (o : Obj) : (s.setObj n o).powerAt = s.powerAt := rfl
@[simp] theorem State.setObj_warmAt (s : State) (n : Nat) (o : Obj) : (s.setObj n o).warmAt = s.warmAt := rfl
@[simp] theorem State.setObj_counters (s : State) (n : Nat) (o : Obj) : (s.setObj n o).counters = s.counters := rfl
@[simp] theorem State.setObj_reqs (s : State) (n : Nat) (o : Obj) : (s.setObj n o).reqs = s.reqs := rfl
@[simp] theorem State.setObj_core (s : State) (n : Nat) (o : Obj) : (s.setObj n o).core = s.core := rfl
@[simp] theorem State.setObj_ctx (s : State) (n : Nat) (o : Obj) : (s.setObj n o).ctx = s.ctx := rfl
@[simp] theorem State.setObj_slot (s : State) (n : Nat) (o : Obj) : (s.setObj n o).slot = s.slot := rfl
@[simp] theorem State.setObj_inHeader (s : State) (n : Nat) (o : Obj) : (s.setObj n o).inHeader = s.inHeader := rfl
@[simp] theorem State.setObj_squash (s : State) (n : Nat) (o : Obj) : (s.setObj n o).squash = s.squash := rfl
@[simp] theorem State.setObj_checked (s : State) (n : Nat) (o : Obj) : (s.setObj n o).checked = s.checked := rfl
@[simp] theorem State.setObj_here (s : State) (n : Nat) (o : Obj) : (s.setObj n o).here = s.here := rfl
@[simp] theorem State.setObj_nextOrd (s : State) (n : Nat) (o : Obj) : (s.setObj n o).nextOrd = s.nextOrd := rfl
@[simp] theorem State.setObj_fresh (s : State) (n : Nat) (o : Obj) : (s.setObj n o).fresh = s.fresh := rfl
@[simp] theorem State.setObj_ev (s : State) (n : Nat) (o : Obj) : (s.setObj n o).ev = s.ev := rfl
@[simp] theorem State.setObj_req (s : State) (n : Nat) (o : Obj) : (s.setObj n o).req = s.req := rfl
@[simp] theorem State.setObj_queue (s : State) (n : Nat) (o : Obj) : (s.setObj n o).queue = s.queue := rfl
@[simp] theorem State.setObj_agenda (s : State) (n : Nat) (o : Obj) : (s.setObj n o).agenda = s.agenda := rfl

/-! ## State.setMe -/

@[simp] theorem State.setMe_time (s : State) (k : Ctx) : (s.setMe k).time = s.time := rfl
@[simp] theorem State.setMe_cores (s : State) (k : Ctx) : (s.setMe k).cores = s.cores := rfl
@[simp] theorem State.setMe_groves (s : State) (k : Ctx) : (s.setMe k).groves = s.groves := rfl
@[simp] theorem State.setMe_dies (s : State) (k : Ctx) : (s.setMe k).dies = s.dies := rfl
@[simp] theorem State.setMe_tasks (s : State) (k : Ctx) : (s.setMe k).tasks = s.tasks := rfl
@[simp] theorem State.setMe_insts (s : State) (k : Ctx) : (s.setMe k).insts = s.insts := rfl
@[simp] theorem State.setMe_mem (s : State) (k : Ctx) : (s.setMe k).mem = s.mem := rfl
@[simp] theorem State.setMe_hostMem (s : State) (k : Ctx) : (s.setMe k).hostMem = s.hostMem := rfl
@[simp] theorem State.setMe_remoteMem (s : State) (k : Ctx) : (s.setMe k).remoteMem = s.remoteMem := rfl
@[simp] theorem State.setMe_lines (s : State) (k : Ctx) : (s.setMe k).lines = s.lines := rfl
@[simp] theorem State.setMe_writeTs (s : State) (k : Ctx) : (s.setMe k).writeTs = s.writeTs := rfl
@[simp] theorem State.setMe_floor (s : State) (k : Ctx) : (s.setMe k).floor = s.floor := rfl
@[simp] theorem State.setMe_outTs (s : State) (k : Ctx) : (s.setMe k).outTs = s.outTs := rfl
@[simp] theorem State.setMe_roots (s : State) (k : Ctx) : (s.setMe k).roots = s.roots := rfl
@[simp] theorem State.setMe_regions (s : State) (k : Ctx) : (s.setMe k).regions = s.regions := rfl
@[simp] theorem State.setMe_upcalls (s : State) (k : Ctx) : (s.setMe k).upcalls = s.upcalls := rfl
@[simp] theorem State.setMe_chip (s : State) (k : Ctx) : (s.setMe k).chip = s.chip := rfl
@[simp] theorem State.setMe_objs (s : State) (k : Ctx) : (s.setMe k).objs = s.objs := rfl
@[simp] theorem State.setMe_units (s : State) (k : Ctx) : (s.setMe k).units = s.units := rfl
@[simp] theorem State.setMe_badUnits (s : State) (k : Ctx) : (s.setMe k).badUnits = s.badUnits := rfl
@[simp] theorem State.setMe_watches (s : State) (k : Ctx) : (s.setMe k).watches = s.watches := rfl
@[simp] theorem State.setMe_gens (s : State) (k : Ctx) : (s.setMe k).gens = s.gens := rfl
@[simp] theorem State.setMe_poolFrames (s : State) (k : Ctx) : (s.setMe k).poolFrames = s.poolFrames := rfl
@[simp] theorem State.setMe_poolGone (s : State) (k : Ctx) : (s.setMe k).poolGone = s.poolGone := rfl
@[simp] theorem State.setMe_copies (s : State) (k : Ctx) : (s.setMe k).copies = s.copies := rfl
@[simp] theorem State.setMe_targets (s : State) (k : Ctx) : (s.setMe k).targets = s.targets := rfl
@[simp] theorem State.setMe_bootFail (s : State) (k : Ctx) : (s.setMe k).bootFail = s.bootFail := rfl
@[simp] theorem State.setMe_ifsel (s : State) (k : Ctx) : (s.setMe k).ifsel = s.ifsel := rfl
@[simp] theorem State.setMe_booted (s : State) (k : Ctx) : (s.setMe k).booted = s.booted := rfl
@[simp] theorem State.setMe_queues (s : State) (k : Ctx) : (s.setMe k).queues = s.queues := rfl
@[simp] theorem State.setMe_fetchers (s : State) (k : Ctx) : (s.setMe k).fetchers = s.fetchers := rfl
@[simp] theorem State.setMe_nextInst (s : State) (k : Ctx) : (s.setMe k).nextInst = s.nextInst := rfl
@[simp] theorem State.setMe_lastRank (s : State) (k : Ctx) : (s.setMe k).lastRank = s.lastRank := rfl
@[simp] theorem State.setMe_exports (s : State) (k : Ctx) : (s.setMe k).exports = s.exports := rfl
@[simp] theorem State.setMe_redWins (s : State) (k : Ctx) : (s.setMe k).redWins = s.redWins := rfl
@[simp] theorem State.setMe_ports (s : State) (k : Ctx) : (s.setMe k).ports = s.ports := rfl
@[simp] theorem State.setMe_remap (s : State) (k : Ctx) : (s.setMe k).remap = s.remap := rfl
@[simp] theorem State.setMe_spares (s : State) (k : Ctx) : (s.setMe k).spares = s.spares := rfl
@[simp] theorem State.setMe_retiring (s : State) (k : Ctx) : (s.setMe k).retiring = s.retiring := rfl
@[simp] theorem State.setMe_poison (s : State) (k : Ctx) : (s.setMe k).poison = s.poison := rfl
@[simp] theorem State.setMe_mending (s : State) (k : Ctx) : (s.setMe k).mending = s.mending := rfl
@[simp] theorem State.setMe_ecc (s : State) (k : Ctx) : (s.setMe k).ecc = s.ecc := rfl
@[simp] theorem State.setMe_worn (s : State) (k : Ctx) : (s.setMe k).worn = s.worn := rfl
@[simp] theorem State.setMe_chans (s : State) (k : Ctx) : (s.setMe k).chans = s.chans := rfl
@[simp] theorem State.setMe_security (s : State) (k : Ctx) : (s.setMe k).security = s.security := rfl
@[simp] theorem State.setMe_keySlots (s : State) (k : Ctx) : (s.setMe k).keySlots = s.keySlots := rfl
@[simp] theorem State.setMe_meas (s : State) (k : Ctx) : (s.setMe k).meas = s.meas := rfl
@[simp] theorem State.setMe_svn (s : State) (k : Ctx) : (s.setMe k).svn = s.svn := rfl
@[simp] theorem State.setMe_digests (s : State) (k : Ctx) : (s.setMe k).digests = s.digests := rfl
@[simp] theorem State.setMe_accepted (s : State) (k : Ctx) : (s.setMe k).accepted = s.accepted := rfl
@[simp] theorem State.setMe_linkUse (s : State) (k : Ctx) : (s.setMe k).linkUse = s.linkUse := rfl
@[simp] theorem State.setMe_linkKeys (s : State) (k : Ctx) : (s.setMe k).linkKeys = s.linkKeys := rfl
@[simp] theorem State.setMe_memKeys (s : State) (k : Ctx) : (s.setMe k).memKeys = s.memKeys := rfl
@[simp] theorem State.setMe_sapwood (s : State) (k : Ctx) : (s.setMe k).sapwood = s.sapwood := rfl
@[simp] theorem State.setMe_telemPa (s : State) (k : Ctx) : (s.setMe k).telemPa = s.telemPa := rfl
@[simp] theorem State.setMe_telemEvery (s : State) (k : Ctx) : (s.setMe k).telemEvery = s.telemEvery := rfl
@[simp] theorem State.setMe_telemSeq (s : State) (k : Ctx) : (s.setMe k).telemSeq = s.telemSeq := rfl
@[simp] theorem State.setMe_telemLast (s : State) (k : Ctx) : (s.setMe k).telemLast = s.telemLast := rfl
@[simp] theorem State.setMe_plim (s : State) (k : Ctx) : (s.setMe k).plim = s.plim := rfl
@[simp] theorem State.setMe_fmax (s : State) (k : Ctx) : (s.setMe k).fmax = s.fmax := rfl
@[simp] theorem State.setMe_mhz (s : State) (k : Ctx) : (s.setMe k).mhz = s.mhz := rfl
@[simp] theorem State.setMe_gated (s : State) (k : Ctx) : (s.setMe k).gated = s.gated := rfl
@[simp] theorem State.setMe_throttled (s : State) (k : Ctx) : (s.setMe k).throttled = s.throttled := rfl
@[simp] theorem State.setMe_powerAt (s : State) (k : Ctx) : (s.setMe k).powerAt = s.powerAt := rfl
@[simp] theorem State.setMe_warmAt (s : State) (k : Ctx) : (s.setMe k).warmAt = s.warmAt := rfl
@[simp] theorem State.setMe_counters (s : State) (k : Ctx) : (s.setMe k).counters = s.counters := rfl
@[simp] theorem State.setMe_reqs (s : State) (k : Ctx) : (s.setMe k).reqs = s.reqs := rfl
@[simp] theorem State.setMe_core (s : State) (k : Ctx) : (s.setMe k).core = s.core := rfl
@[simp] theorem State.setMe_ctx (s : State) (k : Ctx) : (s.setMe k).ctx = s.ctx := rfl
@[simp] theorem State.setMe_slot (s : State) (k : Ctx) : (s.setMe k).slot = s.slot := rfl
@[simp] theorem State.setMe_inHeader (s : State) (k : Ctx) : (s.setMe k).inHeader = s.inHeader := rfl
@[simp] theorem State.setMe_squash (s : State) (k : Ctx) : (s.setMe k).squash = s.squash := rfl
@[simp] theorem State.setMe_checked (s : State) (k : Ctx) : (s.setMe k).checked = s.checked := rfl
@[simp] theorem State.setMe_here (s : State) (k : Ctx) : (s.setMe k).here = s.here := rfl
@[simp] theorem State.setMe_nextOrd (s : State) (k : Ctx) : (s.setMe k).nextOrd = s.nextOrd := rfl
@[simp] theorem State.setMe_fresh (s : State) (k : Ctx) : (s.setMe k).fresh = s.fresh := rfl
@[simp] theorem State.setMe_ev (s : State) (k : Ctx) : (s.setMe k).ev = s.ev := rfl
@[simp] theorem State.setMe_req (s : State) (k : Ctx) : (s.setMe k).req = s.req := rfl
@[simp] theorem State.setMe_queue (s : State) (k : Ctx) : (s.setMe k).queue = s.queue := rfl
@[simp] theorem State.setMe_agenda (s : State) (k : Ctx) : (s.setMe k).agenda = s.agenda := rfl

/-! ## State.setMyCore -/

@[simp] theorem State.setMyCore_time (s : State) (k : Core) : (s.setMyCore k).time = s.time := rfl
@[simp] theorem State.setMyCore_ctxs (s : State) (k : Core) : (s.setMyCore k).ctxs = s.ctxs := rfl
@[simp] theorem State.setMyCore_groves (s : State) (k : Core) : (s.setMyCore k).groves = s.groves := rfl
@[simp] theorem State.setMyCore_dies (s : State) (k : Core) : (s.setMyCore k).dies = s.dies := rfl
@[simp] theorem State.setMyCore_tasks (s : State) (k : Core) : (s.setMyCore k).tasks = s.tasks := rfl
@[simp] theorem State.setMyCore_insts (s : State) (k : Core) : (s.setMyCore k).insts = s.insts := rfl
@[simp] theorem State.setMyCore_mem (s : State) (k : Core) : (s.setMyCore k).mem = s.mem := rfl
@[simp] theorem State.setMyCore_hostMem (s : State) (k : Core) : (s.setMyCore k).hostMem = s.hostMem := rfl
@[simp] theorem State.setMyCore_remoteMem (s : State) (k : Core) : (s.setMyCore k).remoteMem = s.remoteMem := rfl
@[simp] theorem State.setMyCore_lines (s : State) (k : Core) : (s.setMyCore k).lines = s.lines := rfl
@[simp] theorem State.setMyCore_writeTs (s : State) (k : Core) : (s.setMyCore k).writeTs = s.writeTs := rfl
@[simp] theorem State.setMyCore_floor (s : State) (k : Core) : (s.setMyCore k).floor = s.floor := rfl
@[simp] theorem State.setMyCore_outTs (s : State) (k : Core) : (s.setMyCore k).outTs = s.outTs := rfl
@[simp] theorem State.setMyCore_roots (s : State) (k : Core) : (s.setMyCore k).roots = s.roots := rfl
@[simp] theorem State.setMyCore_regions (s : State) (k : Core) : (s.setMyCore k).regions = s.regions := rfl
@[simp] theorem State.setMyCore_upcalls (s : State) (k : Core) : (s.setMyCore k).upcalls = s.upcalls := rfl
@[simp] theorem State.setMyCore_chip (s : State) (k : Core) : (s.setMyCore k).chip = s.chip := rfl
@[simp] theorem State.setMyCore_objs (s : State) (k : Core) : (s.setMyCore k).objs = s.objs := rfl
@[simp] theorem State.setMyCore_units (s : State) (k : Core) : (s.setMyCore k).units = s.units := rfl
@[simp] theorem State.setMyCore_badUnits (s : State) (k : Core) : (s.setMyCore k).badUnits = s.badUnits := rfl
@[simp] theorem State.setMyCore_watches (s : State) (k : Core) : (s.setMyCore k).watches = s.watches := rfl
@[simp] theorem State.setMyCore_gens (s : State) (k : Core) : (s.setMyCore k).gens = s.gens := rfl
@[simp] theorem State.setMyCore_poolFrames (s : State) (k : Core) : (s.setMyCore k).poolFrames = s.poolFrames := rfl
@[simp] theorem State.setMyCore_poolGone (s : State) (k : Core) : (s.setMyCore k).poolGone = s.poolGone := rfl
@[simp] theorem State.setMyCore_copies (s : State) (k : Core) : (s.setMyCore k).copies = s.copies := rfl
@[simp] theorem State.setMyCore_targets (s : State) (k : Core) : (s.setMyCore k).targets = s.targets := rfl
@[simp] theorem State.setMyCore_bootFail (s : State) (k : Core) : (s.setMyCore k).bootFail = s.bootFail := rfl
@[simp] theorem State.setMyCore_ifsel (s : State) (k : Core) : (s.setMyCore k).ifsel = s.ifsel := rfl
@[simp] theorem State.setMyCore_booted (s : State) (k : Core) : (s.setMyCore k).booted = s.booted := rfl
@[simp] theorem State.setMyCore_queues (s : State) (k : Core) : (s.setMyCore k).queues = s.queues := rfl
@[simp] theorem State.setMyCore_fetchers (s : State) (k : Core) : (s.setMyCore k).fetchers = s.fetchers := rfl
@[simp] theorem State.setMyCore_nextInst (s : State) (k : Core) : (s.setMyCore k).nextInst = s.nextInst := rfl
@[simp] theorem State.setMyCore_lastRank (s : State) (k : Core) : (s.setMyCore k).lastRank = s.lastRank := rfl
@[simp] theorem State.setMyCore_exports (s : State) (k : Core) : (s.setMyCore k).exports = s.exports := rfl
@[simp] theorem State.setMyCore_redWins (s : State) (k : Core) : (s.setMyCore k).redWins = s.redWins := rfl
@[simp] theorem State.setMyCore_ports (s : State) (k : Core) : (s.setMyCore k).ports = s.ports := rfl
@[simp] theorem State.setMyCore_remap (s : State) (k : Core) : (s.setMyCore k).remap = s.remap := rfl
@[simp] theorem State.setMyCore_spares (s : State) (k : Core) : (s.setMyCore k).spares = s.spares := rfl
@[simp] theorem State.setMyCore_retiring (s : State) (k : Core) : (s.setMyCore k).retiring = s.retiring := rfl
@[simp] theorem State.setMyCore_poison (s : State) (k : Core) : (s.setMyCore k).poison = s.poison := rfl
@[simp] theorem State.setMyCore_mending (s : State) (k : Core) : (s.setMyCore k).mending = s.mending := rfl
@[simp] theorem State.setMyCore_ecc (s : State) (k : Core) : (s.setMyCore k).ecc = s.ecc := rfl
@[simp] theorem State.setMyCore_worn (s : State) (k : Core) : (s.setMyCore k).worn = s.worn := rfl
@[simp] theorem State.setMyCore_chans (s : State) (k : Core) : (s.setMyCore k).chans = s.chans := rfl
@[simp] theorem State.setMyCore_security (s : State) (k : Core) : (s.setMyCore k).security = s.security := rfl
@[simp] theorem State.setMyCore_keySlots (s : State) (k : Core) : (s.setMyCore k).keySlots = s.keySlots := rfl
@[simp] theorem State.setMyCore_meas (s : State) (k : Core) : (s.setMyCore k).meas = s.meas := rfl
@[simp] theorem State.setMyCore_svn (s : State) (k : Core) : (s.setMyCore k).svn = s.svn := rfl
@[simp] theorem State.setMyCore_digests (s : State) (k : Core) : (s.setMyCore k).digests = s.digests := rfl
@[simp] theorem State.setMyCore_accepted (s : State) (k : Core) : (s.setMyCore k).accepted = s.accepted := rfl
@[simp] theorem State.setMyCore_linkUse (s : State) (k : Core) : (s.setMyCore k).linkUse = s.linkUse := rfl
@[simp] theorem State.setMyCore_linkKeys (s : State) (k : Core) : (s.setMyCore k).linkKeys = s.linkKeys := rfl
@[simp] theorem State.setMyCore_memKeys (s : State) (k : Core) : (s.setMyCore k).memKeys = s.memKeys := rfl
@[simp] theorem State.setMyCore_sapwood (s : State) (k : Core) : (s.setMyCore k).sapwood = s.sapwood := rfl
@[simp] theorem State.setMyCore_telemPa (s : State) (k : Core) : (s.setMyCore k).telemPa = s.telemPa := rfl
@[simp] theorem State.setMyCore_telemEvery (s : State) (k : Core) : (s.setMyCore k).telemEvery = s.telemEvery := rfl
@[simp] theorem State.setMyCore_telemSeq (s : State) (k : Core) : (s.setMyCore k).telemSeq = s.telemSeq := rfl
@[simp] theorem State.setMyCore_telemLast (s : State) (k : Core) : (s.setMyCore k).telemLast = s.telemLast := rfl
@[simp] theorem State.setMyCore_plim (s : State) (k : Core) : (s.setMyCore k).plim = s.plim := rfl
@[simp] theorem State.setMyCore_fmax (s : State) (k : Core) : (s.setMyCore k).fmax = s.fmax := rfl
@[simp] theorem State.setMyCore_mhz (s : State) (k : Core) : (s.setMyCore k).mhz = s.mhz := rfl
@[simp] theorem State.setMyCore_gated (s : State) (k : Core) : (s.setMyCore k).gated = s.gated := rfl
@[simp] theorem State.setMyCore_throttled (s : State) (k : Core) : (s.setMyCore k).throttled = s.throttled := rfl
@[simp] theorem State.setMyCore_powerAt (s : State) (k : Core) : (s.setMyCore k).powerAt = s.powerAt := rfl
@[simp] theorem State.setMyCore_warmAt (s : State) (k : Core) : (s.setMyCore k).warmAt = s.warmAt := rfl
@[simp] theorem State.setMyCore_counters (s : State) (k : Core) : (s.setMyCore k).counters = s.counters := rfl
@[simp] theorem State.setMyCore_reqs (s : State) (k : Core) : (s.setMyCore k).reqs = s.reqs := rfl
@[simp] theorem State.setMyCore_core (s : State) (k : Core) : (s.setMyCore k).core = s.core := rfl
@[simp] theorem State.setMyCore_ctx (s : State) (k : Core) : (s.setMyCore k).ctx = s.ctx := rfl
@[simp] theorem State.setMyCore_slot (s : State) (k : Core) : (s.setMyCore k).slot = s.slot := rfl
@[simp] theorem State.setMyCore_inHeader (s : State) (k : Core) : (s.setMyCore k).inHeader = s.inHeader := rfl
@[simp] theorem State.setMyCore_squash (s : State) (k : Core) : (s.setMyCore k).squash = s.squash := rfl
@[simp] theorem State.setMyCore_checked (s : State) (k : Core) : (s.setMyCore k).checked = s.checked := rfl
@[simp] theorem State.setMyCore_here (s : State) (k : Core) : (s.setMyCore k).here = s.here := rfl
@[simp] theorem State.setMyCore_nextOrd (s : State) (k : Core) : (s.setMyCore k).nextOrd = s.nextOrd := rfl
@[simp] theorem State.setMyCore_fresh (s : State) (k : Core) : (s.setMyCore k).fresh = s.fresh := rfl
@[simp] theorem State.setMyCore_ev (s : State) (k : Core) : (s.setMyCore k).ev = s.ev := rfl
@[simp] theorem State.setMyCore_req (s : State) (k : Core) : (s.setMyCore k).req = s.req := rfl
@[simp] theorem State.setMyCore_queue (s : State) (k : Core) : (s.setMyCore k).queue = s.queue := rfl
@[simp] theorem State.setMyCore_agenda (s : State) (k : Core) : (s.setMyCore k).agenda = s.agenda := rfl

/-! ## State.atEv -/

@[simp] theorem State.atEv_time (s : State) : (s.atEv).time = s.time := rfl
@[simp] theorem State.atEv_cores (s : State) : (s.atEv).cores = s.cores := rfl
@[simp] theorem State.atEv_ctxs (s : State) : (s.atEv).ctxs = s.ctxs := rfl
@[simp] theorem State.atEv_groves (s : State) : (s.atEv).groves = s.groves := rfl
@[simp] theorem State.atEv_dies (s : State) : (s.atEv).dies = s.dies := rfl
@[simp] theorem State.atEv_tasks (s : State) : (s.atEv).tasks = s.tasks := rfl
@[simp] theorem State.atEv_insts (s : State) : (s.atEv).insts = s.insts := rfl
@[simp] theorem State.atEv_mem (s : State) : (s.atEv).mem = s.mem := rfl
@[simp] theorem State.atEv_hostMem (s : State) : (s.atEv).hostMem = s.hostMem := rfl
@[simp] theorem State.atEv_remoteMem (s : State) : (s.atEv).remoteMem = s.remoteMem := rfl
@[simp] theorem State.atEv_lines (s : State) : (s.atEv).lines = s.lines := rfl
@[simp] theorem State.atEv_writeTs (s : State) : (s.atEv).writeTs = s.writeTs := rfl
@[simp] theorem State.atEv_floor (s : State) : (s.atEv).floor = s.floor := rfl
@[simp] theorem State.atEv_outTs (s : State) : (s.atEv).outTs = s.outTs := rfl
@[simp] theorem State.atEv_roots (s : State) : (s.atEv).roots = s.roots := rfl
@[simp] theorem State.atEv_regions (s : State) : (s.atEv).regions = s.regions := rfl
@[simp] theorem State.atEv_upcalls (s : State) : (s.atEv).upcalls = s.upcalls := rfl
@[simp] theorem State.atEv_chip (s : State) : (s.atEv).chip = s.chip := rfl
@[simp] theorem State.atEv_objs (s : State) : (s.atEv).objs = s.objs := rfl
@[simp] theorem State.atEv_units (s : State) : (s.atEv).units = s.units := rfl
@[simp] theorem State.atEv_badUnits (s : State) : (s.atEv).badUnits = s.badUnits := rfl
@[simp] theorem State.atEv_watches (s : State) : (s.atEv).watches = s.watches := rfl
@[simp] theorem State.atEv_gens (s : State) : (s.atEv).gens = s.gens := rfl
@[simp] theorem State.atEv_poolFrames (s : State) : (s.atEv).poolFrames = s.poolFrames := rfl
@[simp] theorem State.atEv_poolGone (s : State) : (s.atEv).poolGone = s.poolGone := rfl
@[simp] theorem State.atEv_copies (s : State) : (s.atEv).copies = s.copies := rfl
@[simp] theorem State.atEv_targets (s : State) : (s.atEv).targets = s.targets := rfl
@[simp] theorem State.atEv_bootFail (s : State) : (s.atEv).bootFail = s.bootFail := rfl
@[simp] theorem State.atEv_ifsel (s : State) : (s.atEv).ifsel = s.ifsel := rfl
@[simp] theorem State.atEv_booted (s : State) : (s.atEv).booted = s.booted := rfl
@[simp] theorem State.atEv_queues (s : State) : (s.atEv).queues = s.queues := rfl
@[simp] theorem State.atEv_fetchers (s : State) : (s.atEv).fetchers = s.fetchers := rfl
@[simp] theorem State.atEv_nextInst (s : State) : (s.atEv).nextInst = s.nextInst := rfl
@[simp] theorem State.atEv_lastRank (s : State) : (s.atEv).lastRank = s.lastRank := rfl
@[simp] theorem State.atEv_exports (s : State) : (s.atEv).exports = s.exports := rfl
@[simp] theorem State.atEv_redWins (s : State) : (s.atEv).redWins = s.redWins := rfl
@[simp] theorem State.atEv_ports (s : State) : (s.atEv).ports = s.ports := rfl
@[simp] theorem State.atEv_remap (s : State) : (s.atEv).remap = s.remap := rfl
@[simp] theorem State.atEv_spares (s : State) : (s.atEv).spares = s.spares := rfl
@[simp] theorem State.atEv_retiring (s : State) : (s.atEv).retiring = s.retiring := rfl
@[simp] theorem State.atEv_poison (s : State) : (s.atEv).poison = s.poison := rfl
@[simp] theorem State.atEv_mending (s : State) : (s.atEv).mending = s.mending := rfl
@[simp] theorem State.atEv_ecc (s : State) : (s.atEv).ecc = s.ecc := rfl
@[simp] theorem State.atEv_worn (s : State) : (s.atEv).worn = s.worn := rfl
@[simp] theorem State.atEv_chans (s : State) : (s.atEv).chans = s.chans := rfl
@[simp] theorem State.atEv_security (s : State) : (s.atEv).security = s.security := rfl
@[simp] theorem State.atEv_keySlots (s : State) : (s.atEv).keySlots = s.keySlots := rfl
@[simp] theorem State.atEv_meas (s : State) : (s.atEv).meas = s.meas := rfl
@[simp] theorem State.atEv_svn (s : State) : (s.atEv).svn = s.svn := rfl
@[simp] theorem State.atEv_digests (s : State) : (s.atEv).digests = s.digests := rfl
@[simp] theorem State.atEv_accepted (s : State) : (s.atEv).accepted = s.accepted := rfl
@[simp] theorem State.atEv_linkUse (s : State) : (s.atEv).linkUse = s.linkUse := rfl
@[simp] theorem State.atEv_linkKeys (s : State) : (s.atEv).linkKeys = s.linkKeys := rfl
@[simp] theorem State.atEv_memKeys (s : State) : (s.atEv).memKeys = s.memKeys := rfl
@[simp] theorem State.atEv_sapwood (s : State) : (s.atEv).sapwood = s.sapwood := rfl
@[simp] theorem State.atEv_telemPa (s : State) : (s.atEv).telemPa = s.telemPa := rfl
@[simp] theorem State.atEv_telemEvery (s : State) : (s.atEv).telemEvery = s.telemEvery := rfl
@[simp] theorem State.atEv_telemSeq (s : State) : (s.atEv).telemSeq = s.telemSeq := rfl
@[simp] theorem State.atEv_telemLast (s : State) : (s.atEv).telemLast = s.telemLast := rfl
@[simp] theorem State.atEv_plim (s : State) : (s.atEv).plim = s.plim := rfl
@[simp] theorem State.atEv_fmax (s : State) : (s.atEv).fmax = s.fmax := rfl
@[simp] theorem State.atEv_mhz (s : State) : (s.atEv).mhz = s.mhz := rfl
@[simp] theorem State.atEv_gated (s : State) : (s.atEv).gated = s.gated := rfl
@[simp] theorem State.atEv_throttled (s : State) : (s.atEv).throttled = s.throttled := rfl
@[simp] theorem State.atEv_powerAt (s : State) : (s.atEv).powerAt = s.powerAt := rfl
@[simp] theorem State.atEv_warmAt (s : State) : (s.atEv).warmAt = s.warmAt := rfl
@[simp] theorem State.atEv_counters (s : State) : (s.atEv).counters = s.counters := rfl
@[simp] theorem State.atEv_reqs (s : State) : (s.atEv).reqs = s.reqs := rfl
@[simp] theorem State.atEv_slot (s : State) : (s.atEv).slot = s.slot := rfl
@[simp] theorem State.atEv_inHeader (s : State) : (s.atEv).inHeader = s.inHeader := rfl
@[simp] theorem State.atEv_squash (s : State) : (s.atEv).squash = s.squash := rfl
@[simp] theorem State.atEv_checked (s : State) : (s.atEv).checked = s.checked := rfl
@[simp] theorem State.atEv_here (s : State) : (s.atEv).here = s.here := rfl
@[simp] theorem State.atEv_nextOrd (s : State) : (s.atEv).nextOrd = s.nextOrd := rfl
@[simp] theorem State.atEv_fresh (s : State) : (s.atEv).fresh = s.fresh := rfl
@[simp] theorem State.atEv_ev (s : State) : (s.atEv).ev = s.ev := rfl
@[simp] theorem State.atEv_req (s : State) : (s.atEv).req = s.req := rfl
@[simp] theorem State.atEv_queue (s : State) : (s.atEv).queue = s.queue := rfl
@[simp] theorem State.atEv_agenda (s : State) : (s.atEv).agenda = s.agenda := rfl

/-! ## State.draw -/

@[simp] theorem State.draw_time (s : State) : (s.draw).time = s.time := rfl
@[simp] theorem State.draw_cores (s : State) : (s.draw).cores = s.cores := rfl
@[simp] theorem State.draw_ctxs (s : State) : (s.draw).ctxs = s.ctxs := rfl
@[simp] theorem State.draw_groves (s : State) : (s.draw).groves = s.groves := rfl
@[simp] theorem State.draw_dies (s : State) : (s.draw).dies = s.dies := rfl
@[simp] theorem State.draw_tasks (s : State) : (s.draw).tasks = s.tasks := rfl
@[simp] theorem State.draw_insts (s : State) : (s.draw).insts = s.insts := rfl
@[simp] theorem State.draw_mem (s : State) : (s.draw).mem = s.mem := rfl
@[simp] theorem State.draw_hostMem (s : State) : (s.draw).hostMem = s.hostMem := rfl
@[simp] theorem State.draw_remoteMem (s : State) : (s.draw).remoteMem = s.remoteMem := rfl
@[simp] theorem State.draw_lines (s : State) : (s.draw).lines = s.lines := rfl
@[simp] theorem State.draw_writeTs (s : State) : (s.draw).writeTs = s.writeTs := rfl
@[simp] theorem State.draw_floor (s : State) : (s.draw).floor = s.floor := rfl
@[simp] theorem State.draw_outTs (s : State) : (s.draw).outTs = s.outTs := rfl
@[simp] theorem State.draw_roots (s : State) : (s.draw).roots = s.roots := rfl
@[simp] theorem State.draw_regions (s : State) : (s.draw).regions = s.regions := rfl
@[simp] theorem State.draw_upcalls (s : State) : (s.draw).upcalls = s.upcalls := rfl
@[simp] theorem State.draw_chip (s : State) : (s.draw).chip = s.chip := rfl
@[simp] theorem State.draw_objs (s : State) : (s.draw).objs = s.objs := rfl
@[simp] theorem State.draw_units (s : State) : (s.draw).units = s.units := rfl
@[simp] theorem State.draw_badUnits (s : State) : (s.draw).badUnits = s.badUnits := rfl
@[simp] theorem State.draw_watches (s : State) : (s.draw).watches = s.watches := rfl
@[simp] theorem State.draw_gens (s : State) : (s.draw).gens = s.gens := rfl
@[simp] theorem State.draw_poolFrames (s : State) : (s.draw).poolFrames = s.poolFrames := rfl
@[simp] theorem State.draw_poolGone (s : State) : (s.draw).poolGone = s.poolGone := rfl
@[simp] theorem State.draw_copies (s : State) : (s.draw).copies = s.copies := rfl
@[simp] theorem State.draw_targets (s : State) : (s.draw).targets = s.targets := rfl
@[simp] theorem State.draw_bootFail (s : State) : (s.draw).bootFail = s.bootFail := rfl
@[simp] theorem State.draw_ifsel (s : State) : (s.draw).ifsel = s.ifsel := rfl
@[simp] theorem State.draw_booted (s : State) : (s.draw).booted = s.booted := rfl
@[simp] theorem State.draw_queues (s : State) : (s.draw).queues = s.queues := rfl
@[simp] theorem State.draw_fetchers (s : State) : (s.draw).fetchers = s.fetchers := rfl
@[simp] theorem State.draw_nextInst (s : State) : (s.draw).nextInst = s.nextInst := rfl
@[simp] theorem State.draw_lastRank (s : State) : (s.draw).lastRank = s.lastRank := rfl
@[simp] theorem State.draw_exports (s : State) : (s.draw).exports = s.exports := rfl
@[simp] theorem State.draw_redWins (s : State) : (s.draw).redWins = s.redWins := rfl
@[simp] theorem State.draw_ports (s : State) : (s.draw).ports = s.ports := rfl
@[simp] theorem State.draw_remap (s : State) : (s.draw).remap = s.remap := rfl
@[simp] theorem State.draw_spares (s : State) : (s.draw).spares = s.spares := rfl
@[simp] theorem State.draw_retiring (s : State) : (s.draw).retiring = s.retiring := rfl
@[simp] theorem State.draw_poison (s : State) : (s.draw).poison = s.poison := rfl
@[simp] theorem State.draw_mending (s : State) : (s.draw).mending = s.mending := rfl
@[simp] theorem State.draw_ecc (s : State) : (s.draw).ecc = s.ecc := rfl
@[simp] theorem State.draw_worn (s : State) : (s.draw).worn = s.worn := rfl
@[simp] theorem State.draw_chans (s : State) : (s.draw).chans = s.chans := rfl
@[simp] theorem State.draw_security (s : State) : (s.draw).security = s.security := rfl
@[simp] theorem State.draw_keySlots (s : State) : (s.draw).keySlots = s.keySlots := rfl
@[simp] theorem State.draw_meas (s : State) : (s.draw).meas = s.meas := rfl
@[simp] theorem State.draw_svn (s : State) : (s.draw).svn = s.svn := rfl
@[simp] theorem State.draw_digests (s : State) : (s.draw).digests = s.digests := rfl
@[simp] theorem State.draw_accepted (s : State) : (s.draw).accepted = s.accepted := rfl
@[simp] theorem State.draw_linkUse (s : State) : (s.draw).linkUse = s.linkUse := rfl
@[simp] theorem State.draw_linkKeys (s : State) : (s.draw).linkKeys = s.linkKeys := rfl
@[simp] theorem State.draw_memKeys (s : State) : (s.draw).memKeys = s.memKeys := rfl
@[simp] theorem State.draw_sapwood (s : State) : (s.draw).sapwood = s.sapwood := rfl
@[simp] theorem State.draw_telemPa (s : State) : (s.draw).telemPa = s.telemPa := rfl
@[simp] theorem State.draw_telemEvery (s : State) : (s.draw).telemEvery = s.telemEvery := rfl
@[simp] theorem State.draw_telemSeq (s : State) : (s.draw).telemSeq = s.telemSeq := rfl
@[simp] theorem State.draw_telemLast (s : State) : (s.draw).telemLast = s.telemLast := rfl
@[simp] theorem State.draw_plim (s : State) : (s.draw).plim = s.plim := rfl
@[simp] theorem State.draw_fmax (s : State) : (s.draw).fmax = s.fmax := rfl
@[simp] theorem State.draw_mhz (s : State) : (s.draw).mhz = s.mhz := rfl
@[simp] theorem State.draw_gated (s : State) : (s.draw).gated = s.gated := rfl
@[simp] theorem State.draw_throttled (s : State) : (s.draw).throttled = s.throttled := rfl
@[simp] theorem State.draw_powerAt (s : State) : (s.draw).powerAt = s.powerAt := rfl
@[simp] theorem State.draw_warmAt (s : State) : (s.draw).warmAt = s.warmAt := rfl
@[simp] theorem State.draw_counters (s : State) : (s.draw).counters = s.counters := rfl
@[simp] theorem State.draw_reqs (s : State) : (s.draw).reqs = s.reqs := rfl
@[simp] theorem State.draw_core (s : State) : (s.draw).core = s.core := rfl
@[simp] theorem State.draw_ctx (s : State) : (s.draw).ctx = s.ctx := rfl
@[simp] theorem State.draw_slot (s : State) : (s.draw).slot = s.slot := rfl
@[simp] theorem State.draw_inHeader (s : State) : (s.draw).inHeader = s.inHeader := rfl
@[simp] theorem State.draw_squash (s : State) : (s.draw).squash = s.squash := rfl
@[simp] theorem State.draw_checked (s : State) : (s.draw).checked = s.checked := rfl
@[simp] theorem State.draw_here (s : State) : (s.draw).here = s.here := rfl
@[simp] theorem State.draw_nextOrd (s : State) : (s.draw).nextOrd = s.nextOrd := rfl
@[simp] theorem State.draw_ev (s : State) : (s.draw).ev = s.ev := rfl
@[simp] theorem State.draw_req (s : State) : (s.draw).req = s.req := rfl
@[simp] theorem State.draw_queue (s : State) : (s.draw).queue = s.queue := rfl
@[simp] theorem State.draw_agenda (s : State) : (s.draw).agenda = s.agenda := rfl

/-! ## State.count -/

@[simp] theorem State.count_time (s : State) (f : Counters → Counters) : (s.count f).time = s.time := rfl
@[simp] theorem State.count_cores (s : State) (f : Counters → Counters) : (s.count f).cores = s.cores := rfl
@[simp] theorem State.count_ctxs (s : State) (f : Counters → Counters) : (s.count f).ctxs = s.ctxs := rfl
@[simp] theorem State.count_groves (s : State) (f : Counters → Counters) : (s.count f).groves = s.groves := rfl
@[simp] theorem State.count_dies (s : State) (f : Counters → Counters) : (s.count f).dies = s.dies := rfl
@[simp] theorem State.count_tasks (s : State) (f : Counters → Counters) : (s.count f).tasks = s.tasks := rfl
@[simp] theorem State.count_insts (s : State) (f : Counters → Counters) : (s.count f).insts = s.insts := rfl
@[simp] theorem State.count_mem (s : State) (f : Counters → Counters) : (s.count f).mem = s.mem := rfl
@[simp] theorem State.count_hostMem (s : State) (f : Counters → Counters) : (s.count f).hostMem = s.hostMem := rfl
@[simp] theorem State.count_remoteMem (s : State) (f : Counters → Counters) : (s.count f).remoteMem = s.remoteMem := rfl
@[simp] theorem State.count_lines (s : State) (f : Counters → Counters) : (s.count f).lines = s.lines := rfl
@[simp] theorem State.count_writeTs (s : State) (f : Counters → Counters) : (s.count f).writeTs = s.writeTs := rfl
@[simp] theorem State.count_floor (s : State) (f : Counters → Counters) : (s.count f).floor = s.floor := rfl
@[simp] theorem State.count_outTs (s : State) (f : Counters → Counters) : (s.count f).outTs = s.outTs := rfl
@[simp] theorem State.count_roots (s : State) (f : Counters → Counters) : (s.count f).roots = s.roots := rfl
@[simp] theorem State.count_regions (s : State) (f : Counters → Counters) : (s.count f).regions = s.regions := rfl
@[simp] theorem State.count_upcalls (s : State) (f : Counters → Counters) : (s.count f).upcalls = s.upcalls := rfl
@[simp] theorem State.count_chip (s : State) (f : Counters → Counters) : (s.count f).chip = s.chip := rfl
@[simp] theorem State.count_objs (s : State) (f : Counters → Counters) : (s.count f).objs = s.objs := rfl
@[simp] theorem State.count_units (s : State) (f : Counters → Counters) : (s.count f).units = s.units := rfl
@[simp] theorem State.count_badUnits (s : State) (f : Counters → Counters) : (s.count f).badUnits = s.badUnits := rfl
@[simp] theorem State.count_watches (s : State) (f : Counters → Counters) : (s.count f).watches = s.watches := rfl
@[simp] theorem State.count_gens (s : State) (f : Counters → Counters) : (s.count f).gens = s.gens := rfl
@[simp] theorem State.count_poolFrames (s : State) (f : Counters → Counters) : (s.count f).poolFrames = s.poolFrames := rfl
@[simp] theorem State.count_poolGone (s : State) (f : Counters → Counters) : (s.count f).poolGone = s.poolGone := rfl
@[simp] theorem State.count_copies (s : State) (f : Counters → Counters) : (s.count f).copies = s.copies := rfl
@[simp] theorem State.count_targets (s : State) (f : Counters → Counters) : (s.count f).targets = s.targets := rfl
@[simp] theorem State.count_bootFail (s : State) (f : Counters → Counters) : (s.count f).bootFail = s.bootFail := rfl
@[simp] theorem State.count_ifsel (s : State) (f : Counters → Counters) : (s.count f).ifsel = s.ifsel := rfl
@[simp] theorem State.count_booted (s : State) (f : Counters → Counters) : (s.count f).booted = s.booted := rfl
@[simp] theorem State.count_queues (s : State) (f : Counters → Counters) : (s.count f).queues = s.queues := rfl
@[simp] theorem State.count_fetchers (s : State) (f : Counters → Counters) : (s.count f).fetchers = s.fetchers := rfl
@[simp] theorem State.count_nextInst (s : State) (f : Counters → Counters) : (s.count f).nextInst = s.nextInst := rfl
@[simp] theorem State.count_lastRank (s : State) (f : Counters → Counters) : (s.count f).lastRank = s.lastRank := rfl
@[simp] theorem State.count_exports (s : State) (f : Counters → Counters) : (s.count f).exports = s.exports := rfl
@[simp] theorem State.count_redWins (s : State) (f : Counters → Counters) : (s.count f).redWins = s.redWins := rfl
@[simp] theorem State.count_ports (s : State) (f : Counters → Counters) : (s.count f).ports = s.ports := rfl
@[simp] theorem State.count_remap (s : State) (f : Counters → Counters) : (s.count f).remap = s.remap := rfl
@[simp] theorem State.count_spares (s : State) (f : Counters → Counters) : (s.count f).spares = s.spares := rfl
@[simp] theorem State.count_retiring (s : State) (f : Counters → Counters) : (s.count f).retiring = s.retiring := rfl
@[simp] theorem State.count_poison (s : State) (f : Counters → Counters) : (s.count f).poison = s.poison := rfl
@[simp] theorem State.count_mending (s : State) (f : Counters → Counters) : (s.count f).mending = s.mending := rfl
@[simp] theorem State.count_ecc (s : State) (f : Counters → Counters) : (s.count f).ecc = s.ecc := rfl
@[simp] theorem State.count_worn (s : State) (f : Counters → Counters) : (s.count f).worn = s.worn := rfl
@[simp] theorem State.count_chans (s : State) (f : Counters → Counters) : (s.count f).chans = s.chans := rfl
@[simp] theorem State.count_security (s : State) (f : Counters → Counters) : (s.count f).security = s.security := rfl
@[simp] theorem State.count_keySlots (s : State) (f : Counters → Counters) : (s.count f).keySlots = s.keySlots := rfl
@[simp] theorem State.count_meas (s : State) (f : Counters → Counters) : (s.count f).meas = s.meas := rfl
@[simp] theorem State.count_svn (s : State) (f : Counters → Counters) : (s.count f).svn = s.svn := rfl
@[simp] theorem State.count_digests (s : State) (f : Counters → Counters) : (s.count f).digests = s.digests := rfl
@[simp] theorem State.count_accepted (s : State) (f : Counters → Counters) : (s.count f).accepted = s.accepted := rfl
@[simp] theorem State.count_linkUse (s : State) (f : Counters → Counters) : (s.count f).linkUse = s.linkUse := rfl
@[simp] theorem State.count_linkKeys (s : State) (f : Counters → Counters) : (s.count f).linkKeys = s.linkKeys := rfl
@[simp] theorem State.count_memKeys (s : State) (f : Counters → Counters) : (s.count f).memKeys = s.memKeys := rfl
@[simp] theorem State.count_sapwood (s : State) (f : Counters → Counters) : (s.count f).sapwood = s.sapwood := rfl
@[simp] theorem State.count_telemPa (s : State) (f : Counters → Counters) : (s.count f).telemPa = s.telemPa := rfl
@[simp] theorem State.count_telemEvery (s : State) (f : Counters → Counters) : (s.count f).telemEvery = s.telemEvery := rfl
@[simp] theorem State.count_telemSeq (s : State) (f : Counters → Counters) : (s.count f).telemSeq = s.telemSeq := rfl
@[simp] theorem State.count_telemLast (s : State) (f : Counters → Counters) : (s.count f).telemLast = s.telemLast := rfl
@[simp] theorem State.count_plim (s : State) (f : Counters → Counters) : (s.count f).plim = s.plim := rfl
@[simp] theorem State.count_fmax (s : State) (f : Counters → Counters) : (s.count f).fmax = s.fmax := rfl
@[simp] theorem State.count_mhz (s : State) (f : Counters → Counters) : (s.count f).mhz = s.mhz := rfl
@[simp] theorem State.count_gated (s : State) (f : Counters → Counters) : (s.count f).gated = s.gated := rfl
@[simp] theorem State.count_throttled (s : State) (f : Counters → Counters) : (s.count f).throttled = s.throttled := rfl
@[simp] theorem State.count_powerAt (s : State) (f : Counters → Counters) : (s.count f).powerAt = s.powerAt := rfl
@[simp] theorem State.count_warmAt (s : State) (f : Counters → Counters) : (s.count f).warmAt = s.warmAt := rfl
@[simp] theorem State.count_reqs (s : State) (f : Counters → Counters) : (s.count f).reqs = s.reqs := rfl
@[simp] theorem State.count_core (s : State) (f : Counters → Counters) : (s.count f).core = s.core := rfl
@[simp] theorem State.count_ctx (s : State) (f : Counters → Counters) : (s.count f).ctx = s.ctx := rfl
@[simp] theorem State.count_slot (s : State) (f : Counters → Counters) : (s.count f).slot = s.slot := rfl
@[simp] theorem State.count_inHeader (s : State) (f : Counters → Counters) : (s.count f).inHeader = s.inHeader := rfl
@[simp] theorem State.count_squash (s : State) (f : Counters → Counters) : (s.count f).squash = s.squash := rfl
@[simp] theorem State.count_checked (s : State) (f : Counters → Counters) : (s.count f).checked = s.checked := rfl
@[simp] theorem State.count_here (s : State) (f : Counters → Counters) : (s.count f).here = s.here := rfl
@[simp] theorem State.count_nextOrd (s : State) (f : Counters → Counters) : (s.count f).nextOrd = s.nextOrd := rfl
@[simp] theorem State.count_fresh (s : State) (f : Counters → Counters) : (s.count f).fresh = s.fresh := rfl
@[simp] theorem State.count_ev (s : State) (f : Counters → Counters) : (s.count f).ev = s.ev := rfl
@[simp] theorem State.count_req (s : State) (f : Counters → Counters) : (s.count f).req = s.req := rfl
@[simp] theorem State.count_queue (s : State) (f : Counters → Counters) : (s.count f).queue = s.queue := rfl
@[simp] theorem State.count_agenda (s : State) (f : Counters → Counters) : (s.count f).agenda = s.agenda := rfl

/-! ## Parts read after an update -/

@[simp] theorem State.ctxAt_setCtx (s : State) (c x : Nat) (k : Ctx) : (s.setCtx c x k).ctxAt c x = k := by
  simp [State.ctxAt, State.setCtx]
theorem State.ctxAt_setCtx_other (s : State) (c x d y : Nat) (k : Ctx) (h : ctxKey d y ≠ ctxKey c x) :
    (s.setCtx c x k).ctxAt d y = s.ctxAt d y := by
  simp [State.ctxAt, State.setCtx, Map.at_set_other _ _ _ _ _ h]
@[simp] theorem State.coreAt_setCore (s : State) (c : Nat) (k : Core) : (s.setCore c k).coreAt c = k := by
  simp [State.coreAt, State.setCore]
theorem State.coreAt_setCore_other (s : State) (c d : Nat) (k : Core) (h : d ≠ c) :
    (s.setCore c k).coreAt d = s.coreAt d := by
  simp [State.coreAt, State.setCore, Map.at_set_other _ _ _ _ _ h]
@[simp] theorem State.groveAt_setGrove (s : State) (g : Nat) (k : Grove) : (s.setGrove g k).groveAt g = k := by
  simp [State.groveAt, State.setGrove]
@[simp] theorem State.queueAt_setQueue (s : State) (q : Nat) (k : Queue) : (s.setQueue q k).queueAt q = k := by
  simp [State.queueAt, State.setQueue]
theorem State.queueAt_setQueue_other (s : State) (q r : Nat) (k : Queue) (h : r ≠ q) :
    (s.setQueue q k).queueAt r = s.queueAt r := by
  simp [State.queueAt, State.setQueue, Map.at_set_other _ _ _ _ _ h]
@[simp] theorem State.genAt_setGen (s : State) (n : Nat) (k : Gen) : (s.setGen n k).genAt n = k := by
  simp [State.genAt, State.setGen]
@[simp] theorem State.task?_setTask (s : State) (n : Nat) (t : Task) : (s.setTask n t).task? n = some t := by
  simp [State.task?, State.setTask]
@[simp] theorem State.inst?_setInst (s : State) (n : Nat) (i : Inst) : (s.setInst n i).inst? n = some i := by
  simp [State.inst?, State.setInst]
@[simp] theorem State.obj?_setObj (s : State) (n : Nat) (o : Obj) : (s.setObj n o).obj? n = some o := by
  simp [State.obj?, State.setObj]
@[simp] theorem State.me_setMe (s : State) (k : Ctx) : (s.setMe k).me = k := by
  simp [State.me, State.setMe]
@[simp] theorem State.myCore_setMyCore (s : State) (k : Core) : (s.setMyCore k).myCore = k := by
  simp [State.myCore, State.setMyCore]
@[simp] theorem State.ctxAt_setCore (s : State) (c d y : Nat) (k : Core) : (s.setCore c k).ctxAt d y = s.ctxAt d y := rfl
@[simp] theorem State.coreAt_setCtx (s : State) (c x d : Nat) (k : Ctx) : (s.setCtx c x k).coreAt d = s.coreAt d := rfl
@[simp] theorem State.groveAt_setCtx (s : State) (c x d : Nat) (k : Ctx) : (s.setCtx c x k).groveAt d = s.groveAt d := rfl
@[simp] theorem State.groveAt_setCore (s : State) (c d : Nat) (k : Core) : (s.setCore c k).groveAt d = s.groveAt d := rfl
@[simp] theorem State.myCore_setMe (s : State) (k : Ctx) : (s.setMe k).myCore = s.myCore := rfl
@[simp] theorem State.me_setMyCore (s : State) (k : Core) : (s.setMyCore k).me = s.me := rfl

/-- Contexts of numbers below 4,096 have numbers of their own. -/
theorem ctxKey_inj {c x d y : Nat} (hx : x < 4096) (hy : y < 4096) : ctxKey c x = ctxKey d y ↔ c = d ∧ x = y := by
  simp only [ctxKey]; omega

end Sys2Proof.Machine
end

