-- ==== Sys2Proof/Laws/Issue.lean ====
section
/-! SUPPORT. What the shared operations of a bundle's issue can do: a guarded effect, a result put in flight, an access, a
request, a job and a queued unit operation. -/

namespace Sys2Proof.Machine
open Sys2Proof

/-- A guarded operation whose checks pass has its effect, in the state that the checks leave. -/
theorem guarded_of_passes {s u : State} {i : Instr} (eff : State → State) (h : s.passes i = some u) :
    guarded s i eff = .next (eff u) := by
  unfold State.passes at h
  unfold guarded
  split at h
  · simp_all
  · rename_i hc
    simp only [hc]
    cases hp : precheck s [(s.slot, i)] with
    | ok t => rw [hp] at h; simp only [Except.toOption, Option.some.injEq] at h; subst h; rfl
    | error e => rw [hp] at h; simp [Except.toOption] at h

/-- A guarded operation whose checks do not pass does what stops it. -/
theorem guarded_of_stop {s : State} {i : Instr} (eff : State → State) (e : Stop) (hc : s.checked = false)
    (h : precheck s [(s.slot, i)] = .error e) : guarded s i eff = e.out s [(s.slot, i)] := by
  simp [guarded, hc, h]

/-- A result put in flight: the context that acts gets one more result, and nothing else changes. -/
theorem State.stage_eq (s : State) (wr : Wr) (L : Nat) (fl : FFlags) :
    ∃ l : Landing, l.wr = wr ∧ l.flags = fl ∧ s.stage wr L fl = s.setMe { s.me with staged := s.me.staged ++ [l] } :=
  ⟨_, rfl, rfl, rfl⟩

/-- An access issued: the context that acts gets one more access, and perhaps a longer freeze. -/
theorem State.addAcc_eq (s : State) (op : AccOp) (ws : List Want) (land : Nat) :
    ∃ (a : Acc) (n : Nat), a.op = op ∧ a.pieces = piecesOf s ws ∧ a.bound = s.myCore.cyc + land ∧
      s.addAcc op ws land = s.setMe { s.me with accs := s.me.accs ++ [a], frzUntil := n } :=
  ⟨_, _, rfl, rfl, rfl, rfl⟩

/-- A request issued: the context that acts gets one more request. -/
theorem State.addReq_eq (s : State) (i : Instr) (x y : W64) (blk : List W64) (land : Nat) :
    ∃ r : Req, r.op = i ∧ r.bound = s.myCore.cyc + land ∧
      s.addReq i x y blk land = s.setMe { s.me with reqs := s.me.reqs ++ [r] } :=
  ⟨_, rfl, rfl, rfl⟩

/-- A job issued: the context that acts gets one more job. -/
theorem State.addJob_eq (s : State) (i : Instr) (tag : Nat) (args : List W64) (yw moving : Bool) :
    ∃ (j : Job) (y : Option Nat), j.op = i ∧ j.tag = tag ∧ j.args = args ∧
      s.addJob i tag args yw moving = s.setMe { s.me with jobs := s.me.jobs ++ [j], ywJob := y } :=
  ⟨_, _, rfl, rfl, rfl, rfl⟩

/-- A matrix operation queued: the core that acts has one more operation in its unit's queue. -/
theorem State.addMat_eq (s : State) (i : Instr) :
    ∃ o : MatOp, o.op = i ∧ o.x = s.ctx ∧ s.addMat i = s.setMyCore { s.myCore with mq := s.myCore.mq ++ [o] } := by
  unfold State.addMat
  cases matPars i <;> exact ⟨_, rfl, rfl, rfl⟩

/-- A fast-weight operation queued: the core that acts has one more operation in its engine's queue. -/
theorem State.addFw_eq (s : State) (i : Instr) (fb : FbReg) (vecs : List VecW) (mps : List (BitVec 128)) :
    ∃ o : EngOp, o.op = i ∧ o.x = s.ctx ∧
      s.addFw i fb vecs mps = s.setMyCore { s.myCore with eq := s.myCore.eq ++ [o] } :=
  ⟨_, rfl, rfl, rfl⟩

end Sys2Proof.Machine
end

