-- ==== Sys2Proof/Laws/Memory.lean ====
section
/-! SUPPORT. Device memory: a read after a write, and the canonical form. -/

namespace Sys2Proof.Machine
open Sys2Proof

/-- A byte just written reads back. -/
@[simp] theorem Memory.read_write_same (m : Memory) (a : Nat) (b : Byte) : (m.write a b).read a = b := by
  simp only [Memory.write, Memory.read]
  split <;> simp_all

/-- A write leaves every other byte as it was. -/
theorem Memory.read_write_other (m : Memory) (a c : Nat) (b : Byte) (h : c ≠ a) : (m.write a b).read c = m.read c := by
  simp only [Memory.write, Memory.read]
  split
  · rw [Map.get?_del_other m a c h]
  · rw [Map.get?_set_other m a c b h]

/-- A write of bytes leaves every byte outside them as it was. -/
theorem Memory.read_writeN_other (m : Memory) (a c : Nat) (bs : List Byte) (h : c < a ∨ a + bs.length ≤ c) :
    (m.writeN a bs).read c = m.read c := by
  induction bs generalizing m a with
  | nil => rfl
  | cons b t ih =>
    simp only [List.length_cons] at h
    simp only [Memory.writeN]
    rw [ih _ _ (by omega), Memory.read_write_other _ _ _ _ (by omega)]

/-- A write of bytes: byte i of them reads back at its address. -/
theorem Memory.read_writeN_in (m : Memory) (a i : Nat) (bs : List Byte) (h : i < bs.length) :
    (m.writeN a bs).read (a + i) = bs[i] := by
  induction bs generalizing m a i with
  | nil => simp at h
  | cons b t ih =>
    simp only [Memory.writeN]
    cases i with
    | zero => rw [Memory.read_writeN_other _ _ _ _ (by omega)]; simp
    | succ n =>
      have := ih (m.write a b) (a + 1) n (by simpa using h)
      rw [show a + (n + 1) = a + 1 + n by omega, this]
      simp

/-- A test that holds of every entry holds after an update by an entry that passes it. -/
theorem Map.all_set {α : Type} (m : Map α) (k : Nat) (x : α) (f : Nat × α → Bool) (hx : f (k, x)) (h : m.all f) :
    (Map.set m k x).all f := by
  induction m with
  | nil => simpa [Map.set] using hx
  | cons a t ih =>
    simp only [List.all_cons, Bool.and_eq_true] at h
    simp only [Map.set]
    split
    · simp only [List.all_cons, Bool.and_eq_true]; exact ⟨hx, h⟩
    · split
      · simp only [List.all_cons, Bool.and_eq_true]; exact ⟨hx, h.2⟩
      · simp only [List.all_cons, Bool.and_eq_true]; exact ⟨h.1, ih h.2⟩

/-- A test that holds of every entry holds after a deletion. -/
theorem Map.all_del {α : Type} (m : Map α) (k : Nat) (f : Nat × α → Bool) (h : m.all f) : (Map.del m k).all f := by
  induction m with
  | nil => rfl
  | cons a t ih =>
    simp only [List.all_cons, Bool.and_eq_true] at h
    simp only [Map.del]
    split
    · exact ih h.2
    · simp only [List.all_cons, Bool.and_eq_true]; exact ⟨h.1, ih h.2⟩

/-- A write keeps the canonical form. -/
theorem Memory.wf_write (m : Memory) (a : Nat) (b : Byte) (h : m.wf) : (m.write a b).wf := by
  simp only [Memory.wf, Bool.and_eq_true] at h ⊢
  simp only [Memory.write]
  split
  · exact ⟨Map.sorted_del _ _ h.1, Map.all_del _ _ _ h.2⟩
  · refine ⟨Map.sorted_set _ _ _ h.1, Map.all_set _ _ _ _ ?_ h.2⟩
    simpa using ‹¬b = Memory.unlisted›

/-- A write of bytes keeps the canonical form. -/
theorem Memory.wf_writeN (m : Memory) (a : Nat) (bs : List Byte) (h : m.wf) : (m.writeN a bs).wf := by
  induction bs generalizing m a with
  | nil => exact h
  | cons b t ih => exact ih _ _ (Memory.wf_write m a b h)

/-- Entries left out keep the numbers strictly rising. -/
theorem Map.sorted_filter {α : Type} (m : Map α) (f : Nat × α → Bool) (h : Map.sorted m) : Map.sorted (m.filter f) := by
  induction m with
  | nil => rfl
  | cons a t ih =>
    simp only [Map.sorted, Bool.and_eq_true] at h
    simp only [List.filter_cons]
    split
    · simp only [Map.sorted, Bool.and_eq_true]
      refine ⟨?_, ih h.2⟩
      have := h.1
      simp only [List.all_eq_true, List.mem_filter] at this ⊢
      intro p hp
      exact this p hp.1
    · exact ih h.2

/-- A range dropped keeps the canonical form. -/
theorem Memory.wf_drop (m : Memory) (lo hi : Nat) (h : m.wf) : (m.drop lo hi).wf := by
  simp only [Memory.wf, Bool.and_eq_true] at h ⊢
  refine ⟨Map.sorted_filter _ _ h.1, ?_⟩
  have := h.2
  simp only [List.all_eq_true, Memory.drop, List.mem_filter] at this ⊢
  intro p hp
  exact this p hp.1

/-- The number of bytes read. -/
@[simp] theorem Memory.readN_length (m : Memory) (a n : Nat) : (m.readN a n).length = n := by
  induction n generalizing a with
  | zero => rfl
  | succ n ih => simp [Memory.readN, ih]

/-- Byte i of a read of bytes. -/
theorem Memory.readN_getElem (m : Memory) (a n i : Nat) (h : i < (m.readN a n).length) : (m.readN a n)[i] = m.read (a + i) := by
  induction n generalizing a i with
  | zero => simp [Memory.readN] at h
  | succ n ih =>
    cases i with
    | zero => simp [Memory.readN]
    | succ i =>
      simp only [Memory.readN, List.getElem_cons_succ]
      rw [ih (a + 1) i (by simpa [Memory.readN] using h)]
      congr 1
      omega

end Sys2Proof.Machine
end

