-- ==== Sys2Proof/Tests/Slice0.lean ====
section
/-! SUPPORT. The author's own tests: an ill-formed term for each check of WellFormed; words written out bit by bit from the
encoding tables of the spec (R164, R171, R199, R222, R226, R234, R240, R242, R244, R264, R285, R400 to R408, R418), each with the instruction
it stands for; the spec's worked examples; and for every statement a state and operands that meet its hypotheses. -/

namespace Sys2Proof.Tests
open Sys2Proof Sys2Proof.Machine
set_option Elab.async false

/-! ## Well-formedness -/

/-- Refused: bfx len 0, bfi past 63, cmp eq unsigned, fcvt int int, ld land 0, ld d unsigned, ldfe land 0, ldg d unsigned, atomic no return land, atomic land 0, afadd half, red acquire, red fadd byte, red land. -/
theorem test_ill_formed_1 : ([.bfx 1 2 0 0,
    .bfi 1 2 63 2,
    .cmp .eq true 1 2 (.reg 3),
    .fcvt 1 2 .rne .i64 .u32,
    .ld .w false 1 2 0 0,
    .ld .d true 1 2 0 1,
    .ldfe .w .w false 1 2 0 0,
    .ldg .d true 1 2 3 0 1,
    .aadd 0 2 3 ⟨.rlx, .grove, .d, 0, 1⟩,
    .acas 1 2 3 ⟨.rlx, .grove, .d, 0, 0⟩,
    .afadd 1 2 3 ⟨.rlx, .grove, .h, 0, 1⟩,
    .red .add 2 3 ⟨.acq, .grove, .d, 0, 0⟩,
    .red .fadd 2 3 ⟨.rlx, .grove, .b, 0, 0⟩,
    .red .add 2 3 ⟨.rlx, .grove, .d, 0, 1⟩] : List Instr).all (fun i => !i.wf) = true := by
  decide +kernel

/-- Refused: arrive land 0, spawn block, spawnk land 0, groll block, havg block, snap land 0, vmin float n, vaddsat float, vrcp f64, vsqrt int, vshl float, vcmp int un, vcmp eq n, vcvt part. -/
theorem test_ill_formed_2 : ([.arrive .grove 1 2 0 0,
    .spawn 1 61 1,
    .spawnk 1 2 3 0,
    .groll 1 2 63 1,
    .havg 1 60 2 7 1,
    .snap 1 0,
    .vmin .f32 true 1 2 3 ⟨0, false⟩,
    .vaddsat .f16 false 1 2 3 ⟨0, false⟩,
    .vrcp .f64 1 2 ⟨0, false⟩,
    .vsqrt .i32 1 2 ⟨0, false⟩,
    .vshl .f32 1 2 (.imm 1) ⟨0, false⟩,
    .vcmp .un .i32 false 1 2 3 ⟨0, false⟩,
    .vcmp .eq .i8 true 1 2 3 ⟨0, false⟩,
    .vcvt .f32 .f16 false false .rne 2 1 2 ⟨0, false⟩] : List Instr).all (fun i => !i.wf) = true := by
  decide +kernel

/-- Refused: vcvt sat float, vcvt int mode, vqnt type, vqnt part, vdqnt type, vdqnt part, vextr index, vperm c, viota float, vrsum float n, vtopk 0, vtopk 9, vld land 0, vst land. -/
theorem test_ill_formed_3 : ([.vcvt .i8 .f32 false true .rne 0 1 2 ⟨0, false⟩,
    .vcvt .i8 .i32 false false .rtz 0 1 2 ⟨0, false⟩,
    .vqnt .i32 .f32 0 1 2 3 4 ⟨0, false⟩,
    .vqnt .i8 .f32 4 1 2 3 4 ⟨0, false⟩,
    .vdqnt .i8 .i8 0 1 2 3 4 ⟨0, false⟩,
    .vdqnt .f32 .i16 2 1 2 3 4 ⟨0, false⟩,
    .vextr .f64 false 1 2 (.imm 64),
    .vperm .i16 1 2 3 4 ⟨0, false⟩,
    .viota .bf16 1 2 ⟨0, false⟩,
    .vrsum .bf16 true 1 2 0,
    .vtopk .f32 false 0 1 2 3 0,
    .vtopk .f32 false 9 1 2 3 0,
    .vld .f32 1 ⟨1, 0, 0⟩ ⟨0, false⟩,
    .vst .f32 1 ⟨1, 0, 1⟩ 0] : List Instr).all (fun i => !i.wf) = true := by
  decide +kernel

/-- Refused: vldx i8, vfromacc i8, vtoacc f64 row, mset reserved, mclaim none, mma i8 transposed, mmaw tb, mgrp no start, mscac same, fwchunk noread d, fwchunk noread post, cpy2d block, wopen block. -/
theorem test_ill_formed_4 : ([.vldx .i8 1 2 ⟨1, 0, 1⟩ ⟨0, false⟩,
    .vfromacc .i8 1 2 0 ⟨0, false⟩,
    .vtoacc .f64 1 2 16 ⟨0, false⟩,
    .msetShapeImm 0 0x100000,
    .mclaim 0,
    .mmaI8 0 1 2 ⟨false, true, false⟩,
    .mmawI4 0 1 2 ⟨true, false, false⟩,
    .mgrpI8 0 1 2 ⟨false, false, false⟩ 0,
    .mscac 1 1 2 3 0,
    .fwchunk false false 0 1 2 3 4 0 true,
    .fwchunk false true 0 0 2 3 4 0 true,
    .cpy2d false ⟨false, 0⟩ 59,
    .wopen ⟨false, 0⟩ 0 58] : List Instr).all (fun i => !i.wf) = true := by
  decide +kernel

/-! ## Words -/

/-- Slot S words, each with its operation. -/
def readsS (l : List (Nat × Instr)) : Bool :=
  l.all fun x => (decodeS (SF.ofWord (BitVec.ofNat 64 x.1))).toOption == some x.2 && x.2.wf
/-- Vector slot words. -/
def readsV (l : List (Nat × Instr)) : Bool :=
  l.all fun x => (decodeV (VF.ofWord (BitVec.ofNat 64 x.1))).toOption == some x.2 && x.2.wf
/-- Slot M words. -/
def readsM (l : List (Nat × Instr)) : Bool :=
  l.all fun x => (decodeM (MF.ofWord (BitVec.ofNat 48 x.1))).toOption == some x.2 && x.2.wf
/-- Copy slot words. -/
def readsC (l : List (Nat × Instr)) : Bool :=
  l.all fun x => (decodeC (CF.ofWord (BitVec.ofNat 48 x.1))).toOption == some x.2 && x.2.wf
/-- Table words of a width. -/
def readsT (n : Nat) (l : List (Nat × Instr)) : Bool := l.all fun x => decodeTableWord n x.1 == some x.2

theorem test_decode_scalar_integer_1 : readsS [
    (0x010C108000000000, .add 3 1 (.reg 2)),
    (0x02101023FFFFFFFE, .sub 4 1 (.imm 17179869182)),
    (0x0314108000000000, .mul 5 1 (.reg 2)),
    (0x04181023FFFFFFFE, .mulh 6 1 (.imm 17179869182)),
    (0x051C108000000000, .mulhn 7 1 (.reg 2)),
    (0x06201023FFFFFFFE, .div 8 1 (.imm 17179869182)),
    (0x0724108000000000, .divn 9 1 (.reg 2)),
    (0x08281023FFFFFFFE, .rem 10 1 (.imm 17179869182)),
    (0x092C108000000000, .remn 11 1 (.reg 2)),
    (0x0A301023FFFFFFFE, .and 12 1 (.imm 17179869182)),
    (0x0B34108000000000, .or 13 1 (.reg 2)),
    (0x0C381023FFFFFFFE, .xor 14 1 (.imm 17179869182)),
    (0x0D3C108000000000, .andn 15 1 (.reg 2)),
    (0x0E401023FFFFFFFE, .shl 16 1 (.imm 17179869182))] = true := by decide +kernel

theorem test_decode_scalar_integer_2 : readsS [
    (0x0F44108000000000, .shr 17 1 (.reg 2)),
    (0x10481023FFFFFFFE, .sar 18 1 (.imm 17179869182)),
    (0x114C108000000000, .rol 19 1 (.reg 2)),
    (0x12501023FFFFFFFE, .min 20 1 (.imm 17179869182)),
    (0x1354108000000000, .max 21 1 (.reg 2)),
    (0x14581023FFFFFFFE, .minn 22 1 (.imm 17179869182)),
    (0x155C108000000000, .maxn 23 1 (.reg 2)),
    (0x16FC100000000000, .clz 63 1),
    (0x17FC200000000000, .ctz 63 2),
    (0x18FC300000000000, .popc 63 3),
    (0x0000000000000000, .nop)] = true := by decide +kernel

theorem test_decode_scalar_bits_1 : readsS [
    (0x191460000000001F, .sext 5 6 31),
    (0x1A14600000000020, .zext 5 6 32),
    (0x1B1461C000000019, .sel 5 6 7 true 9),
    (0x1C140003F0000000, .movi 5 0x3F0000000),
    (0x1D140000007FFFFF, .movhi 5 0x7FFFFF),
    (0x1E14600000000D0C, .bfx 5 6 12 52),
    (0x1F14600000000D0C, .bfi 5 6 12 52),
    (0x200C910000000000, .cmp .eq false 3 9 (.reg 4)),
    (0x200C910800000000, .cmp .ne false 3 9 (.reg 4)),
    (0x200C911400000000, .cmp .lt true 3 9 (.reg 4)),
    (0x200C911C00000000, .cmp .ge true 3 9 (.reg 4)),
    (0x200C903400000064, .cmp .lt true 3 9 (.imm 100)),
    (0x211461C800000000, .pand 5 6 7 false true),
    (0x221461D000000000, .por 5 6 7 true false)] = true := by decide +kernel

theorem test_decode_scalar_bits_2 : readsS [
    (0x231461C800000000, .pxor 5 6 7 false true),
    (0x2414600000000000, .pnot 5 6),
    (0x2514600000000000, .pmov 5 6),
    (0x281C0000FFFFFFFE, .bta 7 0xFFFFFFFE),
    (0x291C6003FFFFFFFF, .btrWrite 7 6 17179869183),
    (0x29F0700800000000, .btrRead 60 7),
    (0x2B0FC00000000000, .loopWrite 3 (.reg 60)),
    (0x2B0C002000000009, .loopWrite 3 (.imm 9)),
    (0x2BF0300800000000, .loopRead 60 3),
    (0x2CF0000000000019, .rdpc 60 25)] = true := by decide +kernel

theorem test_decode_scalar_float_1 : readsS [
    (0x300420C000000000, .fadd .f64 1 2 3),
    (0x310420C000000001, .fsub .f32 1 2 3),
    (0x320420C000000002, .fmul .f16 1 2 3),
    (0x340420C000000003, .fdiv .bf16 1 2 3),
    (0x360420C000000000, .fmin .f64 1 2 3),
    (0x370420C000000001, .fmax .f32 1 2 3),
    (0x330420C000000011, .ffma .f32 1 2 3 4),
    (0x3504200000000003, .fsqrt .bf16 1 2),
    (0x383C20C000000000, .fcmp .eq .f64 15 2 3),
    (0x383C20C000000005, .fcmp .ne .f32 15 2 3),
    (0x383C20C00000000A, .fcmp .lt .f16 15 2 3),
    (0x383C20C00000000F, .fcmp .le .bf16 15 2 3),
    (0x383C20C000000010, .fcmp .gt .f64 15 2 3),
    (0x383C20C000000015, .fcmp .ge .f32 15 2 3)] = true := by decide +kernel

theorem test_decode_scalar_float_2 : readsS [
    (0x383C20C00000001A, .fcmp .un .f16 15 2 3),
    (0x383C20C00000001F, .fcmp .ord .bf16 15 2 3),
    (0x3904200000000007, .fcvt 1 2 .rne .f64 .u32),
    (0x390420000000004E, .fcvt 1 2 .rtz .f32 .i32),
    (0x3904200000000095, .fcvt 1 2 .rdn .f16 .u64),
    (0x39042000000000DC, .fcvt 1 2 .rup .bf16 .i64),
    (0x3904200000000103, .fcvt 1 2 .rna .f64 .bf16)] = true := by decide +kernel

theorem test_decode_scalar_memory_1 : readsS [
    (0x40141007FFFFFFFF, .ld .b true 5 1 16777215 1023),
    (0x4014100FFFFFFFFE, .ld .h true 5 1 16777214 1023),
    (0x40141013FFFFFFFD, .ld .w false 5 1 16777213 1023),
    (0x4014101BFFFFFFFC, .ld .d false 5 1 16777212 1023),
    (0x4100125800000010, .st .d 9 1 0x10),
    (0x4214101001000010, .ldfe .w .w false 5 1 0x10 1),
    (0x4214103401000010, .ldfe .c .w true 5 1 0x10 1),
    (0x4300124000000020, .stfe .f .b 9 1 0x20),
    (0x4304124800000020, .stfe .e .h 9 1 0x20),
    (0x4308125000000020, .stfe .wf .w 9 1 0x20),
    (0x4414125807000008, .ldg .d false 5 1 9 8 7),
    (0x4500000000000000, .fence .grove),
    (0x4500000400000000, .fence .package),
    (0x4500000800000000, .fence .domain)] = true := by decide +kernel

theorem test_decode_scalar_memory_2 : readsS [
    (0x4500000C00000000, .fence .system),
    (0x4600700000000040, .pref false 7 0x40),
    (0x4600700400000040, .pref true 7 0x40)] = true := by decide +kernel

theorem test_decode_atomics_1 : readsS [
    (0x4850656496C00008, .aadd 20 6 21 ⟨.rel, .package, .d, 8, 150⟩),
    (0x4804654C053FFFFF, .aadd 1 6 21 ⟨.rlx, .system, .b, 0x3FFFFF, 5⟩),
    (0x49086558057FFFFF, .amin 2 6 21 ⟨.acq, .domain, .h, 0x3FFFFF, 5⟩),
    (0x4A0C656405BFFFFF, .amax 3 6 21 ⟨.rel, .package, .w, 0x3FFFFF, 5⟩),
    (0x4B10657005FFFFFF, .aminn 4 6 21 ⟨.ar, .grove, .d, 0x3FFFFF, 5⟩),
    (0x4C14654C053FFFFF, .amaxn 5 6 21 ⟨.rlx, .system, .b, 0x3FFFFF, 5⟩),
    (0x4D186558057FFFFF, .aand 6 6 21 ⟨.acq, .domain, .h, 0x3FFFFF, 5⟩),
    (0x4E1C656405BFFFFF, .aor 7 6 21 ⟨.rel, .package, .w, 0x3FFFFF, 5⟩),
    (0x4F20657005FFFFFF, .axor 8 6 21 ⟨.ar, .grove, .d, 0x3FFFFF, 5⟩),
    (0x5024654C053FFFFF, .axchg 9 6 21 ⟨.rlx, .system, .b, 0x3FFFFF, 5⟩),
    (0x51286558057FFFFF, .acas 10 6 21 ⟨.acq, .domain, .h, 0x3FFFFF, 5⟩),
    (0x5200654000800004, .afadd 0 6 21 ⟨.rlx, .grove, .w, 4, 0⟩),
    (0x5300654000C00008, .red .add 6 21 ⟨.rlx, .grove, .d, 8, 0⟩),
    (0x5304656000C00008, .red .min 6 21 ⟨.rel, .grove, .d, 8, 0⟩)] = true := by decide +kernel

theorem test_decode_atomics_2 : readsS [
    (0x5308654000C00008, .red .max 6 21 ⟨.rlx, .grove, .d, 8, 0⟩),
    (0x530C656000C00008, .red .minn 6 21 ⟨.rel, .grove, .d, 8, 0⟩),
    (0x5310654000C00008, .red .maxn 6 21 ⟨.rlx, .grove, .d, 8, 0⟩),
    (0x5314656000C00008, .red .and 6 21 ⟨.rel, .grove, .d, 8, 0⟩),
    (0x5318654000C00008, .red .or 6 21 ⟨.rlx, .grove, .d, 8, 0⟩),
    (0x531C656000C00008, .red .xor 6 21 ⟨.rel, .grove, .d, 8, 0⟩),
    (0x5320654000C00008, .red .fadd 6 21 ⟨.rlx, .grove, .d, 8, 0⟩),
    (0x5810600409000010, .arrive .package 4 6 16 9),
    (0x591061C809000010, .waitb .domain 4 6 7 16 9),
    (0x591061DC09000010, .waitbTry .system 4 6 7 16 9),
    (0x5A0061CC00000020, .binit .system 6 7 32)] = true := by decide +kernel

theorem test_decode_requests_1 : readsS [
    (0x602BC000C8000000, .spawn 10 60 200),
    (0x612BC1C0C8000000, .spawnk 10 60 7 200),
    (0x6200000000007FFF, .tabort 0x7FFF),
    (0x63286000C8000000, .tstat 10 6 200),
    (0x68286000C8000040, .watch 10 6 0x40 200),
    (0x69286000C8000000, .unwatch 10 6 200),
    (0x6A286000C8000000, .wstat 10 6 200),
    (0x71286000C8000000, .gdrop 10 6 200),
    (0x74286000C8000000, .gstat 10 6 200),
    (0x78286000C8000000, .hnew 10 6 200),
    (0x79286000C8000000, .hfree 10 6 200),
    (0x7A286000C8000000, .hfork 10 6 200),
    (0x7C286000C8000000, .hsnap 10 6 200),
    (0x7F286000C8000000, .hpin 10 6 200)] = true := by decide +kernel

theorem test_decode_requests_2 : readsS [
    (0x80286000C8000000, .hunpin 10 6 200),
    (0x81286000C8000000, .hstat 10 6 200),
    (0x70280000C8000000, .snap 10 200),
    (0x72286200C8000000, .groll 10 6 8 200),
    (0x73286200C8000000, .ckpt 10 6 8 200),
    (0x7D286200C8000000, .hroll 10 6 8 200),
    (0x7E286200C8000000, .hmig 10 6 8 200),
    (0x82286200C8000000, .pgready 10 6 8 200),
    (0x7B286200C8000007, .havg 10 6 8 7 200),
    (0x8828000000000023, .rdsys 10 0x023),
    (0x8900A00000000008, .wrsys 10 0x008),
    (0x8A00000000001234, .trap 0x1234),
    (0x8B286000C800ABCD, .svc 10 6 0xABCD 200),
    (0x8C0000000000000F, .phase 15)] = true := by decide +kernel

theorem test_decode_requests_3 : readsS [
    (0x8D00000000000000, .halt)] = true := by decide +kernel

theorem test_decode_vector_arithmetic_1 : readsV [
    (0x0000000000000000, .vnop),
    (0x010110C0E0000000, .vadd .f32 1 2 3 ⟨3, true⟩),
    (0x022110C0E0000000, .vsub .bf16 1 2 3 ⟨3, true⟩),
    (0x034110C0E0000000, .vmul .f16 1 2 3 ⟨3, true⟩),
    (0x046110FEE0000000, .vfma .f64 1 2 3 31 ⟨3, true⟩),
    (0x058110FEE0000000, .vfms .i32 1 2 3 31 ⟨3, true⟩),
    (0x06A110FEE0000000, .vfnma .i16 1 2 3 31 ⟨3, true⟩),
    (0x07C110C0E0000000, .vmin .i8 false 1 2 3 ⟨3, true⟩),
    (0x08C110C0E0000001, .vmax .i8 true 1 2 3 ⟨3, true⟩),
    (0x09011000E0000000, .vabs .f32 1 2 ⟨3, true⟩),
    (0x0A211000E0000000, .vneg .bf16 1 2 ⟨3, true⟩),
    (0x0B8110C0E0000001, .vaddsat .i32 true 1 2 3 ⟨3, true⟩),
    (0x0CA110C0E0000001, .vsubsat .i16 true 1 2 3 ⟨3, true⟩),
    (0x0DC110C0E0000001, .vmulh .i8 true 1 2 3 ⟨3, true⟩)] = true := by decide +kernel

theorem test_decode_vector_arithmetic_2 : readsV [
    (0x10011000E0000000, .vrcp .f32 1 2 ⟨3, true⟩),
    (0x11211000E0000000, .vrsq .bf16 1 2 ⟨3, true⟩),
    (0x12411000E0000000, .vexp2 .f16 1 2 ⟨3, true⟩),
    (0x13011000E0000000, .vlog2 .f32 1 2 ⟨3, true⟩),
    (0x14211000E0000000, .vtanh .bf16 1 2 ⟨3, true⟩),
    (0x15411000E0000000, .vsigm .f16 1 2 ⟨3, true⟩),
    (0x16611000E0000000, .vsqrt .f64 1 2 ⟨3, true⟩),
    (0x176110C0E0000000, .vdiv .f64 1 2 3 ⟨3, true⟩),
    (0x180110C0E0000000, .vand .f32 1 2 3 ⟨3, true⟩),
    (0x192110C0E0000000, .vor .bf16 1 2 3 ⟨3, true⟩),
    (0x1A4110C0E0000000, .vxor .f16 1 2 3 ⟨3, true⟩),
    (0x1BA11000E0000000, .vnot .i16 1 2 ⟨3, true⟩),
    (0x1C8110C0E0000000, .vshl .i32 1 2 (.reg 3) ⟨3, true⟩),
    (0x1DA11000E0000086, .vshr .i16 1 2 (.imm 33) ⟨3, true⟩)] = true := by decide +kernel

theorem test_decode_vector_arithmetic_3 : readsV [
    (0x1EC110C0E0000000, .vsar .i8 1 2 (.reg 3) ⟨3, true⟩)] = true := by decide +kernel

theorem test_decode_vector_predicates_1 : readsV [
    (0x20072140E0000000, .vcmp .eq .f32 false 7 4 5 ⟨3, true⟩),
    (0x20072140E0000002, .vcmp .ne .f32 false 7 4 5 ⟨3, true⟩),
    (0x20072140E0000004, .vcmp .lt .f32 false 7 4 5 ⟨3, true⟩),
    (0x20072140E0000006, .vcmp .le .f32 false 7 4 5 ⟨3, true⟩),
    (0x20072140E0000008, .vcmp .gt .f32 false 7 4 5 ⟨3, true⟩),
    (0x20072140E000000A, .vcmp .ge .f32 false 7 4 5 ⟨3, true⟩),
    (0x20072140E000000C, .vcmp .un .f32 false 7 4 5 ⟨3, true⟩),
    (0x20072140E000000E, .vcmp .ord .f32 false 7 4 5 ⟨3, true⟩),
    (0x2003214060000008, .vcmp .gt .f32 false 3 4 5 ⟨1, true⟩),
    (0x20832140E0000005, .vcmp .lt .i32 true 3 4 5 ⟨3, true⟩),
    (0x214110C0E000000C, .vsel .f16 1 2 3 6 ⟨3, true⟩),
    (0x220110C000000004, .vpand 1 2 3 true false),
    (0x230110C000000002, .vpor 1 2 3 false true),
    (0x2401100000000000, .vpnot 1 2)] = true := by decide +kernel

theorem test_decode_vector_predicates_2 : readsV [
    (0x258F1000C0000000, .vany .i32 15 2 3),
    (0x268F1000C0000000, .vall .i32 15 2 3),
    (0x27C01000C0078000, .vpcnt .i8 60 2 3)] = true := by decide +kernel

theorem test_decode_vector_conversions : readsV [
    (0x28C11000E0000300, .vcvt .i8 .f32 false false .rne 3 1 2 ⟨3, true⟩),
    (0x28C11000E0000311, .vcvt .i8 .f32 true false .rtz 3 1 2 ⟨3, true⟩),
    (0x28C11000E0000320, .vcvt .i8 .f32 false false .rdn 3 1 2 ⟨3, true⟩),
    (0x28C11000E0000331, .vcvt .i8 .f32 true false .rup 3 1 2 ⟨3, true⟩),
    (0x28C11000E0000340, .vcvt .i8 .f32 false false .rna 3 1 2 ⟨3, true⟩),
    (0x28A11000E0000189, .vcvt .i16 .i32 true true .rne 1 1 2 ⟨3, true⟩),
    (0x29C110C8E0000706, .vqnt .i8 .f64 7 1 2 3 4 ⟨3, true⟩),
    (0x2A0110C8E000010A, .vdqnt .f32 .i16 1 1 2 3 4 ⟨3, true⟩)] = true := by decide +kernel

theorem test_decode_vector_movement : readsV [
    (0x30211000E0000000, .vmov .bf16 1 2 ⟨3, true⟩),
    (0x31210000E0078000, .vbcast .bf16 1 60 ⟨3, true⟩),
    (0x32C0100000079FF9, .vextr .i8 true 60 2 (.imm 511)),
    (0x3260100001EF8000, .vextr .f64 false 60 2 (.reg 61)),
    (0x33620000000791F8, .vinsr .f64 2 60 (.imm 63)),
    (0x3362000001EF8000, .vinsr .f64 2 60 (.reg 61)),
    (0x34C110C8E0000000, .vperm .i8 1 2 3 4 ⟨3, true⟩),
    (0x350110C0E0000000, .vshuf .f32 .ziplo 1 2 3 ⟨3, true⟩),
    (0x350110C0E0000002, .vshuf .f32 .ziphi 1 2 3 ⟨3, true⟩),
    (0x350110C0E0000004, .vshuf .f32 .unzeven 1 2 3 ⟨3, true⟩),
    (0x350110C0E0000006, .vshuf .f32 .unzodd 1 2 3 ⟨3, true⟩),
    (0x36011000E1E80000, .vrot .f32 1 2 (.reg 61) ⟨3, true⟩),
    (0x36011000E00013F8, .vrot .f32 1 2 (.imm 127) ⟨3, true⟩),
    (0x37810000E0078000, .viota .i32 1 60 ⟨3, true⟩)] = true := by decide +kernel

theorem test_decode_vector_reductions : readsV [
    (0x38811000C0000000, .vrsum .i32 false 1 2 3),
    (0x39811000C0000001, .vrmax .i32 true 1 2 3),
    (0x3A811000C0000000, .vrmin .i32 false 1 2 3),
    (0x3B811000C0000001, .vargmax .i32 true 1 2 3),
    (0x3C811000C0000000, .vscan .i32 1 2 3),
    (0x3D811008C0000011, .vtopk .i32 true 8 1 4 2 3),
    (0x3EC110C0C0000000, .vdot .i8 false 1 2 3 3),
    (0x48613800E000001E, .vfromacc .f64 1 7 15 ⟨3, true⟩),
    (0x49070800E000003E, .vtoacc .f32 7 1 31 ⟨3, true⟩)] = true := by decide +kernel

theorem test_decode_vector_memory : readsV [
    (0x40C10000E04F9FFF, .vld .i8 1 ⟨60, 0x1FFF, 9⟩ ⟨3, true⟩),
    (0x41C01000C0079FFF, .vst .i8 2 ⟨60, 0x1FFF, 0⟩ 3),
    (0x42810000E04F9FFF, .vldfe .w .i32 1 ⟨60, 0x1FFF, 9⟩ ⟨3, true⟩),
    (0x42810002E04F9FFF, .vldfe .c .i32 1 ⟨60, 0x1FFF, 9⟩ ⟨3, true⟩),
    (0x43801000C0079FFF, .vstfe .f .i32 2 ⟨60, 0x1FFF, 0⟩ 3),
    (0x43801002C0079FFF, .vstfe .e .i32 2 ⟨60, 0x1FFF, 0⟩ 3),
    (0x43801004C0079FFF, .vstfe .wf .i32 2 ⟨60, 0x1FFF, 0⟩ 3),
    (0x448100C0E04F9FFF, .vldw .i32 1 3 ⟨60, 0x1FFF, 9⟩ ⟨3, true⟩),
    (0x4581003EE04F9FFF, .vlds .i32 1 31 ⟨60, 0x1FFF, 9⟩ ⟨3, true⟩),
    (0x4680103EC0079FFF, .vsts .i32 2 31 ⟨60, 0x1FFF, 0⟩ 3),
    (0x478100C0E04F9FFF, .vldx .i32 1 3 ⟨60, 0x1FFF, 9⟩ ⟨3, true⟩)] = true := by decide +kernel

theorem test_decode_matrix_1 : readsM [
    (0x000000000000, .mnop),
    (0x011400C0FFFF, .msetShapeImm 5 0xC0FFFF),
    (0x011401FFFFFF, .msetTableImm 5 0xFFFFFF),
    (0x01140200003C, .msetShapeReg 5 60),
    (0x01140300003C, .msetTableReg 5 60),
    (0x020000008001, .mclaim 0x8001),
    (0x030000008001, .mrelease 0x8001),
    (0x040000000081, .mwait 0x81),
    (0x05E000000000, .mzero 7),
    (0x102981000000, .mmaBf16 1 2 3 ⟨false, false, true⟩),
    (0x112982000000, .mmaF16 1 2 3 ⟨false, true, false⟩),
    (0x122983000000, .mmaF32 1 2 3 ⟨false, true, true⟩),
    (0x132984000000, .mmaF64 1 2 3 ⟨true, false, false⟩),
    (0x142981000000, .mmaI8 1 2 3 ⟨false, false, true⟩)] = true := by decide +kernel

theorem test_decode_matrix_2 : readsM [
    (0x152982000000, .mmawI4 1 2 3 ⟨false, true, false⟩),
    (0x162983000000, .mmawE2m1 1 2 3 ⟨false, true, true⟩),
    (0x172981000007, .mgrpI4i8 1 2 3 ⟨false, false, true⟩ 7),
    (0x182981000006, .mgrpI8 1 2 3 ⟨false, false, true⟩ 6),
    (0x19298000002C, .mscac 1 4 2 3 5),
    (0x1A200000000C, .mtrn 1 4 true),
    (0x1B2000000004, .maccadd .f32 1 4),
    (0x1B200000000C, .maccadd .f64 1 4),
    (0x1B2000000014, .maccadd .i32 1 4),
    (0x1C2000000004, .mcvtacc .f32OfI32 1 4),
    (0x1C200000000C, .mcvtacc .i32OfF32 1 4),
    (0x1C2000000014, .mcvtacc .bf16 1 4),
    (0x1C200000001C, .mcvtacc .f16 1 4),
    (0x200003000FFC, .fwbind 3 60 63)] = true := by decide +kernel

theorem test_decode_matrix_3 : readsM [
    (0x2120030007FE, .fwread 3 1 63 30),
    (0x22000300001E, .fwfade 3 30),
    (0x23000B00001E, .fwwrite true 3 30),
    (0x2420070007FE, .fwstep false true 3 1 63 30),
    (0x2529CF00003F, .fwchunk true true 3 1 2 3 4 63 false),
    (0x2509C3000045, .fwchunk false false 3 0 2 3 4 5 true),
    (0x260003000000, .fwunbind 3),
    (0x270000000009, .fwwait 9)] = true := by decide +kernel

theorem test_decode_copy_1 : readsC [
    (0x000000000000, .cnop),
    (0x010420D3F000, .cpy true ⟨false, 63⟩ 1 2 3),
    (0x02E800205000, .cpy2d false ⟨true, 5⟩ 58),
    (0x03E80013F000, .gather true ⟨false, 63⟩ 58),
    (0x04E80003F000, .scatter ⟨false, 63⟩ 58),
    (0x050020C3F00F, .osfill ⟨false, 63⟩ 15 2 3),
    (0x06002003F00F, .wsfill ⟨false, 63⟩ 15 2),
    (0x070420C3F000, .wswrite ⟨false, 63⟩ 1 2 3),
    (0x08E40003F003, .wopen ⟨false, 63⟩ 3 57),
    (0x09040003F003, .wadv ⟨false, 63⟩ 3 1),
    (0x0A000003F003, .wclose ⟨false, 63⟩ 3),
    (0x0B0420C3F000, .rput ⟨false, 63⟩ 1 2 3),
    (0x0C0420D3F000, .rget true ⟨false, 63⟩ 1 2 3),
    (0x0D042007F000, .rsig ⟨false, 63⟩ .package .store 1 2)] = true := by decide +kernel

theorem test_decode_copy_2 : readsC [
    (0x0D04200BF001, .rsig ⟨false, 63⟩ .domain .add 1 2),
    (0x0D04200FF002, .rsig ⟨false, 63⟩ .system .umax 1 2),
    (0x0E0020C3F00F, .mcast ⟨false, 63⟩ 15 2 3),
    (0x0F040003F000, .spin ⟨false, 63⟩ 1),
    (0x10040003F000, .spout ⟨false, 63⟩ 1),
    (0x11000003F000, .cwait ⟨false, 63⟩),
    (0x12042003F000, .cflush ⟨false, 63⟩ 1 2),
    (0x13042003F000, .cinv ⟨false, 63⟩ 1 2)] = true := by decide +kernel

theorem test_decode_headers : readsT 384 [
    (0x1FF000000000000000000000000000000000000000000000000000000000000000000000000000000000000000000000, .jt ⟨15, true⟩ 7),
    (0x235000000000000000000000000000000000000000000000000000000000000000000000000000000000000000000000, .call ⟨3, false⟩ 5),
    (0x338000000000000000000000000000000000000000000000000000000000000000000000000000000000000000000000, .ret ⟨3, true⟩),
    (0x435C00000000000000000000000000000000000000000000000000000000000000000000000000000000000000000000, .loop ⟨3, false⟩ 3 5),
    (0x500000000000000000000000000000000000000000000000000000000000000000000000000000000000000000000000, .endTask),
    (0x200000000000000000000000000000000000000000000000000000000000000000000000000000000000000000000, .yieldRun)] = true := by decide +kernel

theorem test_decode_packets : readsT 512 [
    (0x700801234, .nopPacket ⟨7, true, false, 0x1234⟩),
    (0x880000000000000009000000000000008000000000000FFFFF000000000000006000000000000000400000000701801234, .launch ⟨7, true, false, 0x1234⟩ 0x40 0x60 0xFFFFF 0x80 9 0x88),
    (0xE000000000000000500000000000000480000000702801234, .signal ⟨7, true, false, 0x1234⟩ 0x48 5 .system .umax),
    (0x5000000000000000500000000000000480000000703801234, .waitsig ⟨7, true, false, 0x1234⟩ 0x48 5 .package .eq),
    (0x600000000000003FF0000000000010000000000000000002200000000000000110000000704801234, .wrenq ⟨7, true, false, 0x1234⟩ 0x11 0x22 0x10000 0x3FF 6),
    (0xFFFFF0000000705801234, .preempt ⟨7, true, false, 0x1234⟩ 0xFFFFF),
    (0xFFFFF0000000706801234, .restore ⟨7, true, false, 0x1234⟩ 0xFFFFF),
    (0xFFFFF0000000707801234, .endinst ⟨7, true, false, 0x1234⟩ 0xFFFFF)] = true := by decide +kernel

theorem test_decode_requests_of_drivers : readsT 512 [
    (0x1000000000000000FFFF0000000000000001, .root),
    (0x20000000000000001000000000000000FFFF0000000000000002, .shoot),
    (0x4000000000000000300000000000000020000000000001000000000000000100000000000000000010000000000000003, .pgreg),
    (0x100000000000000000010000000000000004, .pgunreg),
    (0x100000000000000005, .gpool),
    (0x10000000000000001000000000000000200000000000000010000000000000000001000000000000003F0000000000000006, .ckreg),
    (0x3000000000000100000000000000010000000000000000FFF00000000000000FF0000000000000007, .exportReq),
    (0x400000000000000007000000000001000000000000000010000000000000000005000000000000003F0000000000000008, .rwin),
    (0x30000000000000009, .retire),
    (0x10300000000000000010000000000000001000000000000000A, .grovecfg),
    (0x640000000000001000000000000000000B, .telem),
    (0x15E00000000000004B0000000000000000C, .power),
    (0x1000000000000000000000000000000000001000000000000000D, .hang)] = true := by decide +kernel

/-- A bundle with all its parts: LOOP, YLD, SFP, GAP 15, six slots, and the squash bit of slot S (R157, R158). -/
theorem test_decode_bundle : (decodeBundle 0x4127FFE00000010C10800000000001830980C0000000300530000000000005E000000000010420C09000110000009000#384 false).toOption = some
    ⟨some (.loop ⟨1, false⟩ 1 2), true, true, 15, some ⟨.add 3 1 (.reg 2), true⟩, some ⟨.vadd .i32 3 1 6 ⟨3, false⟩, false⟩,
      some ⟨.vmov .f32 5 6 ⟨0, false⟩, false⟩, some ⟨.mzero 7, false⟩, some ⟨.cpy false ⟨false, 9⟩ 1 2 3, false⟩,
      some ⟨.cwait ⟨false, 9⟩, false⟩⟩ := by decide +kernel

/-! ## The spec's worked examples -/

/-- R174: −7 ÷ 2, signed and unsigned. -/
theorem test_division : sdivRem (BitVec.ofInt 64 (-7)) 2 = (BitVec.ofInt 64 (-3), BitVec.ofInt 64 (-1)) ∧
    udivRem 0xFFFFFFFFFFFFFFF9 2 = (0x7FFFFFFFFFFFFFFC, 1) := by decide +kernel
/-- R179: the MOVI and MOVHI pair. -/
theorem test_movi_movhi : (BitVec.ofInt 34 (-0x10000000)).signExtend 64 = 0xFFFFFFFFF0000000#64 ∧
    ((0x7FFFFF : BitVec 30) ++ bits (0xFFFFFFFFF0000000 : W64) 0 34 : W64) = 0x01FFFFFFF0000000 := by decide +kernel
/-- R189: the two conversions, each with NX. -/
theorem test_fcvt : fcvtBits .rtz .f32 .i32 0xC0200000 = (0xFFFFFFFFFFFFFFFE, flNX) ∧
    fcvtBits .rne .f32 .bf16 0x3F818000 = (0x3F82, flNX) := by decide +kernel

/-- R427: the map at PA = 0x1_2345_6780. -/
theorem test_memory_map :
    [stackOf, channelOf, columnOf, bankGroupOf, bankOf, rowOf, dieOfPa, sliceOf].map (fun f => f 0x123456780) =
      [5, 29, 5, 0, 3, 0x246, 1, 23] := by decide +kernel
/-- R84, R86: one divided by a scale of zero saturates, with NV and DZ. -/
theorem test_quant_by_zero : quant .f32 8 0x3F800000 0 0 = (127, flNV ||| flDZ) := by decide +kernel

/-! ## States for the witnesses -/

/-- The state a meaning answers with; the reset state where it answers none. -/
def good (o : Out) : State := match o with | .next t => t | _ => State.reset
/-- Whether a meaning goes on. -/
def isNext (o : Out) : Bool := match o with | .next _ => true | _ => false
/-- Context 0 of core 0 runs without a task, with every register and 1 MiB of heap. -/
def k0 : Ctx := { Ctx.reset 0 0 with st := .running, vGrant := 32, aGrant := 8, heapLimit := 0x100000 }
/-- That context acts. -/
def s0 : State := { State.reset.setCtx 0 0 k0 with core := 0, ctx := 0 }
/-- The same with other scalar registers, r number by number. -/
def withRegs (s : State) (r : Nat → W64) : State := s.setMe { s.me with s := Vector.ofFn fun i => r i.val }
/-- A task type that computes on grove 0, with every register. -/
def ty0 : TaskType :=
  { entry := 0, key := .none, route := .fixed 0, skew := 0, gang := false, staged := false, role := .compute, aDem := 8, vDem := 32
    spad := 0, regions := [⟨0, 0, 0, 0, 0, 0x100000, 3, true⟩] }
/-- An image of one literal-free bundle, NOP in slot S. -/
def img0 : Image :=
  { groves := [0], dict := [0x000008000000 * 2 ^ 336], code := [0, 0, 0], types := [ty0], safes := [⟨0, 1, 2, 48⟩], phases := [0, 16]
    ws := 0, watches := [], timed := true, wcyc := 10, fbud := 20 }
/-- An instance of it, launched from queue 3. -/
def inst0 : Inst :=
  { img := img0, queue := 3, desc := 0, pos := 0, heapBase := 0, heapLimit := 0x100000, heapOff := 0, saveBase := 0, saveLen := 0
    sigAddr := 0, noPre := false, gen := true, ended := false, endSt := .none, endTime := 0, recs := [], cause := 0, causeTime := 0
    froze := false, entry := 0, since := none, deadline := 0, charged := [], preempting := none, areas := [], hostLines := [] }
/-- A task of the instance, of entry 0 of grove 0, in a state. -/
def task0 (st : TaskSt) : Task :=
  { inst := 7, rcd := ⟨0, 0, 0, 1, 2, 3, 4, 5⟩, key := some 6, seq := 0, regions := [⟨0, 0x100000, 3, true⟩], edges := [], st := st
    retries := 0, token := false, depth := 0, ts := 9, keptLts := [], keptFlags := [], keptLines := [], safePt := none, areas := [], tent := []
    deferred := [], cause := 0, cores := [0], x := 0, endTime := 0, lastIssue := 0, preempt := false
    began := 0, chg0 := [], readyAt := none, creator := 0 }
/-- The instance and its task, which runs on context 0 of core 0. -/
def s1 : State :=
  (({ s0 with insts := [(7, inst0)] }).setTask 0 (task0 .running)).setMe { k0 with task := some 0, inst := some 7, fb := s0.me.fb }
/-- Whether the checks of every operation of a list let it take effect, each alone. -/
def allPass (s : State) (l : List Instr) : Bool := l.all fun i => (s.passes i).isSome

/-! ## Witnesses: encodings and steps -/

/-- Operands at the top of their ranges encode, and are well formed. -/
theorem witness_SlotRoundTrip :
    (encS (.sel 63 63 63 true 15)).isSome ∧ (Instr.sel 63 63 63 true 15).wf = true ∧
    (encV (.vextr .i8 true 63 31 (.imm 511))).isSome ∧ (Instr.vextr .i8 true 63 31 (.imm 511)).wf = true ∧
    (encM (.fwread 3 7 63 31)).isSome ∧ (Instr.fwread 3 7 63 31).wf = true ∧
    (encC (.wopen ⟨true, 63⟩ 3 57)).isSome ∧ (Instr.wopen ⟨true, 63⟩ 3 57).wf = true := by decide +kernel

/-- A bundle of one NOP, and one with YLD. -/
def b0 : Bundle := ⟨none, true, true, 15, some ⟨.nop, false⟩, none, none, none, none, none⟩

theorem witness_PacketAndBundleRoundTrip :
    ((encPkt (.launch ⟨0xFFFFFFFF, true, true, 0xFFFF⟩ 0x40 0x20 0xFFFFF 0x40 0 8)).isSome ∧
      packetOk 2 (.launch ⟨0xFFFFFFFF, true, true, 0xFFFF⟩ 0x40 0x20 0xFFFFF 0x40 0 8)) ∧
    (encode b0).isSome ∧ (b0.ops.all fun o => o.2.op.wf && (!yieldWait o.2.op || b0.yld) && (!o.2.squash || squashOk o.2.op)) ∧
    hasTwice b0.dests = false := by decide +kernel

theorem witness_DecodedWordsReencode :
    (decodeS (SF.ofWord 0x2000900000000000)).toOption.isSome ∧ (decodeV (VF.ofWord 0x2003214060000008)).toOption.isSome ∧
    (decodeM (MF.ofWord 0x050000000000)).toOption.isSome ∧ (decodeC (CF.ofWord 0x110000000000)).toOption.isSome ∧
    (decodePacket 1 (PF.ofWord 0x0000000100000000)).toOption.isSome ∧ (decodeReq (RF.ofWord 5)).isSome := by decide +kernel

/-- Headers with SEQ 6 and 15, a reserved bit, and JT in a delay position; and an image that is read at its first halfword, past its
end, and where its halfwords are illegal. -/
theorem witness_HeadersAndFetch :
    (∀ n ∈ [6, 15], (HF.ofWord (BitVec.ofNat 48 (n * 2 ^ 44))).seq.toNat = n) ∧
    ([0x0F0000000000, 0x500C00000000, 0x508000000000, 0x507000000000].all fun w => let h := HF.ofWord w
      (h.seq = 0 || h.seq = 5) && (h.cp ≠ 0 || h.cn ≠ 0 || h.bt ≠ 0 || h.lc ≠ 0)) = true ∧
    (HF.ofWord 0x100C00000000).seq = 1 ∧ (HF.ofWord 0x100C00000000).lc ≠ 0 ∧ (HF.ofWord 0x307000000000).seq = 3 ∧
    (HF.ofWord 0x307000000000).bt ≠ 0 ∧
    (HF.ofWord 1).seq.toNat < 6 ∧ (HF.ofWord 1).rsv ≠ 0 ∧ (HF.ofWord 0x10000).sq &&& ~~~(HF.ofWord 0x10000).val ≠ 0 ∧
    (decodeHeader (HF.ofWord 0x100000000000) false).toOption = some (some (.jt ⟨0, false⟩ 0)) ∧
    (Instr.jt ⟨0, false⟩ 0).isTransfer = true ∧
    img0.code.length ≤ 3 ∧ img0.code[0]? = some 0 ∧ img0.dict[0]?.isSome ∧ img0.dict.length ≤ 1 ∧
    (0x2000 : W16).toNat ≤ 0xFFFE ∧ ((0xFFFF :: List.replicate 24 (0 : W16)).length = 0 + 25) := by decide +kernel

theorem witness_StepLeavesNoIdleCore : isNext (step State.reset) = true := by decide +kernel

/-- A state with two bytes of memory, and one that reads alike. -/
theorem witness_StepKeepsMemoryForm :
    let s : State := { State.reset with mem := [⟨3, 1⟩, ⟨9, 255⟩] }
    s.mem.wf = true ∧ isNext (step s) = true ∧ (s.mem.write 4 0).wf = true ∧ s.mem.write 4 0 = s.mem := by decide +kernel

/-- The state in which an ADD stands where the next step issues. -/
def p0 : State := State.reset.withFetchWord 384 ((2 ^ 27 + 0) * 2 ^ 336 + 0x010C108000000000 * 2 ^ 272)

theorem witness_StepRunsBundle :
    let q : State := { p0 with agenda := p0.agenda.drop 1, checked := false, squash := false, slot := .s, inHeader := false }
    let q1 : State := { q with core := 0, ctx := 0 }
    let k : Ctx := { Ctx.reset 0 8 with st := .running, inst := some 0 }
    p0.agenda.head? = some (.issue 0 0) ∧ p0.gated = false ∧ (p0.ctxAt 0 0).gang = false ∧
    (before p0 (.issue 0 0)).find? (moves p0) = none ∧
    (before (p0.setCtx 0 8 k) (.issue 0 0)).find? (moves (p0.setCtx 0 8 k)) = some (.issue 0 8) ∧
    issueReady q 0 0 = true ∧
    ((imageAt q1 0 0).map fun img =>
      let t := q1.setCtx 0 0 (leaveRestore img (transferNow (q1.ctxAt 0 0)))
      match fetchAt img (t.ctxAt 0 0).pc.toNat with
      | .bundle w lit => !(lit && literalWaits q1 0 0) && (match decodeBundle w (decide (0 < (t.ctxAt 0 0).delay)) with
        | .ok b => (precheck t (instrsOf b)).toOption.isSome
        | .error _ => false)
      | .illegal _ => false) = some true := by decide +kernel

/-- One step from there computes s[1] + s[2], in flight to s[3]: every register is zero, and so is the sum. -/
theorem test_step_runs_add : isNext (step p0) = true ∧ (good (step p0)).ctxAt 0 0 ≠ p0.ctxAt 0 0 := by decide +kernel

/-- A machine on which a PHASE drain has lasted its cycles, and one on which it has not. -/
def drained (n : Nat) : State :=
  { State.reset.setGrove 0 { State.reset.groveAt 0 with drain := some ⟨5, 0, 1, some 7⟩ } with
    agenda := [.tick], time := BitVec.ofNat 64 n }

/-- A drain that is due goes before a cycle, and with nothing owed a cycle passes, on one core of each kind. -/
theorem witness_CyclesPass :
    let s : State := { p0 with agenda := [.tick] }
    let z : State := s.setCtx 0 0 { s.ctxAt 0 0 with frzUntil := 9 }
    (owed (drained 5)).find? (moves (drained 5)) = some (.event .phaseDrainEnd ⟨0, 0, 0, 0, false⟩) ∧
    (owed (drained 4)).find? (moves (drained 4)) = none ∧ (drained 4).gated = false ∧ (drained 4).agenda.head? = some .tick ∧
    (owed s).find? (moves s) = none ∧ (knownCores s).Nodup ∧ 0 ∈ knownCores s ∧ coreFrozen s 0 = false ∧
    (owed z).find? (moves z) = none ∧ coreFrozen z 0 = true := by decide +kernel

theorem witness_StepRunsEvents :
    ({ State.reset with agenda := [.event .clockStepUp ⟨0, 0, 0, 0, false⟩] } : State).agenda.head? =
      some (.event .clockStepUp ⟨0, 0, 0, 0, false⟩) ∧
    ({ State.reset with agenda := [.request .gpool ⟨0, 0, 0, 0, false⟩ (RF.ofWord 5)] } : State).agenda.head? =
      some (.request .gpool ⟨0, 0, 0, 0, false⟩ (RF.ofWord 5)) ∧
    State.reset.gated = false ∧ ({ State.reset with gated := true } : State).gated = true := by decide +kernel

/-! ## Witnesses: results -/

theorem witness_BitFieldResults :
    (1 ≤ (1 : BitVec 7).toNat ∧ (63 : BitVec 6).toNat + (1 : BitVec 7).toNat ≤ 64) ∧
    (1 ≤ (64 : BitVec 7).toNat ∧ (0 : BitVec 6).toNat + (64 : BitVec 7).toNat ≤ 64) := by decide

/-- With one result in flight to a register of each kind, and with none. -/
theorem witness_RegistersRead :
    flightS { k0 with inflight := [⟨.s 63 5, 3, 0, false, 0, 0, false, none⟩] } 63 = [5] ∧ flightS s0.me 63 = [] ∧ flightP s0.me 15 = [] ∧
    flightB s0.me 7 = [] ∧ flightLc s0.me 3 = [] ∧ flightV s0.me 31 = [] ∧ flightVp s0.me 7 = [] ∧ flightAcc s0.me 7 = [] ∧
    flightP { k0 with inflight := [⟨.p 15 true, 3, 0, false, 0, 0, false, none⟩] } 15 = [1] ∧
    flightB { k0 with inflight := [⟨.b 7 9, 3, 0, false, 0, 0, false, none⟩] } 7 = [9] ∧
    flightLc { k0 with inflight := [⟨.lc 3 9, 3, 0, false, 0, 0, false, none⟩] } 3 = [9] ∧
    flightAcc { k0 with inflight := [⟨.acc 7 9 1, 3, 0, false, 0, 0, false, none⟩] } 7 = [1] ∧
    flightV { k0 with inflight := [⟨.v 31 9, 3, 0, false, 0, 0, false, none⟩] } 31 = [9] ∧
    flightVp { k0 with inflight := [⟨.vp 7 9, 3, 0, false, 0, 0, false, none⟩] } 7 = [9] := by decide +kernel

theorem witness_VectorArithmeticResults : allPass s0
    [.vadd .i8 31 30 29 ⟨7, true⟩, .vsub .f64 31 30 29 ⟨0, false⟩, .vmul .bf16 1 2 3 ⟨0, false⟩, .vfma .f16 1 2 3 31 ⟨0, false⟩,
     .vfms .i16 1 2 3 31 ⟨0, false⟩, .vfnma .f32 1 2 3 31 ⟨0, false⟩, .vabs .i8 1 2 ⟨0, false⟩, .vneg .f32 1 2 ⟨0, false⟩,
     .vmin .i8 true 1 2 3 ⟨0, false⟩, .vmax .f32 false 1 2 3 ⟨0, false⟩, .vaddsat .i8 true 1 2 3 ⟨0, false⟩,
     .vsubsat .i32 false 1 2 3 ⟨0, false⟩, .vmulh .i16 true 1 2 3 ⟨0, false⟩, .vrcp .f32 1 2 ⟨0, false⟩, .vrsq .f16 1 2 ⟨0, false⟩,
     .vexp2 .bf16 1 2 ⟨0, false⟩, .vlog2 .f32 1 2 ⟨0, false⟩, .vtanh .f32 1 2 ⟨0, false⟩, .vsigm .f32 1 2 ⟨0, false⟩,
     .vsqrt .f64 1 2 ⟨0, false⟩, .vdiv .f64 1 2 3 ⟨0, false⟩, .vand .i8 1 2 3 ⟨0, false⟩, .vor .i8 1 2 3 ⟨0, false⟩,
     .vxor .i8 1 2 3 ⟨0, false⟩, .vnot .i8 1 2 ⟨0, false⟩] = true := by decide +kernel

theorem witness_VectorMovementResults : allPass s0
    [.vshl .i8 31 30 (.imm 63) ⟨7, true⟩, .vshr .i32 1 2 (.reg 31) ⟨0, false⟩, .vsar .i16 1 2 (.imm 0) ⟨0, false⟩,
     .vsel .f16 1 2 3 7 ⟨0, false⟩, .vmov .i8 1 2 ⟨0, false⟩, .vbcast .f64 1 63 ⟨0, false⟩, .viota .i8 1 63 ⟨0, false⟩,
     .vperm .i8 1 2 3 31 ⟨0, false⟩, .vshuf .f32 .ziplo 1 2 3 ⟨0, false⟩, .vshuf .f32 .ziphi 1 2 3 ⟨0, false⟩,
     .vshuf .i8 .unzeven 1 2 3 ⟨0, false⟩, .vshuf .i8 .unzodd 1 2 3 ⟨0, false⟩, .vrot .i8 1 2 (.imm 511) ⟨0, false⟩,
     .vextr .i8 true 63 31 (.imm 511), .vinsr .f64 31 63 (.imm 63)] = true := by decide +kernel

theorem witness_VectorPredicateResults : allPass s0 [.vcmp .gt .f32 false 7 30 31 ⟨7, true⟩, .vcmp .lt .i8 true 7 30 31 ⟨0, false⟩] = true := by
  decide +kernel

theorem witness_VectorConversionResults : allPass s0
    [.vcvt .i8 .f64 true false .rna 7 31 30 ⟨7, true⟩, .vcvt .f64 .i8 false false .rne 7 31 30 ⟨0, false⟩,
     .vqnt .i8 .f64 7 28 29 30 31 ⟨0, false⟩, .vdqnt .f64 .i8 7 28 29 30 31 ⟨0, false⟩] = true := by decide +kernel

theorem witness_VectorReductionResults : allPass s0
    [.vrsum .f64 false 31 30 7, .vrsum .i8 true 31 30 7, .vdot .bf16 false 29 30 31 0, .vdot .i8 true 29 30 31 0,
     .vrmax .i8 true 1 2 0, .vrmin .f32 false 1 2 0, .vargmax .f16 false 1 2 0, .vscan .i32 1 2 0, .vscan .f32 31 30 7,
     .vscan .bf16 1 2 0, .vtopk .i8 true 8 31 30 29 7,
     .vfromacc .f32 31 7 31 ⟨7, true⟩, .vtoacc .i32 7 31 31 ⟨0, false⟩] = true ∧
    floatTy .f64 = true ∧ floatTy .i8 = false := by decide +kernel

theorem witness_GuardedLanes : 511 < 512 / VTy.i8.bytes ∧ 0 < 512 / VTy.f64.bytes := by decide

/-! ## Witnesses: memory -/

/-- A window of four rows of 1 KiB in the scratchpad aperture. -/
def win0 : Window := ⟨true, 0, 1024, 1024, 8, 0x1FFFFFF00000000, 4, 0⟩
/-- A context with addresses in its registers, a window, all lanes active under vp1, 8 MiB of scratchpad, a live generation 5, and
poison in the copy that generation 6 holds. -/
def m0 : State :=
  let s : State := ({ s0 with poolFrames := 4 }).setGrove 0 { s0.groveAt 0 with size := 0x800000 }
  let s := (s.setGen 5 { s.genAt 5 with st := .live, cut := 3 }).setGen 6 { s.genAt 6 with st := .live, cut := 4 }
  let s := withRegs s fun n => match n with
    | 1 => 0x1FFFFFF00000000 | 2 => 0x100 | 3 => 64 | 4 => 1 | 5 => 0x100000001 | 9 => 5 | 10 => 6 | _ => 0
  s.setMe { s.me with windows := s.me.windows.set 3 win0, vp := s.me.vp.set 1 (BitVec.allOnes 512) }
/-- The same with block 4 of device memory poisoned. -/
def m1 : State := { m0 with poison := [(8, 10 * 65536 + 1)] }

/-- m0 without generations, whose vp3 has one active byte; and the same in a staged task. -/
def m2 : State := { m0.setMe { m0.me with vp := m0.me.vp.set 3 1 } with gens := [] }
def m3 : State :=
  let s := withRegs s1 fun n => match n with | 2 => 0x100 | 3 => 64 | 6 => 5 | _ => 0
  { s with insts := [(7, { inst0 with img := { img0 with types := [{ ty0 with staged := true }] } })] }

theorem witness_ScalarLoadsAndStoresIssue :
    allPass m0 [.ld .b true 5 2 0x10 1023, .st .d 5 2 8, .ldfe .c .w true 5 1 0 1, .ldfe .w .d false 5 1 0x10 1023,
      .stfe .f .b 5 1 0, .stfe .e .d 5 1 0x20, .stfe .wf .w 5 1 0, .ldg .d false 5 2 9 0 1023] = true ∧
    (let u := (m0.passes (.stfe .wf .w 5 1 0)).getD m0
     [Want.write 0 4].filter (fun w => !tst u.me.wfDone (wfBit u.slot w.idx)) ≠ []) ∧
    (let s := m0.setMe { m0.me with wfDone := BitVec.allOnes 64 }
     let u := (s.passes (.stfe .wf .w 5 1 0)).getD m0
     (s.passes (.stfe .wf .w 5 1 0)).isSome ∧ [Want.write 0 4].filter (fun w => !tst u.me.wfDone (wfBit u.slot w.idx)) = []) ∧
    (1023 : BitVec 10) ≠ 0 ∧ (match resolve m0 0x100 8 true false with | .ok (.dev pa) => pa == 0x100 | _ => false) = true ∧
    genPoison m0 5 0x100 = none ∧
    allPass m1 [.ldg .d false 5 2 9 0 1] = true ∧ genPoison m1 5 0x100 = some (10, 1) := by decide +kernel

theorem witness_AtomicsAndBarriersIssue : m3.checked = false ∧ m3.staged = true ∧ allPass m0
    [.aadd 5 2 6 ⟨.ar, .system, .d, 8, 5⟩, .amin 5 2 6 ⟨.rlx, .grove, .b, 1, 1023⟩, .amax 5 2 6 ⟨.acq, .grove, .h, 2, 5⟩,
     .aminn 5 2 6 ⟨.rlx, .grove, .w, 4, 5⟩, .amaxn 5 2 6 ⟨.rlx, .grove, .d, 8, 5⟩, .aand 0 2 6 ⟨.rlx, .grove, .d, 8, 0⟩,
     .aor 5 2 6 ⟨.rlx, .grove, .d, 8, 5⟩, .axor 5 2 6 ⟨.rlx, .grove, .d, 8, 5⟩, .axchg 5 2 6 ⟨.rlx, .grove, .d, 8, 5⟩,
     .acas 5 2 6 ⟨.rlx, .grove, .d, 8, 5⟩, .afadd 5 2 6 ⟨.rlx, .grove, .w, 8, 5⟩, .red .fadd 2 6 ⟨.rel, .grove, .w, 0, 0⟩,
     .arrive .package 5 2 0 9, .waitb .grove 5 2 6 16 9, .waitbTry .system 5 2 6 16 9, .binit .grove 2 5 0, .fence .system] = true := by
  decide +kernel

/-- With every lane active under vp1 and none under vp2. -/
theorem witness_VectorMemoryIssues :
    allPass m0 [.vld .f32 31 ⟨2, 0, 1023⟩ ⟨1, false⟩, .vst .i8 31 ⟨2, 0, 1⟩ 1, .vldfe .c .f32 1 ⟨1, 0, 9⟩ ⟨1, false⟩,
      .vstfe .f .f32 1 ⟨1, 0, 9⟩ 1, .vstfe .wf .f32 1 ⟨1, 0, 9⟩ 1, .vldw .f32 1 3 ⟨4, 0, 9⟩ ⟨1, true⟩,
      .vlds .f64 1 3 ⟨2, 0, 9⟩ ⟨1, true⟩, .vsts .f32 1 3 ⟨2, 0, 9⟩ 1, .vldx .f32 1 2 ⟨2, 0, 9⟩ ⟨1, true⟩,
      .vld .f32 1 ⟨2, 0, 1⟩ ⟨2, true⟩, .vst .f32 1 ⟨2, 0, 1⟩ 2] = true ∧
    ((List.range 512).all fun i => !laneOn 1 (m0.rvp 2) i) = true ∧ laneOn 1 (m0.rvp 1) 0 = true := by decide +kernel

/-- The state after an operation of context 0 has issued, its event naming the access at a position. -/
def after1 (s : State) (i : Instr) : State := { good (exec i s) with ev := ⟨0, 0, 0, 0, false⟩ }
/-- Whether the event's context may perform its only access, which is of one piece. -/
def canPerform (s : State) (f : Acc → Piece → Bool) : Bool :=
  match eligible s.atEv s.ev.d with
  | some a => match a.pieces with
    | [p] => p.idx = s.ev.c && !pieceWaits s.atEv a p && f a p
    | _ => false
  | none => false

/-- Whether the event's context may perform the piece that the event names of the access that it names. -/
def canPart (s : State) (f : Acc → Piece → Bool) : Bool :=
  match eligible s.atEv s.ev.d with
  | some a => match a.pieces.find? fun q => q.idx = s.ev.c with
    | some p => !pieceWaits s.atEv a p && f a p
    | none => false
  | none => false
/-- A load of device memory, a qualified load of a full granule and of an empty one, and an LDG of a good and of a poisoned version. -/
theorem witness_LoadDataArrives :
    canPerform (after1 m0 (.ld .d false 5 2 0 9)) (fun a p => (match a.op with | .load _ none _ => true | _ => false) &&
      (match p.pl with | .dev _ => true | _ => false) && (poisonOf m0 p.pl).isNone && m0.myCore.cyc < a.bound) = true ∧
    (∀ x ∈ [true, false], canPerform (after1 (m0.setGrove 0 { m0.groveAt 0 with fe := if x then 1 else 0 }) (.ldfe .c .w false 5 1 0 9))
      (fun a p => (match a.op with | .load _ (some _) _ => true | _ => false) && (match p.pl with | .spad .. => true | _ => false) &&
        (poisonOf m0 p.pl).isNone && isFull (m0.setGrove 0 { m0.groveAt 0 with fe := if x then 1 else 0 }) p.pl = x) = true) ∧
    m0.discards = false ∧ taskPoison m0 (.dev 0x100) 8 = none ∧
    canPerform (after1 m0 (.ldg .d false 5 2 9 0 9)) (fun a p => (match a.op with | .ldg _ _ 0 _ => true | _ => false) &&
      (poisonOf m0 p.pl).isNone && m0.myCore.cyc < a.bound && (genPoison m0 5 p.pl.addr).isNone) = true ∧
    canPerform (after1 m1 (.ldg .d false 5 2 9 0 1)) (fun a _ => match a.op with | .ldg _ _ n _ => n ≠ 0 | _ => false) = true := by
  decide +kernel

/-- A granule of a register of which others are still to come, the last granule of one, and one of scratchpad that is full. -/
theorem witness_LoadDataArrives_vector :
    canPart (after1 m2 (.vld .f32 31 ⟨2, 0, 9⟩ ⟨1, false⟩)) (fun a p => (match a.op with | .vload none .. => true | _ => false) &&
      (a.pieces.filter fun q => q.idx ≠ p.idx).length = 31 && p.idx * p.len + p.len ≤ 512 &&
      (taskPoison m2 p.pl p.len).isNone) = true ∧
    canPart (after1 m2 (.vld .i8 31 ⟨2, 0, 9⟩ ⟨3, true⟩)) (fun a p => (a.pieces.filter fun q => q.idx ≠ p.idx) = [] &&
      !lostPart m2 a && m2.myCore.cyc < a.bound) = true ∧
    (let s := m2.setGrove 0 { m2.groveAt 0 with fe := 1 }
     canPart (after1 s (.vldfe .c .i8 31 ⟨1, 0, 9⟩ ⟨3, true⟩)) (fun a p => (match a.op, p.pl with
       | .vload (some .c) .., .spad .. => true | _, _ => false) && isFull s p.pl) = true) ∧ m2.discards = false := by decide +kernel

theorem leaseHit_empty (s : State) (p : Place) (h : s.myGrove.leased = []) : leaseHit s p = none := by
  cases p <;> simp [leaseHit, h]
/-- Without a line in the leased cache none serves a load. -/
theorem witness_LoadDataArrives_unleased (p : Place) :
    leaseHit (after1 m0 (.ld .d false 5 2 0 9)).atEv p = none ∧ leaseHit (after1 m2 (.vld .f32 31 ⟨2, 0, 9⟩ ⟨1, false⟩)).atEv p = none :=
  ⟨leaseHit_empty _ _ (by decide +kernel), leaseHit_empty _ _ (by decide +kernel)⟩

/-- A line that serves a load where the device's cache still holds it. -/
theorem witness_LoadDataArrives_leased :
    let e : Lease := ⟨2, 0, 5, 0, 9⟩
    let s : State := (after1 (m0.setGrove 0 { m0.groveAt 0 with leased := [e] }) (.ld .d false 5 2 0 9)).atEv
    leaseHit s (.dev 0x100) = if s.free (s.slotKey 7100) % 2 = 0 then none else some e := by
  intro e s
  have h : (s.myGrove.leased.find? fun e => e.line = 0x100 / 128 && e.wts ≤ s.me.lts.toNat && s.me.lts.toNat ≤ e.rts &&
    s.time.toNat < e.since + leaseLife) = some e := by decide +kernel
  simp only [leaseHit, h]

/-- A store at once, and one whose granule a generation still holds; in a staged task too. -/
theorem witness_StoresPerform :
    (let s : State := { m0 with gens := [] }
     canPerform (after1 s (.st .d 5 2 0)) (fun a p => (match a.op with | .store none _ => true | _ => false) &&
       (match p.pl with | .dev _ => true | _ => false) && !pieceCopies s a p) = true ∧ s.staged = false) ∧
    canPerform (after1 m0 (.st .d 5 2 0)) (fun a p => (match a.op with | .store none _ => true | _ => false) &&
       (match p.pl with | .dev _ => decide (0 < p.len) | _ => false) && pieceCopies m0 a p) = true ∧
    canPerform (after1 m3 (.st .d 5 2 0)) (fun a p => (match a.op, p.pl with | .store none _, .dev _ => true | _, _ => false) &&
       !pieceCopies m3 a p) = true ∧ m3.staged = true ∧ m3.me.task = some 0 ∧ m3.discards = false ∧
    (∀ x ∈ [true, false], let s := m2.setGrove 0 { m2.groveAt 0 with fe := if x then 1 else 0 }
      canPerform (after1 s (.stfe .f .d 5 1 0)) (fun a p => (match a.op, p.pl with
        | .store (some .f) _, .spad _ o => decide (o < 8388608) | _, _ => false) && isFull s p.pl = x && !pieceCopies s a p) = true) ∧
    m2.discards = false := by decide +kernel

/-- A granule of a vector store among others, the last one, and one of scratchpad. -/
theorem witness_StoresPerform_vector :
    canPart (after1 m2 (.vst .f32 31 ⟨2, 0, 1⟩ 1)) (fun a p => (match a.op with | .vstore none .. => true | _ => false) &&
      (a.pieces.filter fun q => q.idx ≠ p.idx).length = 31 && !pieceCopies m2 a p && !m2.tentative p.pl) = true ∧
    canPart (after1 m2 (.vst .i8 31 ⟨2, 0, 1⟩ 3)) (fun a p => (a.pieces.filter fun q => q.idx ≠ p.idx) = []) = true ∧
    canPart (after1 m2 (.vstfe .e .i8 31 ⟨1, 0, 1⟩ 3)) (fun a p => match a.op, p.pl with
      | .vstore (some .e) .., .spad _ o => decide (o < 8388608) | _, _ => false) = true ∧
    (let s := m2.setGrove 0 { m2.groveAt 0 with fe := 1 }
     isFull s (.spad 0 0) = true ∧ isFull m2 (.spad 0 0) = false) ∧ m2.discards = false := by decide +kernel

theorem witness_AtomicsPerform :
    let s : State := { m0 with gens := [] }
    canPerform (after1 s (.acas 5 2 6 ⟨.rel, .grove, .d, 8, 1⟩)) (fun a p =>
      (match a.op with | .atomic _ o sc _ _ (some _) _ => !relOrd o || releaseReady s a.ord sc | _ => false) &&
      (match p.pl with | .dev _ => true | _ => false) && !pieceCopies s a p && (poisonOf s p.pl).isNone &&
      !s.staged && s.myCore.cyc < a.bound) = true ∧ s.discards = false ∧ (rmw .cas 8 0 0 7).isSome ∧ s.staged = false ∧
    canPerform (after1 s (.red .maxn 2 6 ⟨.rlx, .grove, .d, 0, 0⟩)) (fun a p =>
      (match a.op with | .atomic _ _ _ _ _ none true => true | _ => false) && (redWindow s p.pl).isNone) = true := by decide +kernel

/-- A RED in a reduction window, whose switches hold none. -/
theorem witness_AtomicsPerform_contribution :
    let w : RedWin := ⟨m2.chip, 0, 65536, 1, 64, []⟩
    let s : State := { m2 with redWins := [(3, w)] }
    canPerform (after1 s (.red .maxn 2 6 ⟨.rlx, .grove, .d, 0, 0⟩)) (fun a p =>
      (match a.op with | .atomic _ o _ _ _ none _ => !relOrd o | _ => false) && redWindow s p.pl = some 3 && !pieceCopies s a p &&
      (poisonOf s p.pl).isNone) = true ∧ Map.get? s.redWins 3 = some w := by decide +kernel

/-- Each operation on a barrier object of zeros; a WAITB of the phase that is under way and of one that is over. -/
theorem witness_AtomicsPerform_barrier :
    ([Instr.arrive .grove 5 2 0 9, .waitb .grove 5 2 6 0 9, .waitbTry .grove 5 2 6 0 9, .binit .grove 2 5 0].all fun i =>
      canPerform (after1 m2 i) fun a p => p.len = 16 && !pieceCopies m2 a p && (poisonOf m2 p.pl).isNone && !m2.tentative p.pl &&
        (match a.op with
         | .arrive sc _ => releaseReady m2 a.ord sc && decide (m2.myCore.cyc < a.bound)
         | .waitb _ q _ | .waitbTry _ q _ => q = 0 && decide (m2.myCore.cyc < a.bound)
         | .binit .. => true
         | _ => false)) = true ∧ m2.discards = false ∧
    (let ahead (q : W32) : Bool := 1 ≤ (0 + 2 ^ 32 - q.toNat) % 2 ^ 32 && (0 + 2 ^ 32 - q.toNat) % 2 ^ 32 < 2 ^ 31
     ahead 0 = false ∧ ahead 0xFFFFFFFF = true ∧ ahead 0x80000001 = true ∧ ahead 0x80000000 = false) := by decide +kernel

/-! ## Witnesses: sequencing, causes, system registers and requests -/

theorem witness_NopsAndTransfers :
    ({ k0 with target := some 9 } : Ctx).delay = 0 ∧ ({ k0 with target := some 9 } : Ctx).target = some 9 ∧
    0 < ({ k0 with delay := 1 } : Ctx).delay ∧ k0.target = none := by decide +kernel

theorem witness_RunsEnd :
    s1.me.task = some 0 ∧ (s1.task? 0).isSome ∧ s1.me.saving = false ∧ s1.me.gang = false ∧ s1.me.ywJob = none ∧
    ({ k0 with ywJob := some 3 } : Ctx).ywJob.isSome ∧ (s1.setMe { s1.me with gang := true }).me.gang = true ∧
    groveOf 0 = (s1.setMe { s1.me with gang := true }).g := by decide +kernel

/-- A resident object of the partition, of one tile of 64 by 64. -/
def obj0 : Obj :=
  { wh := .resident 0 0, ldk := 6, ldv := 6, tiles := 1, half := false, live := [0], snaps := [], nextSel := 1, pins := 0
    decl := 1, lastUse := 0, waiters := [], roomFor := [], res := false, held := 0, extra := 0, part := 0 }
/-- The gang of grove 0 in its context 0. -/
def gang1 : State := (List.range 8).foldl (fun (s : State) (c : Nat) => s.setCtx c 0 { s1.me with gang := true }) s1

/-- A cause of class 3 in a context whose transfer is due, and in one of a gang. -/
theorem witness_TrapsRecord :
    ([s1.setMe { s1.me with target := some 2 }, gang1].all fun s =>
      let t : Trap := ⟨5, 3, 0x40, 9, 0, 0, 0⟩
      let u := s.setMe { s.me with err := some t }
      let cs := mates u s.core s.ctx
      let v := cs.foldl (fun (v : State) (c : Nat) => endRun (v.setCtx c s.ctx (transferNow (v.ctxAt c s.ctx))) c s.ctx) u
      t.cls != 14 && (cs.all fun c => c == s.core || !hasCause (s.ctxAt c s.ctx)) && (drainAll v s.ctx cs).isSome) = true ∧
    (mates gang1 0 0).length = 8 := by decide +kernel

/-- A page that a live pager serves, one whose pager is no more, and one of no region; objects in the tier, resident elsewhere and free to
move, and pinned there; and room that has come free. -/
theorem witness_CausesParkRetryOrFail_absent :
    let t : Trap := ⟨7, 7, 1, 9, 0x3008, 0, 0⟩
    let g (i : Nat) : PagerRegion := ⟨ctxAsid s1 0 0, 0x3000, 0x1000, i, 0, 0⟩
    let find (s : State) : Option PagerRegion := s.regions.find? fun g => g.asid = ctxAsid s 0 0 && g.base ≤ t.va && t.va < g.base + g.len
    let away (w : Where) (p : Nat) : State := { s1 with objs := [(0x40, { obj0 with wh := w, pins := p })] }
    t.cls = 7 ∧ t.code ≠ 3 ∧ t.step ≠ 0 ∧ (find { s1 with regions := [g 7] }).map (·.inst) = some 7 ∧ alive s1 7 = true ∧
    (find { s1 with regions := [g 6] }).map (·.inst) = some 6 ∧ alive s1 6 = false ∧ find s1 = none ∧
    ([away (.tier s1.chip) 0, away (.resident s1.chip 3) 0, away (.resident s1.chip 3) 1].all fun s =>
      (s.obj? 0x40).any fun o => decide (o.wh ≠ .resident s.chip (groveOf 0))) = true ∧
    absentCode (away (.resident s1.chip 0) 0) 0x40 (groveOf 0) = none := by decide +kernel

/-- A context without a task; one with a job's fault; a staged task with a retry left; and a cause that fails its task. -/
theorem witness_CausesParkRetryOrFail :
    let st := { s1 with insts := [(7, { inst0 with img := { img0 with types := [{ ty0 with staged := true }] } })] }
    let bad : Trap := ⟨0, 10, 1, 9, 0, 0, 0⟩
    (s0.ctxAt 0 0).task = none ∧ (s1.ctxAt 0 0).task = some 0 ∧ s1.task? 0 = some (task0 .running) ∧
    (⟨4, 7, 3, 9, 0, 0, 0⟩ : Trap).step ≠ 0 ∧ (⟨4, 7, 3, 9, 0, 0, 0⟩ : Trap).va = 0 ∧ (⟨4, 7, 3, 9, 8, 0, 0⟩ : Trap).va ≠ 0 ∧ bad.parks = false ∧ (st.ctxAt 0 0).task = some 0 ∧
    st.task? 0 = some (task0 .running) ∧ ((st.typeOf (task0 .running)).map (·.staged)).getD false = true ∧
    (task0 .running).retries < (st.groveAt (groveOf 0)).retry.toNat ∧ (⟨9, 9, 5, 0, 0, 0, 0⟩ : Trap).parks = false := by
  decide +kernel

/-- The service context of core 0. -/
def sv : State := { State.reset.setCtx 0 8 { Ctx.reset 0 8 with st := .running } with core := 0, ctx := 8 }

theorem witness_TrapsAndPhases :
    s0.checked = false ∧ allPass s1 [.tabort 0x7FFF, .phase 0, .phase 1] = true ∧ allPass sv [.halt] = true ∧
    s1.myInst = some inst0 ∧ allPass s0 [.phase 15] = true ∧ s0.myInst = none ∧ (s1.groveAt s1.g).drain = none ∧
    (let s := s1.setGrove 0 { s1.groveAt 0 with drain := some ⟨5, 0, 1, some 7⟩ }
     allPass s [.phase 1] = true ∧ (s.groveAt s.g).drain.isSome) := by
  decide +kernel

/-- A read and a write of registers by the service context, and a result for each system register in flight. -/
theorem witness_SystemRegisters :
    allPass sv [.rdsys 63 0x024, .wrsys 63 0x020] = true ∧ sv.me.gang = false ∧
    ([0x020, 0x021, 0x022, 0x023, 0x024, 0x008, 0x009, 0x00A, 0x010, 0x018, 0x019, 0x01A].all fun n =>
      match (⟨.sys n (BitVec.allOnes 64), 3, 0, false, 0, 0, false, none⟩ : Landing).wr with | .sys m _ => m = n | _ => false) =
      true := by decide +kernel

/-- A running task with its handle and addresses in its registers. -/
def r0 : State :=
  withRegs { s1 with objs := [(0x40, obj0)] } fun n => match n with
    | 1 => handleOf 0x40 0 | 2 => 0x100 | 3 => 5 | 9 => 0x1000 | 10 => 0x1000 | _ => 0

theorem witness_RequestsIssue : allPass r0
    [.spawn 5 60 1023, .spawnk 5 2 3 9, .snap 5 9, .tstat 5 2 9, .unwatch 5 2 9, .wstat 5 2 9, .gdrop 5 3 9, .gstat 5 3 9,
     .hnew 5 2 9, .hfree 5 1 9, .hpin 5 1 9, .hunpin 5 1 9, .hstat 5 1 9, .ckpt 5 2 3 9, .hmig 5 1 2 9, .pgready 5 2 3 9,
     .watch 5 2 0x40 9, .groll 5 3 9 9, .svc 5 2 1 9, .hsnap 5 1 9, .hroll 5 1 1 9, .havg 5 1 1 0 9] = true ∧
    allPass { r0 with checked := true } [.hfork 5 1 9] = true ∧
    (r0.ctxAt 0 8).st = .halted ∧ ((r0.setCtx 0 8 { Ctx.reset 0 8 with st := .running }).ctxAt 0 8).st ≠ .halted := by
  decide +kernel

/-! ## Witnesses: units -/

/-- A context that holds every operand slot, with shapes and a group of 32 in its parameter registers, bound to an object. -/
def u0 : State :=
  let s := r0.setMyCore { r0.myCore with slots := r0.myCore.slots.map fun o => { o with holder := some 0 } }
  s.setMe { s.me with
    mp := Vector.replicate 8 (1 <<< 22)
    fb := s.me.fb.set 3 ⟨.bound, handleOf 0x40 0, 0, 6, 6, false⟩ }

theorem witness_ParametersAndOperandSlots :
    allPass r0 [.mclaim 0xFFFF] = true ∧ allPass u0 [.mclaim 0x8001, .mrelease 0x8001, .mwait 0xFF] = true := by decide +kernel

theorem witness_MatrixOperationsQueue : allPass u0
    [.mzero 7, .mmaBf16 7 0 1 ⟨true, true, true⟩, .mmaF16 0 0 1 ⟨false, false, false⟩, .mmaF32 0 0 1 ⟨false, false, false⟩,
     .mmaF64 0 0 1 ⟨false, false, false⟩, .mmaI8 0 0 1 ⟨false, false, true⟩, .mmawI4 0 0 1 ⟨false, true, false⟩,
     .mmawE2m1 0 0 1 ⟨false, false, false⟩, .mgrpI4i8 0 0 1 ⟨false, false, true⟩ 1, .mgrpI8 0 0 1 ⟨false, false, true⟩ 0,
     .mscac 7 0 0 1 0, .mtrn 7 0 true, .maccadd .i32 7 0, .mcvtacc .f16 7 0] = true := by decide +kernel

/-- An MZERO queued on an idle unit, and one that has run. -/
theorem witness_MatrixUnitRuns :
    let s := good (exec (.mzero 7) u0)
    let o : MatOp := (s.coreAt 0).mq.getD 0 ⟨0, 0, .nop, 0, 0, false⟩
    let t : State := { s with ev := ⟨0, 0, 0, 0, false⟩ }
    let u := t.setCore 0 { t.coreAt 0 with cyc := 64, mrun := [(o, 0)] }
    (u.coreAt 0).mrun.any (fun q => matBefore q (o, 0)) = false ∧ coreFrozen s 0 = false ∧ (s.coreAt 0).mrun = [] ∧ (s.coreAt 0).mq.find? (matReady s 0) = some o ∧
    ((u.coreAt 0).mrun.all fun r => r.2 + (matCycles r.1.op r.1.pb).1 ≤ (u.coreAt 0).cyc) = true ∧
    (u.coreAt 0).mq.find? (matReady u 0) = some o ∧ coreFrozen u 0 = false ∧ (u.coreAt 0).mrun[u.ev.b]? = some (o, 0) ∧
    0 + (matCycles o.op o.pb).1 ≤ (u.coreAt 0).cyc ∧ (matTiles o.op).1 = some 7 := by decide +kernel

theorem witness_MatrixResults : (0 : Nat) < 64 ∧ (63 : Nat) < 64 ∧ (7 : Nat) < 8 ∧ (31 : Nat) < 32 := by decide

theorem witness_FastWeightOperationsIssue :
    allPass u0 [.fwread 3 7 63 31, .fwfade 3 31, .fwwrite true 3 29, .fwstep true true 3 7 63 28, .fwunbind 3, .fwwait 15,
      .fwbind 2 1 0] = true ∧
    allPass { u0 with checked := true } [.fwchunk false false 3 7 0 1 2 63 false, .fwbind 2 3 0] = true ∧
    (u0.me.fb[3]).st = .bound ∧ (lookHandle u0 u0.part (u0.rs 1)).isSome ∧ lookHandle u0 u0.part (u0.rs 3) = none ∧
    u0.myCore.engOps = [] := by decide +kernel

/-- FWREAD waiting on an idle engine, and under way. -/
theorem witness_EngineRuns :
    let s := good (exec (.fwread 3 7 0 0) u0)
    let o : EngOp := (s.coreAt 0).eq.getD 0 ⟨0, 0, .nop, 0, 0, 0, [], [], [], false, 0⟩
    edgeOpen { s with core := 0, ctx := o.x } o.ord = true ∧ s.ev.f = false ∧ (s.coreAt 0).erun = none ∧ (s.coreAt 0).eq = o :: [] ∧ engHandleOp o.op = false ∧ o.op = .fwread 3 7 0 0 ∧
    (lookHandle s (s.groveAt (groveOf 0)).part o.handle).isSome ∧ tileBad s obj0 [0] o.tile = false ∧
    (s.ctxAt 0 o.x).st ≠ .ending ∧
    ((good (exec (.fwchunk false false 3 7 0 1 2 63 false) { u0 with checked := true })).coreAt 0).eq.all (fun p =>
      !(engSlots p).isEmpty && (engSlots p).all fun n => !fillOut u0 0 p.x p.ord n) = true := by decide +kernel

/-- Ranges of device memory and of the scratchpad in a block of registers from s16. -/
def c0 : State :=
  let s := m0.setMyCore { m0.myCore with slots := m0.myCore.slots.map fun o => { o with holder := some 0 } }
  withRegs s fun n => match n with
    | 1 => 0x1000 | 2 => 0x2000 | 3 => 0x100 | 4 => 2 | 5 => handleOf 0x40 0
    | 16 => 0x4000 | 17 => 0x100 | 18 => 0x8000 | 19 => 0x100 | 20 => 0x100 | 21 => 0x40
    | 24 => 0x4000 | 25 => 0x100 | 26 => 0x400 | 27 => 8 | 28 => 0x1FFFFFF00000000 | 29 => 4 | 30 => 0
    | _ => 0

theorem witness_CopyEngineOperationsStart :
    allPass c0 [.cpy true ⟨false, 63⟩ 1 2 3, .cpy2d false ⟨false, 0⟩ 16, .gather true ⟨false, 1⟩ 16, .scatter ⟨false, 1⟩ 16,
      .rput ⟨false, 1⟩ 1 2 3, .rget true ⟨false, 1⟩ 1 2 3, .rsig ⟨false, 1⟩ .system .umax 1 2, .cflush ⟨false, 1⟩ 1 3,
      .cinv ⟨false, 1⟩ 1 3, .osfill ⟨false, 1⟩ 15 1 3, .cwait ⟨false, 0⟩, .wopen ⟨false, 1⟩ 0 24,
      .wadv ⟨false, 1⟩ 3 4, .wclose ⟨false, 1⟩ 3] = true ∧
    allPass { c0 with checked := true } [.wswrite ⟨false, 1⟩ 1 2 3, .mcast ⟨false, 1⟩ 15 1 3] = true ∧
    allPass { c0.setMe { c0.me with inst := some 7 } with insts := [(7, { inst0 with img := { img0 with ws := 1 } })] }
      [.wsfill ⟨false, 1⟩ 0 1] = true ∧
    allPass { c0 with objs := [(0x40, obj0)] } [.spin ⟨false, 1⟩ 5, .spout ⟨false, 1⟩ 5] = true := by decide +kernel

/-- An engine operation under way on an idle core's engine, on a small object with a snapshot: its sources and what it makes. -/
def eng (i : Instr) (srcs : List W64) (new : W64) : State :=
  let o : Obj := { obj0 with ldk := 3, ldv := 3, live := [1], snaps := [(1, [2])], nextSel := 2 }
  ({ u0 with objs := [(0x40, o)], ev := ⟨0, 0, 0, 0, false⟩ }).setCore 0
    { u0.coreAt 0 with erun := some (⟨0, 1, i, handleOf 0x40 0, 0, 3, [], [], srcs, true, new⟩, 0) }
/-- Whether the engine's operation ends. -/
def ends (s : State) : Bool := ((good (exec .fwOpComplete s)).coreAt 0).erun.isNone

/-- Each operation that writes state under way, and FWREAD of a tile with an uncorrectable error. -/
theorem witness_EngineRuns_completes :
    ([Instr.fwfade 3 31, .fwwrite true 3 29, .fwstep true true 3 7 63 28, .fwchunk false false 3 7 0 1 2 0 true, .fwread 3 7 0 0].all fun i =>
      let s := eng i [] 0
      match lookHandle s (s.groveAt (groveOf 0)).part (handleOf 0x40 0) with
      | some (b, us) => b.live = us && b.live.Nodup && decide ((0 + 1) * b.tileBytes ≤ 1024 * b.live.length) && !tileBad s b us 0 &&
          tileBad { s with badUnits := [1] } b us 0 && (s.ctxAt 0 0).st = .running && (s.ctxAt 0 0).err.isNone && ends s
      | none => false) = true ∧ selOf (handleOf 0x40 0) = 0 ∧
    (let a := eng (.hsnap 5 1 9) [] (handleOf 0x40 2)
     let b := eng (.hfork 5 1 9) [] (handleOf 0x41 0)
     (∀ s ∈ [a, b], (s.coreAt 0).erun.all (fun e => engLack s 0 e.1 = 0) = true ∧ ends s = true)) ∧
    (let s := eng (.hroll 5 1 1 9) [handleOf 0x40 1] 0
     (lookHandle s 0 (handleOf 0x40 1)).map (·.2) = some [2] ∧ (s.coreAt 0).erun.all (fun e => !rollWaits s 0 e.1) = true ∧
       s.badUnits = [] ∧ ends s = true) ∧
    (let s := eng (.havg 5 1 1 0 9) [handleOf 0x40 1] 0
     ([handleOf 0x40 1].map (lookHandle s 0)).all Option.isSome = true ∧ 256 ≤ 1024 * [1].length ∧ ends s = true) := by decide +kernel

/-- SPIN and SPOUT of an object here, elsewhere, pinned there, in the tier and on its way, with room and without; of a handle that names
nothing; and in a protected grove. -/
theorem witness_CopyEngineOperationsStart_moves :
    let at_ (w : Where) (p : Nat) : State := { c0 with objs := [(0x40, { obj0 with wh := w, pins := p })] }
    let room (s : State) : Bool := decide (chargeMoved s 0x40 + pinnedCharge s s.chip s.g ≤ 4096)
    let full (w : Where) : State := { at_ w 0 with objs := (at_ w 0).objs ++ [(0x41, { obj0 with live := List.replicate 4096 9, pins := 1 })] }
    ([at_ (.resident 0 0) 0, at_ (.resident 0 3) 0, at_ (.resident 0 3) 1, at_ (.tier 0) 0, at_ (.moving 0 0 0 1) 0, full (.resident 0 3),
      full (.tier 0), (at_ (.tier 0) 0).setGrove 0 { c0.groveAt 0 with prot := true }].all fun s =>
        allPass s [.spin ⟨false, 1⟩ 5, .spout ⟨false, 1⟩ 5] && (lookHandle s s.myGrove.part (s.rs 5)).isSome) = true ∧
    (([at_ (.resident 0 3) 0, at_ (.tier 0) 0].map room) = [true, true]) ∧ (([full (.resident 0 3), full (.tier 0)].map room) = [false, false]) ∧
    c0.chip = 0 ∧ c0.g = 0 ∧ c0.myGrove.prot = false ∧ handleSeen c0 (c0.rs 5) = false := by decide +kernel

/-! ## Witnesses: events -/

/-- Bytes of memory: the number x of n bytes at each address a. -/
def put (l : List (Nat × Nat × Nat)) : List (Nat × Byte) :=
  (l.flatMap fun (e : Nat × Nat × Nat) => (List.range e.2.1).map fun i => (e.1 + i, BitVec.ofNat 8 (e.2.2 / 256 ^ i))).filter
    fun (e : Nat × Byte) => e.2 ≠ 0
/-- An event's subjects. -/
def at_ (s : State) (a b c d : Nat) (f : Bool) : State := { s with ev := ⟨a, b, c, d, f⟩ }
/-- Whether the first request of context 0 can be answered. -/
def answerable (s : State) : Bool :=
  match s.me.reqs[0]? with
  | some r => edgeOpen s r.ord && reqReady s r && (answerOf s r).any fun p => p.1.myCore.cyc < r.bound
  | none => false

/-- TSTAT, an engine handle operation, an SVC of no known service, and each of the three services. -/
theorem witness_RequestsAreAnswered :
    ([Instr.tstat 5 2 1, .hsnap 5 1 9, .svc 5 2 0xABCD 9, .svc 5 2 1 9, .svc 5 2 2 9, .svc 5 2 3 9].all fun i =>
      answerable (good (exec i r0)).atEv) = true ∧
    engHandleOp (.hsnap 5 1 9) = true ∧ (List.range 4).map (fun n => serviceOf (.svc 5 2 (BitVec.ofNat 16 n) 9)) = [0, 1, 2, 3] := by
  decide +kernel

/-- A request of the context that acts, with its operands. -/
def rq (i : Instr) (x y : Nat) (blk : List W64) (d : Option (BitVec 512)) : Req := ⟨0, i, BitVec.ofNat 64 x, BitVec.ofNat 64 y, blk, 99, d, 0⟩
/-- Whether nothing holds a request. -/
def isFree (s : State) (r : Req) : Bool := !reqPending s r && !svcHeld s r
/-- The state that SPAWN's and SPAWNK's answers meet: the instance live, ended, and in a staged task; a record of no type. -/
theorem witness_RequestsAreAnswered_records :
    let o : Offer := mkOffer (spawnRank s1.core s1.ctx) inst0 7 (recOf [0, 0, 0, 0]) (setIndex inst0 s1.g) s1.depth s1.me.lts.toNat
    isFree s1 (rq (.spawn 5 60 9) 0 0 [0, 0, 0, 0] none) = true ∧ isFree s1 (rq (.spawnk 5 2 3 9) 0 8 [0, 0, 0, 0] none) = true ∧
    s1.me.inst = some 7 ∧ s1.inst? 7 = some inst0 ∧ inst0.ended = false ∧ (recOf [0, 0, 0, 0]).typ = 0 ∧ (recOf [0, 0, 0, 0]).rsv = 0 ∧
    1 ≤ (recOf [1, 0, 0, 0]).typ.toNat ∧ inst0.img.types = [ty0] ∧ m3.staged = true ∧ s1.staged = false ∧ s1.me.task = some 0 ∧
    (s1.task? 0).isSome ∧ offerRoom s1 o = true ∧ (s1.tasks.all fun e => !e.2.token) = true ∧
    offerRoom { s1 with tasks := (List.range 512).map fun n => (n, task0 .pending) } o = false ∧ s1.live? 8 = none := by decide +kernel

/-- Descriptors of 64 bytes at 0x1000 of the heap, which pass and which do not; a range outside the footprint; an entry, of another
instance and of none. -/
theorem witness_RequestsAreAnswered_watches :
    let d (b : Nat) : BitVec 512 := BitVec.ofNat 512 (b + (6 + 4 * 2 ^ 8 + 2 ^ 40) * 2 ^ 64 + 2 ^ 128)
    let w (n : Nat) : Watch := ⟨n, false, 0, 64, 0, false, 0, 0, [], 0, 0⟩
    let m := task0 .running
    isFree s1 (rq (.watch 5 2 0x40 9) 0 0 [] (some (d 0x1000))) = true ∧ isFree s1 (rq (.unwatch 5 2 9) 0 0 [] none) = true ∧
    watchDescBad (d 0x1000) 1 = none ∧ (watchDescBad (d 0x1008) 1).isSome ∧ s1.myTask = some m ∧
    watchRange s1 s1.asid 0 0x100000 0 0x1000 64 = some 0x1000 ∧ watchRange s1 s1.asid 0 0x100000 0 0x200000 64 = none ∧
    (m.regions.any fun g => g.base ≤ 0x1000 && 0x1000 + 64 ≤ g.base + g.len) = true ∧ freeWatch s1 s1.die = some 0 ∧
    s1.watches = [] ∧ Map.get? [(0, w 7), (1, w 6)] 1 = some (w 6) := by decide +kernel
theorem get?_all (w : Watch) (n : Nat) (l : List Nat) (h : n ∈ l) : Map.get? (l.map fun k => (k, w)) n = some w := by
  induction l with
  | nil => simp at h
  | cons a l ih =>
    by_cases e : a = n
    · simp [Map.get?, e]
    · simp [Map.get?, e, ih (by simpa [Ne.symm e] using h)]
/-- A watch table without a free entry. -/
theorem witness_RequestsAreAnswered_tableFull (w : Watch) :
    freeWatch { s1 with watches := (List.range 1024).map fun n => (n, w) } 0 = none := by
  simp only [freeWatch, List.find?_eq_none, List.mem_range]
  intro n hn
  simp [get?_all w n _ (List.mem_range.mpr hn)]

/-- HNEW of a shape that is too large and of one that fits; HFREE and HPIN of a handle of nothing, of an object, of its snapshot, of a
pinned one, of one on its way and of one in the tier, and of one that an engine operation names. -/
theorem witness_RequestsAreAnswered_handles :
    let o : Obj := { obj0 with snaps := [(1, [2])] }
    let at_ (o : Obj) : State := { r0 with objs := [(0x40, o)] }
    let h := (handleOf 0x40 0).toNat
    (∀ s ∈ [at_ o, at_ { o with pins := 1 }, at_ { o with pins := 255 }, at_ { o with wh := .tier 0 }, at_ { o with wh := .moving 0 0 0 1 }],
      (lookHandle s s.myGrove.part (handleOf 0x40 0)).isSome ∧ isFree s (rq (.hfree 5 1 9) h 0 [] none) = true ∧
        isFree s (rq (.hpin 5 1 9) h 0 [] none) = true ∧ objBusy s 0x40 = false) ∧
    selOf (handleOf 0x40 1) ≠ 0 ∧ (lookHandle (at_ o) 0 (handleOf 0x40 1)).isSome ∧ lookHandle (at_ o) 0 0 = none ∧
    (let s := eng (.hroll 5 1 1 9) [handleOf 0x40 1] 0
     objBusy s 0x40 = true ∧ isFree s (rq (.hfree 5 1 9) h 0 [] none) = true) ∧
    pinnedCharge (at_ o) 0 0 + charge (at_ o) 0x40 ≤ 3072 ∧ isFree r0 (rq (.hnew 5 2 9) 0x3300 0 [] none) = true ∧
    (bits (0x3300 : W64) 12 4).toNat = 3 ∧ (bits (0x3300 : W64) 8 4).toNat = 3 ∧ 1 ≤ freeCharge r0 r0.chip r0.g ∧
    (8 : Nat) < (bits (0x9900 : W64) 12 4).toNat := by decide +kernel

/-- An upcall that context 1 of core 0 waits for, of this instance and of another; services that are unknown, of a caller without CTL, and
allowed, with their buffers in the heap. -/
theorem witness_RequestsAreAnswered_services :
    let u : Upcall := ⟨3, 7, 0, 1, [.ctx 0 1], none⟩
    let s : State := { s1.setCtx 0 1 { k0 with st := .parked, wait := .token 3, task := some 0 } with upcalls := [u] }
    let v : State := { s1 with insts := [(7, { inst0 with desc := 4 * 2 ^ 64 })] }
    isFree s (rq (.pgready 5 2 3 9) 3 0 [] none) = true ∧ s.upcalls.find? (fun u => u.tok = 3) = some u ∧
    s.upcalls.find? (fun u => u.tok = 4) = none ∧ s.me.inst = some 7 ∧ (s.ctxAt 0 1).st = .parked ∧ (s.ctxAt 0 1).wait = .token 3 ∧
    (s.ctxAt 0 1).gang = false ∧ (s.task? 0).isSome ∧
    (s1.myInst.map fun i => qCtl i.desc) = some false ∧ (v.myInst.map fun i => qCtl i.desc) = some true ∧
    isFree v (rq (.svc 5 2 2 9) 0x1000 0 [] none) = true ∧ isFree v (rq (.svc 5 2 3 9) 0x1000 0 [] none) = true ∧
    isFree v (rq (.svc 5 2 4 9) 0 0 [] none) = true ∧
    (let w := meetOut v
     rangeWalks w 0x1000 4096 (fun a => (walkPoison w w.asid a).isSome) = false ∧ svcBuffer w 0x1000 4096 4096 true = some [(.dev 0x1000, 4096)] ∧
       bufBad w [(.dev 0x1000, 4096)] = false ∧ svcBuffer w 0x1000 56 1 false = some [(.dev 0x1000, 56)] ∧
       bufBad w [(.dev 0x1000, 56)] = false) := by decide +kernel

/-- Every generation taken; a pool that is full; room; a number that names none; a generation being cut, one that is live with a
target, and one that has drained nothing, part and all of it. -/
theorem witness_GenerationsRun :
    let full : State := { s0 with gens := (List.range 64).map fun n => (n, { s0.genAt n with st := GenSt.live }) }
    let cut := s0.setGen 63 { s0.genAt 63 with st := .cutting }
    let live : State := { s0.setGen 0 { s0.genAt 0 with st := .live } with targets := [(63, ⟨true, 0, 8192, 0, 8192, [], []⟩)] }
    let drain (n : Nat) : State := live.setGen 0 { live.genAt 0 with st := .draining, target := 63, done := n }
    gensTaken full = 64 ∧ gensTaken s0 < 64 ∧ poolCap s0 ≤ s0.copies.length ∧
    m0.copies.length < poolCap m0 ∧ gensTaken m0 < 64 ∧ genNamed s0 63 = none ∧ genNamed s0 64 = none ∧
    ((genNamed cut 63).map fun p => p.2.st) = some .cutting ∧ ((genNamed live 0).map fun p => p.2.st) = some .live ∧
    rollOut live 0 = false ∧ (63 : W64).toNat < 64 ∧ (Map.get? live.targets 63).isSome ∧ (cut.genAt 63).st = .cutting ∧
    ((drain 1).genAt 0).st = .draining ∧ (Map.get? (drain 1).targets ((drain 1).genAt 0).target).isSome ∧ 
    (scopeGrans (drain 1) ⟨true, 0, 8192, 0, 8192, [], []⟩)[((drain 1).genAt 0).done]? = some 1 ∧ spanWaits (drain 1) 4096 4096 = false ∧ (drain 1).ev.d = 0 ∧
    ckptAnswer live 0 64 = (live, Status.refused.word) ∧ ckptAnswer (drain 1) 0 63 = (drain 1, Status.busy.word) ∧
    (scopeGrans (drain 2) ⟨true, 0, 8192, 0, 8192, [], []⟩).length ≤ ((drain 2).genAt 0).done := by decide +kernel

/-- A context that waits past its landing cycle, and one that has waited 16,384 cycles in a freeze: for a full-empty load, a WAITB
and an SVC; and a task that has issued nothing for HANG cycles. -/
theorem witness_TimeoutsAndHangs :
    let late (s : State) : State := (s.setMyCore { s.myCore with cyc := 1023 }).setMe { s.me with frzSince := none }
    let long (s : State) : State := { (late s).setMe { (late s).me with frzSince := some 0 } with time := 16384 }
    let ld := late (good (exec (.ld .d false 5 2 0 1023) m0))
    let fe := long (good (exec (.ldfe .c .w false 5 1 0 9) m0))
    let wb := long (good (exec (.waitb .grove 5 2 6 16 9) m0))
    let sq := long (good (exec (.svc 5 2 9 9) r0))
    let hung : State := { s1 with time := 16777216 }
    lateCtx ld 0 0 = true ∧ (ld.ctxAt 0 0).frzSince = none ∧ (ld.ctxAt 0 0).gang = false ∧
    ((fe.coreAt 0).mrun = [] ∧ coreFrozen s1 0 = false) ∧ (lateAcc fe 0 0 feOp).isSome ∧ frozenLong fe (fe.ctxAt 0 0) = true ∧
    (lateAcc wb 0 0 fun o => match o with | .waitb .. => true | _ => false).isSome ∧
    ((sq.ctxAt 0 0).reqs.any fun r => (match r.op with | .svc .. => true | _ => false) && r.bound ≤ (sq.coreAt 0).cyc) = true ∧
    frozenLong sq (sq.ctxAt 0 0) = true ∧
    hung.task? 0 = some (task0 .running) ∧ idleSince (task0 .running) + (hung.groveAt 0).hang.toNat ≤ hung.time.toNat ∧
    (task0 .running).cores = [0] ∧ failing (hung.ctxAt 0 0) = false ∧ ((s1.setTask 0 (task0 .parked)).task? 0) = some (task0 .parked) ∧
    (let k (s : State) : State := s.setMe { s.me with err := some ⟨0, 13, 1, 0xFF, 0, 0, 0⟩ }
     let v (s : State) : State := endRun ((k s).setCtx 0 0 (transferNow ((k s).ctxAt 0 0))) 0 0
     let q : State := good (exec (.mzero 7) { u0 with time := 16777216 })
     (drainAll (v hung) 0 [0]).any (fun d => d.ctxAt 0 0 |>.task |>.bind d.task? |>.isSome) = true ∧
     drainAll (v q) 0 [0] = none ∧ ((k q).ctxAt 0 0).gang = false) := by decide +kernel

/-- A miss of a page that no table maps, of a page that a leaf of 4 KiB maps to be read, and of the same page to be written; and a
drain that has ended and one that has not. -/
theorem witness_WalksAndDrainsComplete :
    let wk (w : Walk) (s : State) : State := s.setCore 0 { s.coreAt 0 with walk := some w }
    let w : Walk := ⟨0, 0x2000, true, false, 9, 0⟩
    let s := wk w s1
    let e : TlbEntry := ⟨0, 0x2000, 12, 0, 0, 0x9000, true, false⟩
    let m : State := { s with roots := [(0, 0x10000)]
                              mem := (put [(0x10000, 4, 0x11001), (0x11000, 4, 0x12001), (0x12000, 4, 0x13001), (0x13000, 4, 0x14001),
                                (0x14010, 4, 0x9007)]).map fun e => ⟨e.1, e.2⟩ }
    let h := m.setGrove 0 { m.groveAt 0 with tlb := [e] }
    let two := m.setCore 1 { m.coreAt 1 with walk := some w }
    let wr : Walk := ⟨0, 0x2000, false, true, 9, 0⟩
    (s.coreAt 0).walk = some w ∧ groveHit s 0 w = none ∧ walkServed s 0 w = true ∧ walkHeld s 0 0x2000 = false ∧
    walk s 0 0x2000 = none ∧ dieWalks s 0 = [(0, w, 0, 2)] ∧ (s.ctxAt 0 0).st ≠ .ending ∧ (s.ctxAt 0 0).st ≠ .free ∧
    hasCause (s.ctxAt 0 0) = false ∧ groveHit h 0 w = some e ∧ groveHit m 0 w = none ∧ walkServed m 0 w = true ∧
    walkHeld m 0 0x2000 = false ∧ ((walk m 0 0x2000).map fun e => (e.allows w, e.allows wr)) = some (true, false) ∧
    walkPoison s 0 0x2000 = none ∧ walkPoison m 0 0x2000 = none ∧
    walkPoison { m with poison := [(2 * (0x11000 / 64), 10 * 65536 + 1)] } 0 0x2000 = some (10, 1) ∧ (dieWalks two 0).length = 2 ∧ walkServed two 1 w = true ∧
    ((drained 5).groveAt 0).drain = some ⟨5, 0, 1, some 7⟩ ∧ 5 ≤ (drained 5).time.toNat ∧ (drained 4).time.toNat < 5 := by
  decide +kernel

/-- A copy of 32 bytes from 0x1000 to 0x2000: its first granule still to be read, and read. -/
theorem witness_CopyGranules :
    let s := good (exec (.cpy false ⟨false, 0⟩ 1 2 3) (withRegs m0 fun n => match n with | 1 => 0x2000 | 2 => 0x1000 | 3 => 32 | _ => 0))
    let j := s.me.jobs.getD 0 ⟨0, 0, 0, .nop, [], 0, 0, none, [], false, 0, false, false, [], []⟩
    let t := good (exec .jobGranuleWrite (at_ s 0 0 0 0 true))
    let i := t.me.jobs.getD 0 j
    s.me.jobs = [j] ∧ j.op = .cpy false ⟨false, 0⟩ 1 2 3 ∧ j.tok = none ∧ j.moving = false ∧ j.read? 0 = none ∧ j.has 0 = false ∧
    j.dropped 0 = false ∧ 0 < j.count ∧ 0 < j.p + 256 ∧ jobBehind s.atEv j = false ∧ j.srcs (fun i => s.atEv.free (7300 + i)) 0 = [.mem 0x1000 16] ∧
    (jobLeads s.atEv 0x1000 16 false).toOption = some (.dev 0x1000) ∧ (jobLeads t 0x2000 16 true).toOption = some (.dev 0x2000) ∧
    s.atEv.discards = false ∧ jobPlace s.atEv (.dev 0x1000) 16 false = none ∧ poisonOf s (.dev 0x1000) = none ∧
    t.me.jobs = [i] ∧ (i.read? 0).isSome ∧ i.p = 0 ∧ i.dst 0 = .mem 0x2000 16 ∧ jobPlace t (.dev 0x2000) 16 true = none := by
  decide +kernel

/-- How the first access of the only job of context 0 comes out. -/
def jobTurns (s : State) (f : JobStep → Bool) : Bool :=
  match jobOutcome (at_ s 0 0 0 0 true) with
  | some (u, _, st) => f st && u.me.st = .running && !hasCause u.me
  | none => false
/-- How the first access of a copy from an address comes out. -/
def jobMeets (s : State) (src : W64) (f : JobStep → Bool) : Bool :=
  jobTurns (good (exec (.cpy false ⟨false, 0⟩ 1 2 3)
    (withRegs s fun n => match n with | 1 => 0x2000 | 2 => src | 3 => 32 | _ => 0))) f

/-- A copy whose source is unmapped, where a pager serves the page and where none does, poisoned, or in no grove's scratchpad; a gather
whose pool block, its entry read, lies outside the task's footprint; and a job with nothing left to do. -/
theorem witness_JobsEnd :
    jobMeets { m0 with checked := true } 0x200000 (fun st => match st with | .page .. => true | _ => false) = true ∧
    jobMeets { m0 with poison := [(128, 10 * 65536 + 1)] } 0x1000 (fun st => match st with | .bad _ 10 1 => true | _ => false) = true ∧
    jobTurns (good (exec .jobGranuleWrite (at_ (good (exec (.gather false ⟨false, 0⟩ 16)
      (withRegs (s1.setMe { s1.me with heapLimit := 0x400000 }) fun n => match n with
        | 16 => 0x4000 | 17 => 0x2000 | 18 => 0x200000 | 19 => 16 | 21 => 16 | _ => 0))) 0 0 0 0 true)))
      (fun st => match st with | .foot _ => true | _ => false) = true ∧
    jobMeets { m0 with checked := true } 0x1FFFFFF7F000000 (fun st => match st with | .fail _ => true | _ => false) = true ∧
    (upcall { s1 with regions := [⟨0, 0x200000, 4096, 7, 0, 0⟩] } 0 0x200000 1 0 1 (.job 0 0 0 0 1)).2.isSome ∧
    (upcall s1 0 0x200000 1 0 1 (.job 0 0 0 0 1)).2 = none ∧
    (let s := good (exec (.cpy false ⟨false, 0⟩ 1 2 3) (withRegs m0 fun _ => 0))
     (s.atEv.me.jobs[0]?.map (·.finished)) = some true) := by decide +kernel

/-- An instance with one record, accepted into an empty table; a shoot waiting to be accepted. -/
theorem witness_RecordsAndShootsAccepted :
    let r : Rec := ⟨0, 0, 0, 1, 2, 3, 4, 5⟩
    let s : State := { State.reset with insts := [(7, { inst0 with recs := [⟨0, r, 0, 0, 0⟩] })] }
    let w : Watch := ⟨7, false, 0, 4096, 0, false, 0, 0, [⟨0, 1, 1, 0, 0⟩], 0, 0⟩
    let t : State := { s with watches := [(1023, w)] }
    s.inst? 7 = some { inst0 with recs := [⟨0, r, 0, 0, 0⟩] } ∧ inTurn s 0 = true ∧ inTurn t 1 = true ∧ img0.types[0]? = some ty0 ∧
    offerRoom s (mkOffer 0 inst0 7 r 0 0 0) = true ∧ s.tasks = [] ∧ (Map.get? t.watches 1023).isSome ∧ w.pend[0]?.isSome ∧
    offerRoom t ⟨1, 7, shootRec w.desc 0 1, shootKey w.desc 0, 0, 1, 0⟩ = true ∧
    w.inst = 7 ∧ inst0.ended = false ∧ (w.pend[0]?.map fun p => offeredAfter t 1023 p) = some false := by decide +kernel

theorem witness_TasksAreDispatched :
    let s : State := { State.reset with insts := [(7, inst0)], tasks := [(0, { task0 .ready with cores := [] })] }
    (nextDispatch s 0).isSome ∧ s.task? 0 = some { task0 .ready with cores := [] } ∧ s.typeOf { task0 .ready with cores := [] } = some ty0 := by
  decide +kernel

/-- A task that has ended, with one byte written. -/
theorem witness_TasksCommit :
    let m : Task := { task0 .committing with tent := [(0x100, 1)] }
    let s := (s1.setTask 0 m).setMe { s1.me with st := .committing }
    (s.ctxAt 0 0).task = some 0 ∧ s.task? 0 = some m ∧ m.cores = [0] ∧ m.x = 0 ∧ ctxDone s 0 0 = true ∧
    failedAcc (s.ctxAt 0 0) Acc.dropped = none ∧ (s.ctxAt 0 0).saving = false ∧ commitWaits s m = false := by decide +kernel

/-- A gang on context 0 of grove 0 whose cores have all ended their interposed runs; and a context stopped at a safe point. -/
theorem witness_GangsResumeAndContextsSave :
    let g : State := (List.range 8).foldl (fun s c => s.setCtx c 0 { k0 with gang := true }) State.reset
    let g := g.setGrove 0 { g.groveAt 0 with gangs := [⟨0, true, []⟩] }
    let s := s1.setMe { s1.me with err := some ⟨0, 14, 0, 0xFF, 0, 0, 0⟩, safePt := some 0 }
    ((g.groveAt 0).gangs.any fun e => e.x = 0 && e.yielded && e.waiting.isEmpty) = true ∧
    ((List.range 8).all fun i => let k := g.ctxAt i 0
      k.gang && k.st = .running && k.err.isNone && k.ywJob.isNone && (g.coreAt i).current = none && !coreFrozen g i) = true ∧
    (s.ctxAt 0 0).gang = false ∧ (drainAll s 0 [0]).isSome ∧
    (let d := (drainAll s 0 [0]).getD s
     failedRead (d.ctxAt 0 0) = none ∧ quiet d 0 0 = true ∧ (d.ctxAt 0 0).task = some 0 ∧ (d.task? 0).isSome ∧
     (d.ctxAt 0 0).safePt = some 0 ∧ imageAt d 0 0 = some img0 ∧ img0.safes[0]? = some ⟨0, 1, 2, 48⟩) := by decide +kernel

/-- An object on its way to grove 1 with room there, one for whose raise there is room, and one whose room is reserved. -/
theorem witness_ObjectsMove :
    let s (o : Obj) : State := { State.reset with objs := [(0x40, o)] }
    let o1 : Obj := { obj0 with wh := .moving 0 0 0 1 }
    let o2 : Obj := { obj0 with roomFor := [⟨0, 0, 1, false⟩] }
    (s o1).obj? 0x40 = some o1 ∧ roomReady (s o1) 0x40 = true ∧ o2.roomFor[0]? = some ⟨0, 0, 1, false⟩ ∧
    usedCharge (s o2) 0 0 + waiterNeed (s o2) ⟨0, 0, 1, false⟩ ≤ 4096 ∧ ((0, 0) : Nat × Nat) ≠ (0, 1) ∧ moveReady (s { o1 with res := true }) 0x40 = true := by
  decide +kernel

/-! ## Witnesses: packets, registers, requests and the hardware's own events -/

/-- A descriptor: ring 0x20000 and completions 0x30000 of 4 entries, ASID 5, DEVENQ, GEN, CTL, version 2, a class, and more. -/
def desc0 (cls more : Nat) : BitVec 512 :=
  BitVec.ofNat 512 (0x20000 + 7 * 2 ^ 64 + 2 ^ 68 + 2 * 2 ^ 72 + 5 * 2 ^ 76 + cls * 2 ^ 96 + 2 * 2 ^ 104 + 2 * 2 ^ 112 +
    0x30000 * 2 ^ 128 + more)
/-- Queue 3 is active with ASID 5, whose first GiB one leaf maps to the first GiB of device memory; instance 7 is live. -/
def f0 (cells : List (Nat × Nat × Nat)) (d : BitVec 512) : State :=
  { State.reset with
    booted := true, roots := [(5, 0x10000)]
    mem := (put ([(0x10000, 4, 0x11001), (0x11000, 4, 0x12001), (0x12000, 4, 0x1FFFF01F)] ++ cells)).map fun e => ⟨e.1, e.2⟩
    insts := [(7, inst0)], watches := [(0, ⟨7, false, 0, 64, 0, false, 0, 0, [], 0, 0⟩)]
    ev := ⟨3, 0, 0, 0, false⟩
    queue := 3
    queues := [(3, { (State.reset.queueAt 3) with desc := d, st := .active, tail := 2 })] }
/-- A header without BARR and CPL. -/
def hd : PktHdr := ⟨1, false, false, 0⟩

/-- The conditions of NOP with and without HEADADDR, SIGNAL, WAITSIG either way, WRENQ to its own queue, and the three
control packets, with CTL and without; and of a packet held back by BARR. -/
theorem witness_PacketsStart :
    let s := f0 [] (desc0 0 0)
    let k := s.queueAt 3
    let busy : State := { s with queues := [(3, { k with started := [⟨0, .nopPacket hd, none⟩] })] }
    let noCtl := f0 [] (desc0 0 0 - 4 * 2 ^ 64)
    s.queue = 3 ∧ k.st = .active ∧ qHeadAddr k.desc = 0 ∧ qHeadAddr (desc0 0 (0x38000 * 2 ^ 192)) = 0x38000 ∧ k.held = [] ∧
    (feResolve s 5 0x38000 false true).toOption = some (.dev 0x38000) ∧ feWalks s 5 0x38000 8 = false ∧ feWalks s 5 0x30000 32 = false ∧
    walkHeld s 5 0x40000 = false ∧ feWalks s 5 0x40008 8 = false ∧ feWalks s 5 0x41000 8 = false ∧ feWriteHeld s 5 0x38000 8 = false ∧
    (feResolve s 5 0x30000 false true).toOption = some (.dev 0x30000) ∧ feWriteHeld s 5 0x30000 32 = false ∧
    qCpl k.desc + 32 * (k.ctail.toNat % 2 ^ qClog k.desc) = 0x30000 ∧ sigOf (.nopPacket { hd with cpl := true }) = 0 ∧
    s.redWins = [] ∧ (feResolve s 5 0x40000 true true).toOption = some (.dev 0x40000) ∧
    poisonOf s (.dev 0x40000) = none ∧ feSpoiled s (.dev 0x40000) = false ∧ placeWaits s (.dev 0x40000) = false ∧ placeHeld s (.dev 0x40000) = false ∧
    packetBlocked busy 3 (.nopPacket { hd with barr := true }) = true ∧
    ([Instr.nopPacket hd, .signal hd 0x40000 5 .system .add, .waitsig hd 0x40000 0 .system .geu,
      .waitsig hd 0x40000 1 .system .eq, .wrenq hd 0x40008 0x41000 8 3 2, .preempt hd 7, .restore hd 7, .endinst hd 7].all
      fun i => !packetBlocked s 3 i && isNext (exec i s) && !packetBlocked noCtl 3 i) = true ∧
    qDevenq k.desc = true ∧ payloadFault s 5 0x40008 0x41000 8 = none ∧ payloadHeld s 5 0x40008 0x41000 8 = false ∧
    (copyPayload (feWalked (feWalked s 5 0x40008 8) 5 0x41000 8) 5 0x40008 0x41000 8 (granCount 0x41000 8) 0).2 = true ∧
    0x40008 % 16 + 8 ≤ 16 ∧ s.live? 7 = some inst0 ∧ s.live? 8 = none ∧ qCtl k.desc = true ∧ instPart s 7 = qPart k.desc ∧
    inst0.noPre = false ∧ qClass inst0.desc ≠ 2 ∧ qCtl (noCtl.queueAt 3).desc = false ∧ s.tasks = [] ∧
    s.upcalls = [] := by decide +kernel

/-! A launch that is admitted: an image of one bundle, one code unit and one task type, of the sizes that R377 and R378 give. Its
digest stands where heartwood recorded it when it verified the image: no verdict on a signature can be evaluated here. -/

/-- The image at 0x50000, its launch block of zeros at 0x58000 and its one record of zeros at 0x59000. -/
def imageCells : List (Nat × Nat × Nat) :=
  [(0x50000, 4, 0x4B4C5A41), (0x50004, 2, 1), (0x50006, 2, 1), (0x5000C, 1, 1), (0x5000D, 1, 1), (0x50010, 2, 1), (0x50012, 2, 1),
   (0x50018, 1, 1)]
/-- The launch. -/
def launch0 : Instr := .launch hd 0x50000 0x59000 0 0x58000 0 0
/-- The queue that launches it, which waits with the launch fetched, before the image's digest is recorded. -/
def l0 : State :=
  let s := f0 imageCells (desc0 0 0)
  { s with queues := [(3, { s.queueAt 3 with fetched := some launch0, st := .waiting })] }
/-- The image's bytes. -/
def imageBytes : List Byte := (feRead l0 5 0x50000 4416).getD []
/-- The same with the digest recorded. -/
def l1 : State := { l0 with digests := [(imageKey 5 0x50000, Config.sha384 (imageBytes.take 960))] }

theorem feReadGo_digests (s : State) (m : Map (BitVec 384)) (asid n va len : Nat) :
    feReadGo { s with digests := m } asid n va len = feReadGo s asid n va len := by
  induction n generalizing va len with
  | zero => rfl
  | succ n ih =>
    show (if len = 0 then some [] else _) = if len = 0 then some [] else _
    simp only [ih]
    rfl

theorem imageBytes_ok : (feRead l0 5 0x50000 4416).isSome ∧ imageOk imageBytes = true := by decide +kernel
theorem image_read : (feRead l0 5 0x58000 64).isSome ∧ (feRead l0 5 0x50000 128).isSome ∧ (feRead l0 5 0x59000 32).isSome := by
  decide +kernel
/-- The same once heartwood has read the launch: the reads have taken their places in the memory order. -/
def l2 : State := feTouch (feTouch (feTouch l1 5 0x58000 64) 5 0x50000 4416) 5 0x59000 32
/-- Whether HEAD rises when the launch is admitted. -/
def admits (l : Launched) : Bool :=
  ((beginPacket (admitLaunch l2 3 hd 0 0 l).1 3 launch0 (some (admitLaunch l2 3 hd 0 0 l).2)).queueAt 3).head ≠
    (l1.queueAt 3).head

theorem image_launch :
    let b := (feRead l0 5 0x58000 64).getD []
    let h := (feRead l0 5 0x50000 128).getD []
    let r := (feRead l0 5 0x59000 32).getD []
    let m := imageRead imageBytes
    headerOk h = true ∧ (sectionsOf h).sign = 960 ∧ (sectionsOf imageBytes).sign = 960 ∧ Machine.blockOk b = true ∧
      imageBytes.length = 4416 ∧ r.length = 32 ∧ groupCode l2 3 m (numAt b 0x30 8) = none ∧ heapOk (numAt b 0 8) (numAt b 8 8) (numAt b 16 8) = true ∧
      recRefused m (recBytes (bytesAt r 0 32)) = false ∧ m.watches = [] ∧
      (admissible l2 3 ⟨m, BitVec.ofNat 64 (numAt b 0 8), BitVec.ofNat 64 (numAt b 8 8), BitVec.ofNat 64 (numAt b 16 8),
        numAt b 24 8, numAt b 32 8, numAt b 0x28 8, numAt b 0x30 8, [recBytes (bytesAt r 0 32)]⟩ &&
        admits ⟨m, BitVec.ofNat 64 (numAt b 0 8), BitVec.ofNat 64 (numAt b 8 8), BitVec.ofNat 64 (numAt b 16 8),
          numAt b 24 8, numAt b 32 8, numAt b 0x28 8, numAt b 0x30 8, [recBytes (bytesAt r 0 32)]⟩ && decide (qClass (l1.queueAt 3).desc ≠ 2) && !packetBlocked l1 3 launch0 &&
        decide (qHeadAddr (l1.queueAt 3).desc = 0)) =
        true := by decide +kernel

/-- A launch whose image is known is read and checked as its tests say (R405, R442). -/
theorem checkLaunch_known (s : State) (q : Nat) (hd : PktHdr) (img rc lblk sig : W64) (asid bva iva rva : Nat)
    (b h bs r : List Byte) (ha : asidOf (s.queueAt q).desc = asid) (e1 : lblk.toNat = bva) (e2 : img.toNat = iva) (e3 : rc.toNat = rva)
    (hb : feRead s asid bva 64 = some b)
    (hh : feRead s asid iva 128 = some h) (ho : headerOk h = true)
    (hn : feRead s asid iva ((sectionsOf h).sign + 3456) = some bs)
    (hr : feRead s asid rva 32 = some r) (hk : Machine.blockOk b = true) (hi : imageOk bs = true)
    (v : State) (hv : feTouch (feTouch (feTouch s asid bva 64) asid iva bs.length) asid rva r.length = v)
    (hd' : Map.get? v.digests (imageKey asid iva) = some (Config.sha384 (bs.take (sectionsOf bs).sign)))
    (hg : groupCode v q (imageRead bs) (numAt b 0x30 8) = none) (hp : heapOk (numAt b 0 8) (numAt b 8 8) (numAt b 16 8) = true)
    (hf : recRefused (imageRead bs) (recBytes (bytesAt r 0 32)) = false) (hw : (imageRead bs).watches = []) :
    checkLaunch s q (.launch hd img rc 0 lblk 0 sig) =
      (v, .ok ⟨imageRead bs, BitVec.ofNat 64 (numAt b 0 8), BitVec.ofNat 64 (numAt b 8 8), BitVec.ofNat 64 (numAt b 16 8),
        numAt b 24 8, numAt b 32 8, numAt b 0x28 8, numAt b 0x30 8, [recBytes (bytesAt r 0 32)]⟩) := by
  subst ha e1 e2 e3
  simp [checkLaunch, acceptImage, hb, hh, ho, hn, hr, hk, hi, hv, hd', hg, hp, hf, hw, List.range_succ]

theorem read_l1 (va n : Nat) (h : (feRead l0 5 va n).isSome) : feRead l1 5 va n = some ((feRead l0 5 va n).getD []) := by
  have e : feRead l1 5 va n = feRead l0 5 va n := feReadGo_digests l0 _ 5 _ va n
  rw [e]; cases hx : feRead l0 5 va n with
  | none => simp [hx] at h
  | some x => rfl

theorem outRead_digests (s : State) (p : Place) (n : Nat) : (outRead s p n).digests = s.digests := by
  simp only [outRead]
  generalize List.range (ceilDiv _ _) = l
  induction l generalizing s with
  | nil => rfl
  | cons a l h =>
    rw [List.foldl_cons, h]
    simp only [outTouch, touchPlace, loadLine, meetTs]
    split <;> (try split) <;> rfl
theorem sendTo_digests (s : State) (p : Place) : (sendTo s p).digests = s.digests := by
  simp only [sendTo, sendMessage]
  split <;> (try split) <;> rfl
theorem feTouch_digests (s : State) (asid va n : Nat) : (feTouch s asid va n).digests = s.digests := by
  unfold feTouch
  generalize pageParts va n = l
  induction l generalizing s with
  | nil => rfl
  | cons a l h => rw [List.foldl_cons, h]; split <;> simp [outRead_digests, sendTo_digests]
theorem launch_ready : (launchRanges l1 3 launch0).all (fun r => !feHeld l1 5 r.1 r.2) = true := by decide +kernel

theorem launch_checked :
    ∃ l, checkLaunch l1 3 launch0 = (l2, .ok l) ∧ admissible l2 3 l = true ∧ admits l = true ∧
      qClass (l1.queueAt 3).desc ≠ 2 ∧ packetBlocked l1 3 launch0 = false ∧ qHeadAddr (l1.queueAt 3).desc = 0 := by
  obtain ⟨h1, h2, h3, h4, n1, n2, h5, h6, h7, h8, h9⟩ := image_launch
  obtain ⟨r1, r2, r3⟩ := image_read
  simp only [Bool.and_eq_true, decide_eq_true_eq, Bool.not_eq_true'] at h9
  obtain ⟨⟨⟨⟨a1, a5⟩, a2⟩, a3⟩, a4⟩ := h9
  have ha : asidOf (l1.queueAt 3).desc = 5 := by decide +kernel
  refine ⟨_, checkLaunch_known l1 3 hd 0x50000 0x59000 0x58000 0 5 0x58000 0x50000 0x59000 _ _ imageBytes _ ha rfl rfl rfl
    (read_l1 0x58000 64 r1) (read_l1 0x50000 128 r2) h1 ?_ (read_l1 0x59000 32 r3) h4 imageBytes_ok.2 l2 ?_ ?_ h5 h6 h7 h8,
    a1, a5, a2, a3, a4⟩
  · rw [h2]; exact read_l1 0x50000 4416 imageBytes_ok.1
  · rw [n1, n2]; rfl
  · rw [h3, l2, feTouch_digests, feTouch_digests, feTouch_digests]; rfl

/-- A launch that is admitted, from the queue where it waited. -/
theorem witness_PacketsStart_launch :
    ∃ l, checkLaunch l1 3 launch0 = (l2, .ok l) ∧ admissible l2 3 l = true ∧ qClass (l1.queueAt 3).desc ≠ 2 ∧
      packetBlocked l1 3 launch0 = false ∧ l1.queue = 3 ∧ (l1.queueAt 3).st = .waiting ∧ qHeadAddr (l1.queueAt 3).desc = 0 ∧
      (launchRanges l1 3 launch0).all (fun r => !feHeld l1 5 r.1 r.2) = true := by
  obtain ⟨l, h, a, -, c, b, d⟩ := launch_checked
  exact ⟨l, h, a, c, b, rfl, by decide +kernel, d, launch_ready⟩

theorem fetched_other (s : State) (q k : Nat) (x : Queue) (h : s.queues = [(k, x)]) (hq : q ≠ k) : (s.queueAt q).fetched = none := by
  unfold State.queueAt
  rw [h]
  simp [Map.at_, Map.get?, Ne.symm hq, Queue.reset]

/-- The same in its fetcher's turn. -/
theorem witness_FrontEndEvents_launch :
    (l1.queueAt l1.ev.a).fetched = some launch0 ∧ wouldStart l1 3 = true ∧ fetcherPick l1 3 = some 3 := by
  obtain ⟨l, h, a, e, c, b, -⟩ := launch_checked
  have f : (l1.queueAt 3).fetched = some launch0 := by decide +kernel
  have w : (l1.queueAt 3).st = .waiting := by decide +kernel
  have x : startPacket l1 3 launch0 = beginPacket (admitLaunch l2 3 hd 0 0 l).1 3 launch0 (some (admitLaunch l2 3 hd 0 0 l).2) := by
    show startLaunch l1 3 launch0 = _
    have g : (launchRanges l1 3 launch0).any (fun r => feHeld l1 (asidOf (l1.queueAt 3).desc) r.1 r.2) = false := by
      have := launch_ready
      rw [show asidOf (l1.queueAt 3).desc = 5 by decide +kernel]
      simpa using this
    have c' : qClass (l2.queueAt 3).desc ≠ 2 := by decide +kernel
    simp only [startLaunch, gatePacket, w, b, h, g]
    simp [launch0, a, c']
  have y : wouldStart l1 3 = true := by
    unfold wouldStart
    simp only [f, x, w]
    simpa [admits] using e
  refine ⟨f, y, ?_⟩
  have z : wouldStart l1 = fun q => q == 3 := by
    funext q
    by_cases hq : q = 3
    · subst hq; rw [y]; rfl
    · have g := fetched_other l1 q 3 (l1.queueAt 3) (by rfl) hq
      simp [wouldStart, g, hq]
  unfold fetcherPick
  rw [z]
  decide +kernel

/-- A launch that waits for a grove another queue reserves, and one refused for its DEADLINE. -/
theorem witness_PacketsStart_waits :
    let away : State := { l0 with queues := l0.queues ++ [(4, { l0.queueAt 3 with desc := desc0 2 (2 ^ 256) })] }
    admissible away 3 ⟨imageRead imageBytes, 0, 0, 0, 0, 0, 0, 0, [recBytes []]⟩ = false ∧
    (match (checkLaunch l0 3 (.launch hd 0x50000 0x59000 0 0x58000 8 0)).2 with | .error 0x02 => true | _ => false) = true := by
  decide +kernel

/-- A packet at HEAD fetched and one not yet published, of an Active queue and one that waits for it; a fetched packet of each kind
in its fetcher's turn; a packet that completes; an instance that is over; a write kept back; and a budget overrun. -/
theorem witness_FrontEndEvents :
    let nop : Nat × Nat × Nat := (0x20000, 8, 0x100000000)
    let s := f0 [nop] (desc0 0 0)
    let w := f0 [] (desc0 0 0)
    let k := s.queueAt 3
    let h : W64 := BitVec.ofNat 64 (leNat (readPlace s (.dev 0x20000) 8))
    let next : State := { s with queues := [(3, { k with hdr := some h })] }
    let with_ (q : Queue) : State := { s with queues := [(3, q)] }
    let turn (i : Instr) (st : QSt) : State := with_ { k with fetched := some i, st := st }
    let held := with_ { k with held := [⟨0x40000, [1, 2], false, 0, []⟩] }
    let kept := with_ { k with held := [⟨0, List.replicate 32 1, true, 0, []⟩] }
    let done := with_ { k with started := [⟨0, .preempt hd 7, some 7⟩] }
    let spent : State := { s with insts := [(3, { inst0 with desc := desc0 2 0, charged := [(0, 21)] })] }
    k.st = .active ∧ k.fetched = none ∧ k.head.toNat < k.tail.toNat ∧ launchWaits s 3 = false ∧
    walkHeld s 5 (qRing k.desc) = false ∧ walkHeld next 5 (qRing k.desc + 8) = false ∧ feWalks held 5 0x40000 2 = false ∧
    feWalks kept 5 0x30000 32 = false ∧ (feResolve s 5 (qRing k.desc) true false).toOption = some (.dev 0x20000) ∧ placeWaits s (.dev 0x20000) = false ∧
    hbmCheck s.ev.d = .clean ∧ refusedAway (.dev 0x20000) (hbmCheck s.ev.d) = false ∧
    poisonOf (checkHbm (walkCount s 5 0x20000) (.dev 0x20000) (hbmCheck s.ev.d)) (.dev 0x20000) = none ∧ k.hdr = none ∧ (PF.ofWord (h.setWidth 512)).hdr.seq = 1 ∧
    (PF.ofWord (BitVec.ofNat 512 (leNat (readPlace w (.dev 0x20000) 8)))).hdr.seq ≠ 1 ∧
    (feResolve next 5 (qRing k.desc + 8) true false).toOption = some (.dev 0x20008) ∧ placeWaits next (.dev 0x20008) = false ∧
    poisonOf (checkHbm (walkCount next 5 0x20008) (.dev 0x20008) (hbmCheck s.ev.d)) (.dev 0x20008) = none ∧
    (decodePacket 2 (PF.ofWord (BitVec.ofNat 512 (h.toNat + leNat (readPlace next (.dev 0x20008) 56) * 2 ^ 64)))).toOption.isSome ∧
    ([turn (.nopPacket hd) .active, turn (.waitsig hd 0x40000 0 .system .geu) .waiting].all fun t =>
      wouldStart t 3 && fetcherPick t 3 == some 3) = true ∧
    (done.queueAt 3).started.filter (fun r => r.pos = done.ev.b) = [⟨0, .preempt hd 7, some 7⟩] ∧
    completion done ⟨0, .preempt hd 7, some 7⟩ = some 0 ∧ completion done ⟨0, .endinst hd 8, some 8⟩ = some 0 ∧
    instOver (dropStatics { s with insts := [(3, inst0)] } 3) 3 inst0 = true ∧
    (held.queueAt 3).held.length = 1 ∧ (held.queueAt 3).token = none ∧
    (feResolve held 5 0x40000 false true).toOption = some (.dev 0x40000) ∧ feWriteHeld held 5 0x40000 2 = false ∧
    (kept.queueAt 3).held.map (fun w => (w.addr (kept.queueAt 3), (stampRecord kept w).length)) = [(0x30000, 32)] ∧
    (feResolve kept 5 0x30000 false true).toOption = some (.dev 0x30000) ∧ feWriteHeld kept 5 0x30000 32 = false ∧
    (spent.inst? 3).map Inst.reserved = some true ∧ inst0.ended = false ∧ inst0.img.fbud < 21 ∧ inst0.cause = 0 ∧
    inst0.endSt = .none ∧ inst0.froze = false ∧ spent.tasks = [] ∧ spent.upcalls = [] ∧ (spent.queueAt inst0.queue).st ≠ .disabled := by
  decide +kernel

/-- Registers before and after BAR0 opens, of a queue that is disabled with a valid and an invalid descriptor, Active, Halted and
Frozen. -/
theorem witness_QueueRegisters :
    let s := f0 [] (desc0 0 0)
    let k := s.queueAt 3
    let is (q : Queue) : State := { s with queues := [(3, q)], ifsel := 0x111 }
    let ok (t : State) : Bool := tst t.ifsel 8 && descOk (t.queueAt 3).desc && qVer (t.queueAt 3).desc = 2 && qFmt (t.queueAt 3).desc = 1
    State.reset.booted = false ∧ s.booted = true ∧ k.st = .active ∧ ok (is { k with st := .disabled }) = true ∧
    ok (is { k with st := .disabled, desc := desc0 0 (2 ^ 67) }) = false ∧ k.held = [] ∧ qHeadAddr k.desc = 0 ∧
    ((is { k with st := .halted }).queueAt 3).st = .halted ∧ ((is { k with st := .frozen }).queueAt 3).st = .frozen ∧
    ((State.reset.queueAt 1023).st = .disabled) := by decide +kernel

/-- A request of an operation pending with operands w1 to w6, its block at 0x60000. -/
def ask (s : State) (i : Instr) (w : List Nat) : State :=
  let x (n : Nat) : W64 := BitVec.ofNat 64 (w.getD n 0)
  let r : RF := ⟨0, 0, x 0, x 1, x 2, x 3, x 4, x 5, 0⟩
  { s with req := r, reqs := [⟨0x60000, i, r, [], false⟩] }
/-- What an event leaves of the request: whether it is still pending, and its STATUS byte. -/
def answered (e : Instr) (s : State) : Nat × Byte :=
  (((good (exec e s)).reqs.length), (good (exec e s)).mem.read 0x60001)

/-- Every request within its ranges: the answer comes at once (OK is 0), or the request stays pending. -/
theorem witness_RequestBlocks :
    let s := f0 [] (desc0 0 0)
    let win : State := { s with regions := [⟨5, 0x1000, 0x1000, 7, 0, 0⟩], remap := [(9, 4095)], poolFrames := 4 }
    let full : State := { win with copies := (List.range 17).map fun n => ⟨n, 0, 1, 0, []⟩ }
    ([(Instr.root, [5, 0x4000]), (.root, [5, 0]), (.pgreg, [5, 0x10000, 0x1000, 7, 0, 9]), (.pgunreg, [5, 0x1000]), (.gpool, [4]),
      (.ckreg, [2, 1, 0x10000, 0x1000, 0x20000, 0x1000]), (.exportReq, [3, 2, 0x1000, 0x1000, 1]),
      (.rwin, [3, 0, 0x1000, 0x10000, 1, 65536]), (.retire, [9]), (.exportReq, [3, 2, 0x1000, 0x1000, 0]),
      (.ckreg, [2, 1, 0x10000, 0, 0x20000, 0x1000]), (.grovecfg, [2, 0, 0x101]), (.telem, [0x1000, 100]),
      (.power, [2800, 350]), (.hang, [0xFFFFFFFFFFFFFFFF, 0xFFFFFFFF, 65536])].all fun e =>
        answered e.1 (ask win e.1 e.2) == (0, 0)) = true ∧
    ([(Instr.shoot, [5, 0x1000, 0x1000]), (.retire, [8])].all fun e => (answered e.1 (ask win e.1 e.2)).1 == 1) = true ∧
    answered .shootComplete (ask win .shoot [5, 0x1000, 0x1000]) = (0, 0) ∧
    answered .gpoolShrinkComplete (ask win .gpool [1]) = (0, 0) ∧
    (answered .root (ask win .root [5, 0x4001])).1 = 0 ∧ (answered .hang (ask win .hang [1, 0, 65535])).1 = 0 ∧
    ([(Instr.ckreg, [2, 1, 0x10001, 0x1000, 0x20000, 0x1000]), (.ckreg, [2, 1, 0, 0x1000, 0, 0x2000]), (.exportReq, [3, 2, 0x1000, 0x1000, 2]),
      (.rwin, [3, 0, 0x1000, 0x10000, 1, 63]), (.rwin, [3, 0, 0x1000, 0x1000, 1, 64]), (.telem, [0x1000, 99]), (.telem, [0x1001, 100]),
      (.telem, [devSize - 4096, 100]), (.telem, [0, 1000001]), (.power, [1199, 350]), (.power, [2801, 350]), (.power, [1200, 325]),
      (.power, [1200, 725]), (.power, [1200, 351])].all fun e => answered e.1 (ask win e.1 e.2) == (0, 2)) = true ∧
    (let used : State := { win with gens := [(0, { win.genAt 0 with st := .draining, target := 2 })]
                                    redWins := [(3, ⟨0, 0, 65536, 1, 64, [⟨.add, 8, 0x40000, 5, 0, 0, 5, 0, 0, false, false⟩]⟩)] }
     targetUsed used 2 = true ∧ (answered .ckreg (ask used .ckreg [2, 1, 0x10000, 0, 0x20000, 0x1000])).1 = 0 ∧
     answered .rwin (ask used .rwin [3, 0, 0x1000, 0x10000, 1, 64]) = (0, 5)) ∧
    (answered .pgreg (ask win .pgreg [5, 0x10000, 0x1000, 8, 0, 9])).1 = 0 ∧ s.live? 8 = none ∧ (s.live? 7).isSome ∧
    (answered .gpool (ask full .gpool [1])).1 = 0 ∧ 1 * 16 < full.copies.length ∧ 1 < full.poolFrames ∧
    frameRetired win 9 = true ∧ frameRetired win 8 = false ∧ 0 < win.spares ∧ win.retiring = [] ∧ targetUsed win 2 = false ∧
    namedGroves (ask win .grovecfg [2, 0, 0x101]).req = [1] ∧ reservedBy win 1 1 = false ∧
    (∀ p ∈ pendingReq (ask win .grovecfg [2, 0, 0x101]) .grovecfg, groveBusy (ask win .grovecfg [2, 0, 0x101]) p 1 = false ∧
      spanWaits win p.blk 64 = false) ∧ win.gens = [] ∧ (win.inst? 7).isSome ∧ win.objs = [] ∧
    (win.cores.all fun c => c.2.tlb.isEmpty) = true ∧ (win.groves.all fun g => g.2.tlb.isEmpty) = true ∧
    shootWaits win ⟨0x60000, .shoot, (ask win .shoot [5, 0x1000, 0x1000]).req, [], false⟩ = false := by decide +kernel

/-- Accesses from outside, by an export that allows writes and by none; ports that are up, retraining and down; a snoop that writes
and one that reads; an extent in use; and a contribution to combine. -/
theorem witness_FabricEvents :
    let s := f0 [] (desc0 0 0)
    let e : State := { s with exports := [(0, ⟨2, 0x1000, 0x1000, true⟩)] }
    let p (x : PortSt) : State := { s with time := 7000000, ports := [(3, { s.portAt 3 with st := x })], ev := ⟨3, 0, 0, 0, false⟩ }
    let used : State := { s with targets := [(1, ⟨true, 0, 8192, 8192, 8192, [], []⟩)]
                                 gens := [(0, { s.genAt 0 with st := .checkpointed, target := 1 })] }
    let m : Contribution := ⟨.add, 8, 0x40000, 5, 0, 0, 5, 0, 0, false, false⟩
    let win : State := { s with redWins := [(3, ⟨s.chip, 0, 65536, 1, 64, [m]⟩)] }
    spanWaits s 0x1000 8 = false ∧ spanHeld s 0x1000 8 = false ∧ placeWaits s (.dev 0x1000) = false ∧ placeHeld s (.dev 0x1000) = false ∧ 0x1000 + 8 ≤ devSize ∧
    (⟨2, 0x1000, 0x1000, true⟩ : ExportEntry).allows 2 0x1FF8 8 true = true ∧ e.exports.length = 1 ∧ s.exports = [] ∧
    (⟨2, devSize - 8, 16, true⟩ : ExportEntry).allows 2 (devSize - 4) 8 true = true ∧
    remoteKind 0 = none ∧ (remoteKind 1).isSome = true ∧ poisonOf s (.dev 0x1FF8) = none ∧
    ((remoteKind 1).bind fun k => rmw k 8 0 5 0).isSome ∧
    ((p .up).portAt 3).st = .up ∧ ((p .retraining).portAt 3).st = .retraining ∧
    ((p .retraining).portAt 3).since + 700000 ≤ (p .retraining).time.toNat ∧ s.time.toNat < ((p .retraining).portAt 3).since + 700000 ∧
    rmw .cas 8 0 5 0 = none ∧ remoteKind 10 = some .cas ∧
    (((p .down).ports.all fun k => k.2.st ≠ .up) = true) ∧ ((p .up).ports.any fun k => k.2.st = .up) = true ∧
    s.ev.f = false ∧ lossReal (p .down) = true ∧ lossReal (p .up) = false ∧ lossReal { p .up with ev := ⟨7, 0, 0, 0, true⟩ } = true ∧
    lossReal { p .down with ev := ⟨s.chip, 0, 0, 0, true⟩ } = false ∧
    (Place.remote 7 0).lost { p .up with ev := ⟨7, 0, 0, 0, true⟩ } = true ∧
    (Place.remote 6 0).lost { p .up with ev := ⟨7, 0, 0, 0, true⟩ } = false ∧
    (used.targets.any fun t => t.2.host && targetUsed used t.1 && overlap 0 4096 t.2.base t.2.len) = true ∧ s.targets = [] ∧
    State.reset.queues = [] ∧ ((p .up).portAt 3).expect = 0 ∧ s.booted = true ∧ 3 < portCount ∧ (mergeGroups [m])[0]? = some m ∧ (Map.get? win.redWins 3).isSome ∧ rmw .add 8 0 5 0 = some 5 ∧ m.pa + m.len ≤ devSize ∧
    poisonOf s (.dev 0x40000) = none := by decide +kernel

/-- A frame with an uncorrectable error and one retiring; a channel at its eighth replay failure and one retraining; a link at its
limit; a boot that succeeds and one that fails; a parked context of the firmware; key slots; telemetry that is due; and a grove
in lockstep. -/
theorem witness_HardwareEvents :
    let s := f0 [] (desc0 0 0)
    let bad : State := { s with worn := [9], retiring := [⟨8, 4095⟩] }
    let tele : State := { s with telemPa := 0x100000, telemEvery := 100, time := 1000000 }
    let park : State := s.setCtx 0 8 { Ctx.reset 0 8 with st := .parked }
    let lock : State := (({ s with time := 5 }).setGrove 0 { s.groveAt 0 with prot := true }).setCtx 0 0 { k0 with unmatched := [(3, 3)] }
    let warm : State := { s with time := 10000000, powerAt := some 9300000 }
    9 ∈ bad.worn ∧ frameRetired bad 9 = false ∧ 0 < bad.spares ∧ bad.retiring.find? (fun r => r.frame = 8) = some ⟨8, 4095⟩ ∧
    (Map.at_ [(511, (⟨false, false, 7, 0⟩ : Chan))] 511 Chan.reset).replays = 7 ∧
    (Map.at_ [(511, (⟨false, true, 8, 0⟩ : Chan))] 511 Chan.reset).retraining = true ∧ 2 ^ 36 ≤ Map.at_ [(0, 2 ^ 36)] 0 0 ∧
    firmwareOk (resetState s) s.svn [] = false ∧ bootFails true true [] [] (resetState s) = some 1 ∧
    (∀ k ∈ ([] : List (Nat × Nat)), Map.at_ [k] k.1 0 + 512 < 2 ^ 36) ∧ s.linkUse.all (fun e => e.2 + 513 < 2 ^ 36) = true ∧
    warm.powerAt.all (fun k => k + 700000 ≤ warm.time.toNat) = true ∧ warm.warmAt + 7000000 ≤ warm.time.toNat ∧
    svcReq ⟨0, .svc 1 0 0 0, 0, 0, [], 9, none, 0⟩ = true ∧
    (park.ctxAt 0 8).st = .parked ∧ (park.ctxAt 0 8).task = none ∧ Map.get? ([] : Map Bool) 7 = none ∧
    Map.get? [(7, true)] 7 = some true ∧ tele.telemLast + tele.telemEvery * 700 ≤ tele.time.toNat ∧
    spanHeld tele 0x100000 8192 = false ∧ spanWaits tele 0x100000 8192 = false ∧ poolFrame bad 9 = false ∧
    (lock.groveAt (groveOf 0)).prot = true ∧ (lock.ctxAt 0 0).st ≠ .free ∧ (lock.ctxAt 0 0).st ≠ .ending ∧
    (lock.ctxAt 0 0).jobs = [] ∧ hasCause (lock.ctxAt 0 0) = false ∧ (∃ u ∈ (lock.ctxAt 0 0).unmatched, u.1 = 3 ∧ u.2 + 2 ≤ lock.time.toNat) := by decide +kernel

end Sys2Proof.Tests
end

section
/-! PROOFS. Results of the integer and bit instructions (R173-R179): a result that `landS` puts in flight, the value of
each operation in the terms of the spec, and the two statements put together from them. -/

namespace Sys2Proof.Machine
open Sys2Proof

/-! ## A result put in flight (R169) -/

/-- A result of latency bound L lands 1 to L non-frozen cycles after its issue. -/
theorem State.landAt_bounds (s : State) (k : Nat) {L : Nat} (hL : 1 ≤ L) :
    s.myCore.cyc + 1 ≤ s.landAt k L ∧ s.landAt k L ≤ s.myCore.cyc + L := by
  unfold State.landAt
  split
  · omega
  · have := Nat.mod_lt (s.free (s.slotKey (6000 + k))) hL
    omega

/-- A result that is staged is in flight, and nothing else changes. -/
theorem inFlight_stage (s : State) (wr : Wr) {L : Nat} (fl : FFlags) (hL : 1 ≤ L) :
    inFlight s (s.stage wr L fl) wr L fl :=
  ⟨_, rfl, rfl, rfl, rfl, s.landAt_bounds _ hL⟩

/-- An operation whose meaning is to land `v` in s[D] completes with the result `w`, where the two are equal. -/
theorem yields_landS {i : Instr} {s : State} {d : SReg} {v w : W64} {L : Nat} (hi : exec i s = landS s d v L)
    (hv : v = w) (hL : 1 ≤ L := by decide) : yields i s s (.s d w) L 0 :=
  ⟨_, hi, hv ▸ inFlight_stage s _ 0 hL⟩

/-! ## Division (R173, R174) -/

/-- The signed quotient, its two borderline cases apart: that of −2^63 by −1 wraps to −2^63. -/
theorem sdivRem_fst (x y : W64) :
    (sdivRem x y).1 = if y = 0 then BitVec.allOnes 64
      else if x = 0x8000000000000000 ∧ y = BitVec.allOnes 64 then 0x8000000000000000
      else BitVec.ofInt 64 (x.toInt.tdiv y.toInt) := by
  by_cases hy : y = 0
  · rw [sdivRem, if_pos hy, if_pos hy]
  · rw [sdivRem, if_neg hy, if_neg hy]
    split
    case isTrue h =>
      obtain ⟨rfl, rfl⟩ := h
      decide
    case isFalse => rfl

/-- The signed remainder is x − y × quotient, its two borderline cases apart. -/
theorem sdivRem_snd (x y : W64) :
    (sdivRem x y).2 = if y = 0 then x
      else if x = 0x8000000000000000 ∧ y = BitVec.allOnes 64 then 0
      else BitVec.ofInt 64 (x.toInt - y.toInt * x.toInt.tdiv y.toInt) := by
  by_cases hy : y = 0
  · rw [sdivRem, if_pos hy, if_pos hy]
  · rw [sdivRem, if_neg hy, if_neg hy]
    split
    case isTrue h =>
      obtain ⟨rfl, rfl⟩ := h
      decide
    case isFalse => rw [← Int.tmod_def]

/-- The unsigned quotient, with that of a division by zero apart. -/
theorem udivRem_fst (x y : W64) : (udivRem x y).1 = if y = 0 then BitVec.allOnes 64 else x / y := by
  rw [BitVec.udiv_def, udivRem, apply_ite Prod.fst]

/-- The unsigned remainder, with that of a division by zero apart. -/
theorem udivRem_snd (x y : W64) : (udivRem x y).2 = if y = 0 then x else x % y := by
  rw [BitVec.umod_def, udivRem, apply_ite Prod.snd]

/-! ## The smaller and the larger of two words (R173) -/

/-- Signed: y if it is below x, else x, is the smaller. -/
theorem ite_slt_eq_min (x y : W64) : (if y.slt x then y else x) = if x.toInt ≤ y.toInt then x else y := by
  simp only [BitVec.slt_iff_toInt_lt, ← Int.not_le, ite_not]

/-- Unsigned: y if it is below x, else x, is the smaller. -/
theorem ite_ult_eq_min (x y : W64) : (if y.ult x then y else x) = if x.toNat ≤ y.toNat then x else y := by
  simp only [BitVec.ult_iff_lt, BitVec.lt_def, ← Nat.not_le, ite_not]

/-- Signed: y if it is above x, else x, is the larger; words of one signed value are one word. -/
theorem ite_slt_eq_max (x y : W64) : (if x.slt y then y else x) = if x.toInt ≤ y.toInt then y else x := by
  by_cases h : x = y
  · rw [h, ite_self, ite_self]
  · have h := mt BitVec.eq_of_toInt_eq h
    simp only [BitVec.slt_iff_toInt_lt, Int.lt_iff_le_and_ne, ne_eq, h, not_false_eq_true, and_true]

/-- Unsigned: y if it is above x, else x, is the larger. -/
theorem ite_ult_eq_max (x y : W64) : (if x.ult y then y else x) = if x.toNat ≤ y.toNat then y else x := by
  by_cases h : x = y
  · rw [h, ite_self, ite_self]
  · have h := mt BitVec.eq_of_toNat_eq h
    simp only [BitVec.ult_iff_lt, BitVec.lt_def, Nat.lt_iff_le_and_ne, ne_eq, h, not_false_eq_true, and_true]

/-- Settles O11: every binary integer instruction lands one value; those of the divisions and of the smaller and the
larger are brought into the spec's form. -/
theorem integerResults : Obligations.IntegerResults := by
  unfold Obligations.IntegerResults
  intro s d a y2 x y n minInt
  exact ⟨yields_landS rfl rfl, yields_landS rfl rfl, yields_landS rfl rfl, yields_landS rfl rfl, yields_landS rfl rfl,
    yields_landS rfl (sdivRem_fst x y), yields_landS rfl (udivRem_fst x y),
    yields_landS rfl (sdivRem_snd x y), yields_landS rfl (udivRem_snd x y),
    yields_landS rfl rfl, yields_landS rfl rfl, yields_landS rfl rfl, yields_landS rfl rfl,
    yields_landS rfl rfl, yields_landS rfl rfl, yields_landS rfl rfl, yields_landS rfl rfl,
    yields_landS rfl (ite_slt_eq_min x y), yields_landS rfl (ite_slt_eq_max x y),
    yields_landS rfl (ite_ult_eq_min x y), yields_landS rfl (ite_ult_eq_max x y)⟩

/-! ## Counts (R175) -/

/-- Of a word that is not zero, the leading zeros and the position of the most significant set bit make up 63. -/
theorem leadZeros_add_log2 {x : W64} (h : x ≠ 0) : leadZeros x + x.toNat.log2 = 63 := by
  have hlog : x.toNat.log2 < 64 := (Nat.log2_lt (BitVec.toNat_ne.1 h)).2 x.isLt
  rw [leadZeros, if_neg h]
  omega

/-- The leading zeros: at most 64, no bit among them set, and the bit below them set if there is one. -/
theorem leadZeros_spec (x : W64) : leadZeros x ≤ 64 ∧ x.toNat < 2 ^ (64 - leadZeros x) ∧
    (leadZeros x < 64 → 2 ^ (63 - leadZeros x) ≤ x.toNat) := by
  by_cases h : x = 0
  · subst h
    decide
  · have hsum := leadZeros_add_log2 h
    refine ⟨by omega, ?_, fun _ => ?_⟩
    · rw [show 64 - leadZeros x = x.toNat.log2 + 1 by omega]
      exact Nat.lt_log2_self
    · rw [show 63 - leadZeros x = x.toNat.log2 by omega]
      exact Nat.log2_self_le (BitVec.toNat_ne.1 h)

/-- The trailing zeros: at most 64, no bit below set, and the next bit set if there is one. -/
theorem trailZeros_spec (x : W64) : trailZeros x ≤ 64 ∧ (∀ i, i < trailZeros x → x.getLsbD i = false) ∧
    (trailZeros x < 64 → x.getLsbD (trailZeros x) = true) := by
  unfold trailZeros tst
  cases h : (List.range 64).find? fun i => x.getLsbD i with
  | none =>
    simp only [List.find?_range_eq_none, Bool.not_eq_true'] at h
    exact ⟨Nat.le_refl 64, h, fun hn => absurd hn (Nat.lt_irrefl 64)⟩
  | some n =>
    simp only [List.find?_range_eq_some, List.mem_range, Bool.not_eq_true'] at h
    obtain ⟨hset, hlt, hclear⟩ := h
    exact ⟨Nat.le_of_lt hlt, hclear, fun _ => hset⟩

/-- A fold that adds one for each element that passes counts them. -/
theorem foldl_add_one_eq_countP {α : Type} (p : α → Bool) (l : List α) (n : Nat) :
    l.foldl (fun n a => if p a then n + 1 else n) n = n + l.countP p := by
  induction l generalizing n with
  | nil => rfl
  | cons a l ih =>
    rw [List.foldl_cons, ih, List.countP_cons]
    split <;> omega

/-- POPC counts the bits that are set. -/
theorem popCount_eq_countP (x : W64) : popCount x = (List.range 64).countP fun i => x.getLsbD i :=
  (foldl_add_one_eq_countP _ _ 0).trans (Nat.zero_add _)

/-! ## Extensions and fields, bit by bit (R176, R177, R179) -/

/-- A sign extension repeats bit w above it. -/
theorem getLsbD_sextFrom_succ (x : W64) (w : Nat) {i : Nat} (hi : i < 64) :
    (sextFrom (w + 1) x).getLsbD i = x.getLsbD (min i w) := by
  rw [sextFrom, if_neg (Nat.succ_ne_zero w), BitVec.getLsbD_signExtend, BitVec.msb_eq_getLsbD_last]
  simp only [BitVec.getLsbD_setWidth, hi, Nat.add_sub_cancel, Nat.lt_succ_self, decide_true, Bool.true_and]
  by_cases h : i < w + 1
  · rw [if_pos h, decide_eq_true h, Bool.true_and, Nat.min_eq_left (Nat.le_of_lt_succ h)]
  · rw [if_neg h, Nat.min_eq_right (by omega)]

/-- A zero extension keeps the bits below `k` and clears the others. -/
theorem getLsbD_zextFrom (x : W64) (k : Nat) {i : Nat} (hi : i < 64) :
    (zextFrom k x).getLsbD i = (decide (i < k) && x.getLsbD i) := by
  simp only [zextFrom, BitVec.getLsbD_setWidth, hi, decide_true, Bool.true_and]

/-- MOVHI's word as a number: its immediate above, the low 34 bits of the old word below. -/
theorem append_bits_eq_ofNat (v : BitVec 30) (x : W64) :
    v ++ bits x 0 34 = BitVec.ofNat 64 (v.toNat * 2 ^ 34 + x.toNat % 2 ^ 34) := by
  have hlow : x.toNat % 2 ^ 34 < 2 ^ 34 := Nat.mod_lt _ (by decide)
  have hv : v.toNat < 2 ^ 30 := v.isLt
  apply BitVec.eq_of_toNat_eq
  rw [BitVec.toNat_append, bits, BitVec.extractLsb'_toNat, Nat.shiftRight_zero, ← Nat.shiftLeft_add_eq_or_of_lt hlow,
    Nat.shiftLeft_eq, BitVec.toNat_ofNat]
  exact (Nat.mod_eq_of_lt (by omega)).symm

/-- The bits of BFI's mask are those of the field. -/
theorem getLsbD_fieldMask (pos len : Nat) {i : Nat} (hi : i < 64) :
    (zextFrom len (BitVec.allOnes 64) <<< pos).getLsbD i = decide (pos ≤ i ∧ i < pos + len) := by
  rw [BitVec.getLsbD_shiftLeft, getLsbD_zextFrom _ _ (by omega), BitVec.getLsbD_allOnes, Bool.eq_iff_iff]
  simp only [Bool.and_eq_true, Bool.not_eq_true', decide_eq_true_eq, decide_eq_false_iff_not]
  omega

/-- A field inserted under its mask: the bits of `x` in the field, those of `t` elsewhere. -/
theorem getLsbD_fieldInsert (t x : W64) (pos len : Nat) {i : Nat} (hi : i < 64) :
    let m : W64 := zextFrom len (BitVec.allOnes 64) <<< pos
    ((t &&& ~~~m) ||| ((x <<< pos) &&& m)).getLsbD i =
      if pos ≤ i ∧ i < pos + len then x.getLsbD (i - pos) else t.getLsbD i := by
  intro m
  rw [BitVec.getLsbD_or, BitVec.getLsbD_and, BitVec.getLsbD_and, BitVec.getLsbD_not, getLsbD_fieldMask pos len hi,
    BitVec.getLsbD_shiftLeft]
  by_cases h : pos ≤ i ∧ i < pos + len
  · simp only [if_pos h, decide_eq_true h, decide_eq_true hi, decide_eq_false (Nat.not_lt.2 h.1), Bool.not_true,
      Bool.not_false, Bool.and_false, Bool.and_true, Bool.true_and, Bool.false_or]
  · simp only [if_neg h, decide_eq_false h, decide_eq_true hi, Bool.not_false, Bool.and_false, Bool.and_true,
      Bool.true_and, Bool.or_false]

/-- Settles O12: every count, extension, field and move lands one value, read bit by bit or as a number. -/
theorem bitFieldResults : Obligations.BitFieldResults := by
  unfold Obligations.BitFieldResults
  intro s d a x
  refine ⟨⟨leadZeros x, yields_landS rfl rfl, leadZeros_spec x⟩,
    ⟨trailZeros x, yields_landS rfl rfl, trailZeros_spec x⟩,
    yields_landS rfl (congrArg _ (popCount_eq_countP x)),
    fun w => ⟨_, yields_landS rfl rfl, fun i hi => getLsbD_sextFrom_succ x w hi⟩,
    fun w => ⟨_, yields_landS rfl rfl, fun i hi => ?_⟩,
    fun b neg p => yields_landS rfl rfl, fun v => yields_landS rfl rfl,
    fun v => yields_landS rfl (append_bits_eq_ofNat v (s.rs d)),
    fun pos len _ _ => ⟨⟨_, yields_landS rfl rfl, fun i hi => ?_⟩,
      ⟨_, yields_landS rfl rfl, fun i hi => getLsbD_fieldInsert (s.rs d) x pos.toNat len.toNat hi⟩⟩⟩
  · simpa only [Nat.lt_succ_iff] using getLsbD_zextFrom x (w.val + 1) hi
  · rw [getLsbD_zextFrom _ _ hi, BitVec.getLsbD_ushiftRight]

end Sys2Proof.Machine
end
